-- ==== Sys2Proof/Word.lean ====
section
/-!
DEFINITION. The word types of the Smihel (R9, R13): registers, lane masks, addresses of the context's space.
-/

namespace Sys2Proof

/-- A byte of memory (R9). -/
abbrev Byte := BitVec 8

/-- One lane of a vector register, or a literal (R13, R20). -/
abbrev Word := BitVec 32

/-- A scalar register, a mask register or a pod address (R13, R171). -/
abbrev DWord := BitVec 64

/-- A set of lanes of one warp: bit i is lane i (R13). -/
abbrev Lanes := BitVec 64

/-- The address of an instruction, or bits [53:0] of a pod address (R18, R171). -/
abbrev Addr54 := BitVec 54

/-- A 64-byte message or management command, byte o in bits [8o+7:8o] (R9, R280, R316). -/
abbrev Msg := BitVec 512

/-- A 512-byte launch record or roll-call attachment (R141, R393). -/
abbrev Attach := BitVec 4096

end Sys2Proof
end

