-- ==== Sys2Proof/Machine/Maps.lean ====
section
/-!
DEFINITION. Sparse data as lists of key and value pairs: memory, register files and tables (plain data, canonical form).
-/

namespace Sys2Proof

/-- A sparse map: keys strictly rising. -/
abbrev Map (α : Type) := List (Nat × α)

/-- The value at a key. -/
def Map.find {α : Type} : Map α → Nat → Option α
  | [], _ => none
  | (j, v) :: r, k => if j = k then some v else Map.find r k

/-- The value at a key, `d` where nothing is listed. -/
def Map.get {α : Type} (d : α) (m : Map α) (k : Nat) : α := (m.find k).getD d

/-- The map with a value at a key. -/
def Map.set {α : Type} : Map α → Nat → α → Map α
  | [], k, v => [(k, v)]
  | (j, w) :: r, k, v => if j = k then (k, v) :: r else if k < j then (k, v) :: (j, w) :: r else (j, w) :: Map.set r k v

/-- The map without a key. -/
def Map.del {α : Type} (m : Map α) (k : Nat) : Map α := m.filter fun e => e.1 != k

/-- The map with a value at a key; the value that an unlisted key reads as removes the entry. -/
def Map.put {α : Type} [DecidableEq α] (d : α) (m : Map α) (k : Nat) (v : α) : Map α :=
  if v = d then m.del k else m.set k v

/-- The entries with keys in [lo, hi). -/
def Map.range {α : Type} (m : Map α) (lo hi : Nat) : Map α := m.filter fun e => lo ≤ e.1 && e.1 < hi

/-- The map without the keys in [lo, hi). -/
def Map.clear {α : Type} (m : Map α) (lo hi : Nat) : Map α := m.filter fun e => e.1 < lo || hi ≤ e.1

/-- The numbers of a list, ascending, each once. -/
def ascending (l : List Nat) : List Nat := (l.foldl (fun (m : Map Unit) n => m.set n ()) []).map (·.1)

/-- A change of the value at a key, where there is one. -/
def Map.modify {α : Type} (m : Map α) (k : Nat) (f : α → α) : Map α :=
  match m.find k with
  | none => m
  | some v => m.set k (f v)

/-- Keys strictly rising, from a bound. -/
def Map.rising {α : Type} : Option Nat → Map α → Bool
  | _, [] => true
  | none, (k, _) :: r => Map.rising (some k) r
  | some b, (k, _) :: r => b < k && Map.rising (some k) r

/-- Many writes, in order. -/
def Map.putAll {α : Type} [DecidableEq α] (d : α) (m : Map α) : List (Nat × α) → Map α
  | [] => m
  | (k, v) :: r => Map.putAll d (m.put d k v) r

/-- Whether bit i of a set is set. -/
def inSet (x : DWord) (i : Nat) : Bool := x.getLsbD i

/-- The set with element i. -/
def insSet (x : DWord) (i : Nat) : DWord := x ||| (1#64 <<< i)

/-- The members of a set below n, ascending. -/
def members (n : Nat) (x : DWord) : List Nat := (List.range n).filter fun i => inSet x i

/-- The set of a list. -/
def setOf : List Nat → DWord
  | [] => 0
  | i :: r => insSet (setOf r) i

/-- The number with the bits of a list set. -/
def setOfNat (l : List Nat) : Nat := l.foldl (fun n i => if n / 2 ^ i % 2 = 1 then n else n + 2 ^ i) 0

/-- The lowest members below n as a set of one, or the empty set. -/
def lowest (n : Nat) (x : DWord) : DWord :=
  match members n x with
  | [] => 0
  | i :: _ => insSet 0 i

/-- The set of all elements below n. -/
def allSet (n : Nat) : DWord := BitVec.ofNat 64 (2 ^ n - 1)

/-- An element put into a sorted list, behind its equals. -/
def insertBy {α : Type} (lt : α → α → Bool) (x : α) : List α → List α
  | [] => [x]
  | y :: r => if lt x y then x :: y :: r else y :: insertBy lt x r

/-- A list sorted, equals kept in their order. -/
def sortBy {α : Type} (lt : α → α → Bool) (l : List α) : List α := l.foldl (fun r x => insertBy lt x r) []

/-- The first of the least elements of a list. -/
def leastBy {α : Type} (lt : α → α → Bool) : List α → Option α
  | [] => none
  | x :: r => match leastBy lt r with
    | some y => some (if lt y x then y else x)
    | none => some x

/-- The sublists of a list. -/
def sublistsOf {α : Type} : List α → List (List α)
  | [] => [[]]
  | x :: r => sublistsOf r ++ (sublistsOf r).map (x :: ·)

/-- The bytes of a number, n of them, least significant first (R9). -/
def bytesOf : Nat → Nat → List Byte
  | 0, _ => []
  | n + 1, w => BitVec.ofNat 8 w :: bytesOf n (w / 256)

/-- The little-endian number of a list of bytes (R9). -/
def numOf : List Byte → Nat
  | [] => 0
  | b :: r => b.toNat + 256 * numOf r

/-- A field of `size` bytes at offset `off` of a little-endian number (R9). -/
def fieldAt (n off size : Nat) : Nat := n / 2 ^ (8 * off) % 2 ^ (8 * size)

/-- A number with `size` bytes at offset `off` replaced. -/
def setField (n off size v : Nat) : Nat :=
  n - fieldAt n off size * 2 ^ (8 * off) + v % 2 ^ (8 * size) * 2 ^ (8 * off)

end Sys2Proof
end

