-- ==== Sys2Proof/Syntax.lean ====
section
/-!
DEFINITION. The instruction set as syntax: one constructor of `Instr` per row of spec/opcode_table.json.
An F64 or F96 instruction carries the fields of R19 and R20 (`Enc`), an F32 instruction those of R21 (`Short`);
a row that is an event of an engine or of the outside carries what the event brings.
-/

namespace Sys2Proof

/-- The scope field (R22). -/
inductive Scope where
  | lane | warp | set | block
deriving DecidableEq, Repr

/-- The fields of an F64 or F96 instruction (R19, R20); `lit` is the literal of F96, none in F64. -/
structure Enc where
  scope : Scope
  sel   : BitVec 4
  look  : BitVec 4
  modi  : BitVec 6
  dst   : BitVec 9
  a     : BitVec 9
  b     : BitVec 9
  c     : BitVec 9
  lit   : Option Word
deriving DecidableEq, Repr

/-- The fields of an F32 instruction (R21). -/
structure Short where
  scope : Scope
  dst   : BitVec 6
  a     : BitVec 6
  b     : BitVec 6
deriving DecidableEq, Repr

/-- A place where ordered operations are performed (R376): a home agent, a core's scratchpad bank, a die's scratchpad
bank, a core's pool unit. -/
inductive PerfPoint where
  | home (n : Nat) | bank (core : Nat) | die (d : Nat) | pool (core : Nat)
deriving DecidableEq, Repr

/-- A stored word that an error can mark (R426, R427): a DRAM sector, a 64-bit word of a core's scratchpad, of the die
scratchpads, of a vector register (lanes 2 i and 2 i + 1), a scalar register, a mask register, a pair of accumulator words, a 64-bit word of
a core's L1 and of the L2 by its physical address / 8, the scheduler engine's tables, and word n of any other SRAM of a unit: TLBs,
instruction caches, queues. -/
inductive Locus where
  | dram (sector : Nat)
  | spad (core word : Nat)
  | die (word : Nat)
  | vreg (wid reg i : Nat)
  | sreg (wid reg : Nat)
  | kreg (wid reg : Nat)
  | acc (core pair : Nat)
  | l1 (core word : Nat)
  | l2 (word : Nat)
  | sched
  | sram (unit word : Nat)
deriving DecidableEq, Repr

/-- A RoCEv2 packet as the porter sees it (R320, R321, R325, R328): the fields of its headers that the rules name. `intact` says that its FCS,
its IP and UDP checksums and its ICRC are right, `form` that it is one of the forms that R321 supports, `ect` that it is sent ECT(0). -/
structure Packet where
  intact  : Bool
  form    : Bool
  ect     : Bool
  src     : BitVec 128
  dst     : BitVec 128
  pkey    : BitVec 16
  qpn     : BitVec 24
  psn     : BitVec 24
  addr    : DWord
  rkey    : Word
  len     : Nat
  first   : Bool
  last    : Bool
  data    : List Byte
  swapAdd : DWord
  compare : DWord
  code    : BitVec 8
  echo    : BitVec 6
  ce      : Bool
deriving DecidableEq, Repr

/-- What a PTP Announce message tells of a clock (IEEE 1588, R277): the fields that the best master clock algorithm compares, in its order. -/
structure PtpData where
  prio1    : Nat
  quality  : Nat × Nat × Nat
  prio2    : Nat
  identity : Nat
  steps    : Nat
deriving DecidableEq, Repr

/-- What a PTP exchange on a port brings (R277, R278): an Announce message, a peer's request for its delay, or an offset from the port's master
measured in nanoseconds. -/
inductive PtpMsg where
  | announce (port : Nat) (d : PtpData)
  | pdelayReq (port : Nat)
  | offset (port : Nat) (ns : Int)
deriving DecidableEq, Repr

/-- The headers that carry a Hytur datagram (R279): the port that it comes through, its hop limit, its UDP destination port, whether its UDP checksum
is there and right, whether both addresses are link-local, and its priority code point. -/
structure Head where
  port  : Nat
  hop   : Nat
  dport : Nat
  sum   : Bool
  linkLocal : Bool
  pcp   : Nat
deriving DecidableEq, Repr

/-- A received Hytur datagram (R279): its headers and its message. -/
structure Datagram where
  head : Head
  msg  : Msg
deriving DecidableEq, Repr

/-- The steps of the device: one constructor per row of spec/opcode_table.json. -/
inductive Instr where
  /-- IADD, R88: Integer add of A and B, wrapping or saturating, per lane or once as a scalar; F64 or F96 form. -/
  | iadd (e : Enc)
  /-- IADD_F32, R88: Short form of IADD on v0 to v63 with modifier 0. -/
  | iaddF32 (f : Short)
  /-- ISUB, R88: Integer subtract of B from A; F64 or F96 form. -/
  | isub (e : Enc)
  /-- ISUB_F32, R88: Short form of ISUB. -/
  | isubF32 (f : Short)
  /-- IMUL, R88: Integer multiply, low bits or saturated; F64 or F96 form. -/
  | imul (e : Enc)
  /-- IMUL_F32, R88: Short form of IMUL. -/
  | imulF32 (f : Short)
  /-- IMULH, R88: High half of an integer product. -/
  | imulh (e : Enc)
  /-- IMAD, R88: Exact integer multiply-add with a single wrap or clamp. -/
  | imad (e : Enc)
  /-- IMIN, R88: Signed or unsigned integer minimum; F64 or F96 form. -/
  | imin (e : Enc)
  /-- IMIN_F32, R88: Short form of IMIN. -/
  | iminF32 (f : Short)
  /-- IMAX, R88: Signed or unsigned integer maximum; F64 or F96 form. -/
  | imax (e : Enc)
  /-- IMAX_F32, R88: Short form of IMAX. -/
  | imaxF32 (f : Short)
  /-- IABS, R88: Integer absolute value, optionally saturating. -/
  | iabs (e : Enc)
  /-- IABS_F32, R88: Short form of IABS. -/
  | iabsF32 (f : Short)
  /-- INEG, R88: Integer negate, optionally saturating. -/
  | ineg (e : Enc)
  /-- INEG_F32, R88: Short form of INEG. -/
  | inegF32 (f : Short)
  /-- LEA, R88: Computes A plus B shifted left by 0 to 7. -/
  | lea (e : Enc)
  /-- ICMP, R88: Integer comparison writing a mask bit per lane or a scalar 1 or 0. -/
  | icmp (e : Enc)
  /-- SEL, R88: Selects A or B by a mask bit or a scalar condition. -/
  | sel (e : Enc)
  /-- AND, R90: Bitwise AND; F64 or F96 form. -/
  | and (e : Enc)
  /-- AND_F32, R90: Short form of AND. -/
  | andF32 (f : Short)
  /-- OR, R90: Bitwise OR; F64 or F96 form. -/
  | or (e : Enc)
  /-- OR_F32, R90: Short form of OR. -/
  | orF32 (f : Short)
  /-- XOR, R90: Bitwise exclusive OR; F64 or F96 form. -/
  | xor (e : Enc)
  /-- XOR_F32, R90: Short form of XOR. -/
  | xorF32 (f : Short)
  /-- ANDN, R90: A AND NOT B; F64 or F96 form. -/
  | andn (e : Enc)
  /-- ANDN_F32, R90: Short form of ANDN. -/
  | andnF32 (f : Short)
  /-- NOT, R90: Bitwise complement. -/
  | not (e : Enc)
  /-- NOT_F32, R90: Short form of NOT. -/
  | notF32 (f : Short)
  /-- SHL, R90: Logical shift left; F64 or F96 form. -/
  | shl (e : Enc)
  /-- SHL_F32, R90: Short form of SHL. -/
  | shlF32 (f : Short)
  /-- SHR, R90: Logical shift right; F64 or F96 form. -/
  | shr (e : Enc)
  /-- SHR_F32, R90: Short form of SHR. -/
  | shrF32 (f : Short)
  /-- SAR, R90: Arithmetic shift right; F64 or F96 form. -/
  | sar (e : Enc)
  /-- SAR_F32, R90: Short form of SAR. -/
  | sarF32 (f : Short)
  /-- ROTL, R90: Rotate left by B mod width. -/
  | rotl (e : Enc)
  /-- POPC, R90: Counts set bits. -/
  | popc (e : Enc)
  /-- CLZ, R90: Counts leading zero bits. -/
  | clz (e : Enc)
  /-- CTZ, R90: Counts trailing zero bits. -/
  | ctz (e : Enc)
  /-- BREV, R90: Reverses the bit order. -/
  | brev (e : Enc)
  /-- BFE, R90: Extracts a bit field, zero- or sign-extended. -/
  | bfe (e : Enc)
  /-- BFI, R90: Inserts a bit field of A into C. -/
  | bfi (e : Enc)
  /-- BPERM, R90: Byte permute with optional sign replication. -/
  | bperm (e : Enc)
  /-- FADD, R92: Floating-point add with one rounding; F64 or F96 form. -/
  | fadd (e : Enc)
  /-- FADD_F32, R92: Short form of FADD in FP32 with .rn. -/
  | faddF32 (f : Short)
  /-- FSUB, R92: Floating-point subtract; F64 or F96 form. -/
  | fsub (e : Enc)
  /-- FSUB_F32, R92: Short form of FSUB. -/
  | fsubF32 (f : Short)
  /-- FMUL, R92: Floating-point multiply; F64 or F96 form. -/
  | fmul (e : Enc)
  /-- FMUL_F32, R92: Short form of FMUL. -/
  | fmulF32 (f : Short)
  /-- FFMA, R92: Fused multiply-add with one rounding. -/
  | ffma (e : Enc)
  /-- FMIN, R93: Floating-point minimum, ordering -0 below +0; F64 or F96 form. -/
  | fmin (e : Enc)
  /-- FMIN_F32, R93: Short form of FMIN. -/
  | fminF32 (f : Short)
  /-- FMAX, R93: Floating-point maximum; F64 or F96 form. -/
  | fmax (e : Enc)
  /-- FMAX_F32, R93: Short form of FMAX. -/
  | fmaxF32 (f : Short)
  /-- FABS, R93: Clears the sign bit of a non-NaN operand. -/
  | fabs (e : Enc)
  /-- FABS_F32, R93: Short form of FABS. -/
  | fabsF32 (f : Short)
  /-- FNEG, R93: Inverts the sign bit of a non-NaN operand. -/
  | fneg (e : Enc)
  /-- FNEG_F32, R93: Short form of FNEG. -/
  | fnegF32 (f : Short)
  /-- FCMP, R94: Floating-point comparison into a mask bit per lane. -/
  | fcmp (e : Enc)
  /-- FCLASS, R95: Writes a 10-bit class mask of the operand. -/
  | fclass (e : Enc)
  /-- FRINT, R96: Rounds to an integral value in the operand's format. -/
  | frint (e : Enc)
  /-- FDIV, R92: Correctly rounded floating-point divide. -/
  | fdiv (e : Enc)
  /-- FSQRT, R92: Correctly rounded square root. -/
  | fsqrt (e : Enc)
  /-- FDOT2, R97: Two-element dot product plus FP32 c, with one rounding. -/
  | fdot2 (e : Enc)
  /-- FRCP, R98: Reciprocal within 1 ulp. -/
  | frcp (e : Enc)
  /-- FRSQ, R98: Reciprocal square root within 1 ulp. -/
  | frsq (e : Enc)
  /-- FEXP2, R98: Base-2 exponential within the stated bound. -/
  | fexp2 (e : Enc)
  /-- FLOG2, R98: Base-2 logarithm within the stated bound. -/
  | flog2 (e : Enc)
  /-- FSIN, R98: Computes sin(pi a) within the stated bound. -/
  | fsin (e : Enc)
  /-- FCOS, R98: Computes cos(pi a) within the stated bound. -/
  | fcos (e : Enc)
  /-- FTANH, R98: Hyperbolic tangent within the stated bound. -/
  | ftanh (e : Enc)
  /-- RAND, R100: Takes one counter-based draw per participating lane as bits or as a fraction. -/
  | rand (e : Enc)
  /-- CVT, R102: Converts one value per lane between formats. -/
  | cvt (e : Enc)
  /-- PACK, R104: Encodes FP32 values into packed narrow element codes. -/
  | pack (e : Enc)
  /-- UNPACK, R104: Decodes packed narrow elements to FP32. -/
  | unpack (e : Enc)
  /-- MXENC, R106: Encodes 32 FP32 values as one MX block with a computed scale. -/
  | mxenc (e : Enc)
  /-- MXDEC, R107: Decodes one MX block to 32 FP32 values. -/
  | mxdec (e : Enc)
  /-- IXENC, R108: Encodes an I4X block with up to three outliers. -/
  | ixenc (e : Enc)
  /-- IXDEC, R108: Decodes an I4X block to FP32. -/
  | ixdec (e : Enc)
  /-- KAND, R109: AND of two mask registers; F64 form. -/
  | kand (e : Enc)
  /-- KAND_F32, R109: Short form of KAND on k0 to k11. -/
  | kandF32 (f : Short)
  /-- KOR, R109: OR of two mask registers; F64 form. -/
  | kor (e : Enc)
  /-- KOR_F32, R109: Short form of KOR. -/
  | korF32 (f : Short)
  /-- KXOR, R109: Exclusive OR of two mask registers; F64 form. -/
  | kxor (e : Enc)
  /-- KXOR_F32, R109: Short form of KXOR. -/
  | kxorF32 (f : Short)
  /-- KNOT, R109: Complement of a mask register; F64 form. -/
  | knot (e : Enc)
  /-- KNOT_F32, R109: Short form of KNOT. -/
  | knotF32 (f : Short)
  /-- KMOV, R109: Moves between masks, or between a mask and a scalar, by its direction field; F64 form. -/
  | kmov (e : Enc)
  /-- KMOV_F32, R109: Short form of KMOV moving one mask register to another. -/
  | kmovF32 (f : Short)
  /-- KPOP, R109: Counts the set mask bits below W. -/
  | kpop (e : Enc)
  /-- KFIRST, R109: Writes the index of the lowest set mask bit, or 64. -/
  | kfirst (e : Enc)
  /-- SHFL, R111: Moves values between the elements of a scope by gather, rotate, flip or segment. -/
  | shfl (e : Enc)
  /-- BCAST, R112: Broadcasts element j to every present element. -/
  | bcast (e : Enc)
  /-- RED, R113: Reduces the present elements of a scope. -/
  | red (e : Enc)
  /-- SCAN, R113: Inclusive or exclusive prefix scan over the present elements. -/
  | scan (e : Enc)
  /-- VOTE, R114: Combines per-element predicates by one of seven operations. -/
  | vote (e : Enc)
  /-- MATCH, R115: Marks the elements whose value equals the lowest or highest present element's. -/
  | matchOp (e : Enc)
  /-- MOV, R117: Copies a register. -/
  | mov (e : Enc)
  /-- MOVI, R117: Moves a 32-bit literal into a register, optionally into the high half. -/
  | movi (e : Enc)
  /-- V2S, R118: Copies one lane's vector value into a scalar. -/
  | v2s (e : Enc)
  /-- S2V, R118: Copies half of a scalar into every participating lane. -/
  | s2v (e : Enc)
  /-- MOVSR, R119: Reads a special register. -/
  | movsr (e : Enc)
  /-- MOVSW, R119: Writes %tvec or a loop register. -/
  | movsw (e : Enc)
  /-- BRA, R151: Conditional branch on a mask with an optional hint. -/
  | bra (e : Enc)
  /-- JMP, R152: Jumps every participating lane to one target. -/
  | jmp (e : Enc)
  /-- CALL, R152: Jumps and writes the return address to s63. -/
  | call (e : Enc)
  /-- RET, R152: Jumps to the address in s63. -/
  | ret (e : Enc)
  /-- JOIN, R153: Sets the participating lanes' bits in a mask register. -/
  | join (e : Enc)
  /-- LEAVE, R153: Clears the participating lanes' bits in a mask register. -/
  | leave (e : Enc)
  /-- WAIT, R154: Parks lanes of a mask until every live lane of the mask waits on it. -/
  | wait (e : Enc)
  /-- LOOP, R156: Pushes a hardware loop entry, or skips the body for a count of 0. -/
  | loop (e : Enc)
  /-- EXIT, R161: Exits the participating lanes, after a rendezvous at wider scopes. -/
  | exit (e : Enc)
  /-- NOP, R162: Does nothing, or acts as a pure rendezvous at a collective scope; F64 form. -/
  | nop (e : Enc)
  /-- TRAP, R166: Raises TRAP with a code and enters trap mode. -/
  | trap (e : Enc)
  /-- TRET, R168: Leaves trap mode by resuming, killing lanes or aborting the block. -/
  | tret (e : Enc)
  /-- BKPT, R167: Raises BREAKPOINT, or stops the block under a debugger claim. -/
  | bkpt (e : Enc)
  /-- YIELD, R163: Counts as the warp's latest issue and skips candidacy for one cycle. -/
  | yield (e : Enc)
  /-- LD, R233: Loads 4, 8 or 16 bytes per lane, or 8 bytes to a scalar, optionally consuming or acquiring. -/
  | ld (e : Enc)
  /-- ST, R233: Stores 4, 8 or 16 bytes per lane, or 8 bytes from a scalar, optionally releasing. -/
  | st (e : Enc)
  /-- PRF, R236: Prefetches a line into the L1 or the L2. -/
  | prf (e : Enc)
  /-- CFL, R236: Combines U copies and writes dirty sectors back to DRAM. -/
  | cfl (e : Enc)
  /-- CINV, R236: Removes a line from the issuing core's L1. -/
  | cinv (e : Enc)
  /-- ACP, R237: Issues a per-lane copy from global or die scratchpad into the partition, optionally signalling a barrier object. -/
  | acp (e : Enc)
  /-- STAGE, R240: Advances the block's stage counter. -/
  | stage (e : Enc)
  /-- MBINIT, R243: Initialises a barrier object. -/
  | mbinit (e : Enc)
  /-- MBARR, R243: Makes one arrival at a barrier object. -/
  | mbarr (e : Enc)
  /-- MBEXP, R243: Announces expected copy issues at a barrier object. -/
  | mbexp (e : Enc)
  /-- MBWAIT, R245: Parks lanes until the object's epoch reaches a target. -/
  | mbwait (e : Enc)
  /-- MBTEST, R245: Writes whether the object's epoch has reached a target. -/
  | mbtest (e : Enc)
  /-- ATOM, R248: Atomic read-modify-write that returns the old value. -/
  | atom (e : Enc)
  /-- MRED, R248: Atomic reduction that returns nothing. -/
  | mred (e : Enc)
  /-- FENCE, R251: Orders the lanes' accesses at a reach. -/
  | fence (e : Enc)
  /-- QFENCE, R252: Stalls the members until the named engine queues have performed. -/
  | qfence (e : Enc)
  /-- TALLOC, R197: Joins a partition's waiter queue and receives a tile handle when served. -/
  | talloc (e : Enc)
  /-- TDROP, R198: Makes one consuming read of a tile, or sets its count to 0. -/
  | tdrop (e : Enc)
  /-- TQUERY, R199: Returns a tile's count, offset, a free-list length, or pops the handle queue. -/
  | tquery (e : Enc)
  /-- TEXTEND, R198: Adds reads to a LIVE tile. -/
  | textend (e : Enc)
  /-- CONSUMING_READ_COMPLETE, R193: A consuming read completes and lowers the tile's pend count. -/
  | consumingReadComplete (blk id : Nat)
  /-- MMA, R215: Queues a matrix multiply-accumulate entry into an accumulator tile. -/
  | mma (e : Enc)
  /-- MMAS, R218: Queues a scaled MX matrix multiply-accumulate. -/
  | mmas (e : Enc)
  /-- MMAW, R220: Queues a windowed convolution multiply-accumulate from a halo tile. -/
  | mmaw (e : Enc)
  /-- ACLR, R221: Queues an entry that zeroes an accumulator tile. -/
  | aclr (e : Enc)
  /-- ALD, R222: Queues a load of 128 rows into an accumulator tile. -/
  | ald (e : Enc)
  /-- ADRAIN, R223: Queues a drain of an accumulator tile to registers, scratchpad or a fresh tile. -/
  | adrain (e : Enc)
  /-- MSYNC, R227: Places a marker that completes once the block's earlier entries have completed. -/
  | msync (e : Enc)
  /-- MATRIX_ENTRY_START, R207: The engine starts the next queue entry once the previous one is done and its granules are present. -/
  | matrixEntryStart (core : Nat)
  /-- MATRIX_ENTRY_COMPLETE, R207: A matrix entry writes its last result and retires. -/
  | matrixEntryComplete (core : Nat)
  /-- PUT, R345: Places an RDMA WRITE, or a tagged SEND, on a porter queue. -/
  | put (e : Enc)
  /-- GET, R345: Places an RDMA READ on a porter queue. -/
  | get (e : Enc)
  /-- PATOM, R347: Places an 8-byte remote fetch-and-add or compare-and-swap. -/
  | patom (e : Enc)
  /-- POST, R349: Posts a request that matches tagged SENDs on a queue. -/
  | post (e : Enc)
  /-- PCOUNT, R350: Places an entry that waits for another queue's completion count. -/
  | pcount (e : Enc)
  /-- RPUSH, R352: Claims ring slots with room and writes records. -/
  | rpush (e : Enc)
  /-- RPOP, R353: Consumes ring records for one consumer. -/
  | rpop (e : Enc)
  /-- RWAIT, R354: Parks until a ring slot holds data or the ring has room. -/
  | rwait (e : Enc)
  /-- RCUR, R354: Returns a ring cursor, slot address or tail. -/
  | rcur (e : Enc)
  /-- LAUNCH, R355: Checks a launch record, names its site and emits a grid SUBMIT. -/
  | launch (e : Enc)
  /-- EVSUB, R357: Emits a SUBMIT, CANCEL or PREEMPT message as an event. -/
  | evsub (e : Enc)
  /-- EVWAIT, R356: Parks until a launch outcome or an event type is seen. -/
  | evwait (e : Enc)
  /-- SVC, R358: Writes a service request to a ring and parks the warp off-core. -/
  | svc (e : Enc)
  /-- TIME, R360: Reads pod time, or the grid start stamp in D-mode. -/
  | time (e : Enc)
  /-- CLK, R360: Reads the cycle count, or %lclk in D-mode. -/
  | clk (e : Enc)
  /-- CTXQ, R361: Returns a context or chip value. -/
  | ctxq (e : Enc)
  /-- HALT, R363: Stops the block for the debugger, or raises BREAKPOINT. -/
  | halt (e : Enc)
  /-- DGREAD, R362: Returns a block, grid or state digest, or a guest book position. -/
  | dgread (e : Enc)
  /-- LONG_LATENCY_RESULT, R135: A long-latency instruction's result arrives and is written to its destinations. -/
  | longLatencyResult (wid id : Nat)
  /-- ASYNC_FAULT_DELIVERY, R433: Delivers an asynchronous fault to the block's lowest eligible warp at its next boundary. -/
  | asyncFaultDelivery (blk : Nat)
  /-- BLOCK_ADMISSION, R122: Admits a placed block to a core, initialising its warps, registers and partition. -/
  | blockAdmission (grid bid core : Nat)
  /-- BLOCK_START, R292: An admitted block starts once the local pod clock reaches its start timestamp. -/
  | blockStart (blk : Nat)
  /-- BLOCK_SAVE, R303: Stops a block's warps at their boundaries, drains it and writes its image to the cloakroom. -/
  | blockSave (blk : Nat)
  /-- BLOCK_RESTORE, R304: Restores a saved block to its own core, slots and partition base. -/
  | blockRestore (grid bid : Nat)
  /-- WARP_READMISSION, R367: A warp released by UNBLOCK returns to its slot once its registers fit. -/
  | warpReadmission (core : Nat)
  /-- HANG, R139: The hang counter reaches its threshold, writes the wait-for graph and traps a stream program. -/
  | hang (slot : Nat)
  /-- ITINERARY_COPY_ISSUE, R185: Issues the next itinerary copy once the stage counter and its tile allocation allow. -/
  | itineraryCopyIssue (blk : Nat)
  /-- ITINERARY_COPY_LANDING, R186: An itinerary copy's bytes land in a granule, updating its in-flight count and presence. -/
  | itineraryCopyLanding (blk copy granule : Nat)
  /-- ACP_COPY_LANDING, R238: An ACP copy lands its pieces and, at its end, reduces its barrier object's due. -/
  | acpCopyLanding (wid : Nat)
  /-- ALIAS_SECTOR_WRITE, R318: The home agent re-encodes a format-window block for one sector write request. -/
  | aliasSectorWrite (window : Nat)
  /-- ALIAS_SECTOR_READ, R318: The home agent decodes a format-window block into a BF16 sector. -/
  | aliasSectorRead (window sector : Nat)
  /-- ORDERED_OPERATION_PERFORM, R376: Performs ordered operations in key order once the floor passes their clock. -/
  | orderedOperationPerform (point : PerfPoint)
  /-- ENGINE_RING_CLAIM, R338: An engine producer claims a ring slot together with room and writes its record. -/
  | engineRingClaim (job : Nat)
  /-- SERIALISED_REEXECUTION, R383: Re-runs a mismatching block alone and orders DIGEST, FINISH or FAULT. -/
  | serialisedReexecution (blk : Nat)
  /-- SHADOW_RUN, R386: A witness runs a block without performing stores and orders a kind 3 DIGEST. -/
  | shadowRun (grid bid : Nat)
  /-- CLUSTER_STOP, R411: The stop broadcast reaches a core and its warps stop at their next boundary. -/
  | clusterStop (core : Nat)
  /-- HOST_SUBMISSION, R284: A host message on the submission queue pair is filled and emitted as an event, or refused. -/
  | hostSubmission (m : Msg)
  /-- LANTERN, R389: A received lantern advances the horizon and records the sender's digest agreement. -/
  | lantern (d : Datagram)
  /-- HYTUR_EVENT_MESSAGE, R286: A received event message is kept, deduplicated and forwarded along the origin's tree. -/
  | hyturEventMessage (d : Datagram) (att : Option Attach)
  /-- RETRANSMIT_GAP_TIMEOUT, R286: After a 4 us gap in an origin's events, sends a retransmit request to the parent. -/
  | retransmitGapTimeout (origin : Nat)
  /-- RETRANSMIT_REQUEST, R286: A retransmit request is answered from held events or forwarded. -/
  | retransmitRequest (d : Datagram)
  /-- SUSPICION, R394: After 50 us of silence from a member, a chip calls a roll. -/
  | suspicion (member : Nat)
  /-- CALL_MESSAGE, R394: A received CALL is answered with horizons for the suspects. -/
  | callMessage (d : Datagram) (att : Attach)
  /-- ANSWER, R394: A caller records an ANSWER to its CALL. -/
  | answer (d : Datagram) (att : Attach)
  /-- DECIDE, R394: A member confirms the first DECIDE of a roll call. -/
  | decide (d : Datagram) (att : Attach)
  /-- CONFIRM, R394: A member records a CONFIRM and applies the decision once a majority agrees. -/
  | confirm (d : Datagram)
  /-- ASK, R398: A sponsor receiving ASK originates a JOIN announce. -/
  | ask (d : Datagram)
  /-- SNAPSHOT, R400: The joiner loads the snapshot and replays forwarded events. -/
  | snapshot (d : Datagram)
  /-- READY, R400: The sponsor receiving READY originates JOIN enter. -/
  | ready (d : Datagram)
  /-- ABANDON, R397: A join attempt is abandoned and the joiner asks again. -/
  | abandon (d : Datagram)
  /-- PTP_MESSAGE, R277: A timestamped PTP message adjusts the pod clock. -/
  | ptpMessage (m : PtpMsg)
  /-- BIND, R323: Binds a porter queue to a context with a new incarnation. -/
  | bind (m : Msg)
  /-- UNBIND, R323: Unbinds a porter queue, flushing its commands. -/
  | unbind (m : Msg)
  /-- RESET, R323: Returns a porter queue from ERROR to READY. -/
  | reset (m : Msg)
  /-- PACED_PACKET_SEND, R339: A queue sends a packet once its pacing bucket holds its size. -/
  | pacedPacketSend (q : Nat)
  /-- RDMA_WRITE, R325: A target performs an RDMA WRITE packet into the context's memory. -/
  | rdmaWrite (p : Packet)
  /-- RDMA_READ_REQUEST, R325: A target answers an RDMA READ request from memory. -/
  | rdmaReadRequest (p : Packet)
  /-- ATOMIC_FETCH_AND_ADD, R325: A target performs an 8-byte fetch-and-add at the home agent. -/
  | atomicFetchAndAdd (p : Packet)
  /-- ATOMIC_COMPARE_AND_SWAP, R325: A target performs an 8-byte compare-and-swap at the home agent. -/
  | atomicCompareAndSwap (p : Packet)
  /-- TAGGED_SEND, R331: A tagged SEND matches a posted request to land, forward, complete and enable. -/
  | taggedSend (p : Packet)
  /-- READ_RESPONSE, R325: A GET's response lands at the local destination. -/
  | readResponse (p : Packet)
  /-- ACKNOWLEDGE, R328: An ACK covers request packets and may trigger a rate reaction. -/
  | acknowledge (p : Packet)
  /-- ATOMIC_ACKNOWLEDGE, R347: A PATOM's old value is written to its destination or block image. -/
  | atomicAcknowledge (p : Packet)
  /-- NAK, R328: A NAK starts a go-back-N retransmission, or ends the command in error. -/
  | nak (p : Packet)
  /-- RNR_NAK, R329: An RNR NAK schedules a resend after 10 us. -/
  | rnrNak (p : Packet)
  /-- RNR_RESEND, R329: After 10 us the requester sends the refused packet again. -/
  | rnrResend (q : Nat)
  /-- RETRANSMIT_TIMEOUT, R328: After 32 us without an ACK, retransmits go-back-N, or ends with RETRY_EXCEEDED. -/
  | retransmitTimeout (q : Nat)
  /-- CNP, R321: A received CNP is discarded. -/
  | cnp (p : Packet)
  /-- CONGESTION_PERIOD, R339: Every 55 us without reaction, lowers alpha and raises the rate. -/
  | congestionPeriod (q : Nat)
  /-- INVALIDATE_RANGE, R314: Management op 1 removes a range from TLBs and instruction caches and completes after drains. -/
  | invalidateRange (m : Msg)
  /-- INVALIDATE_CONTEXT, R316: Management op 2 removes every translation of a context. -/
  | invalidateContext (m : Msg)
  /-- WINDOW_OFF, R319: Management op 3 turns a format window off after its requests drain. -/
  | windowOff (m : Msg)
  /-- WINDOW_ON, R319: Management op 4 rereads and checks a window entry and turns it on. -/
  | windowOn (m : Msg)
  /-- INJECT_DIGEST, R401: Management op 5 sets or clears a digest XOR mask for testing. -/
  | injectDigest (m : Msg)
  /-- CLAIM, R403: Management op 6 claims a context for a debugger with a stop kind. -/
  | claim (m : Msg)
  /-- RELEASE, R403: Management op 7 releases a claim and resumes halted blocks. -/
  | release (m : Msg)
  /-- COMPARATOR, R406: Management op 8 sets or clears a PC comparator. -/
  | comparator (m : Msg)
  /-- WATCHPOINT, R408: Management op 9 sets or clears a watchpoint on a block's partition. -/
  | watchpoint (m : Msg)
  /-- RESUME, R415: Management op 10 clears the halted flag of a block or cluster. -/
  | resume (m : Msg)
  /-- STEP, R416: Management op 11 steps one warp of a halted block one issue. -/
  | step (m : Msg)
  /-- SAMPLING, R417: Management op 12 starts or stops PC sampling. -/
  | sampling (m : Msg)
  /-- TIME_SERIES, R418: Management op 13 starts or stops the counter time series. -/
  | timeSeries (m : Msg)
  /-- SET_BUDGET, R424: Management op 14 sets the package power budget. -/
  | setBudget (m : Msg)
  /-- ATTESTATION, R430: Management op 15 writes a signed attestation report. -/
  | attestation (m : Msg)
  /-- SMBUS_BUDGET_WRITE, R424: Sets the power budget through SMBus. -/
  | smbusBudgetWrite (watts : Nat)
  /-- POWER_GRANT, R425: Every 1 us the arbiter grants current to units for the next period. -/
  | powerGrant (demand : List Nat)
  /-- SCRUB, R428: The scrubber reads and rewrites SRAM words and DRAM sectors. -/
  | scrub (loc : Locus)
  /-- BOOT_IMAGE_SEND, R432: A firmware image arriving on port H is verified and loaded. -/
  | bootImageSend (p : Packet)
  /-- BYPASS, R423: Selects the 1149.1 bypass register. -/
  | bypass (bit : Bool)
  /-- DUMPADDR, R421: Loads the read-out address register. -/
  | dumpaddr (value : BitVec 48)
  /-- INSTR_FETCH, R47: A warp's instruction fetch fails translation or permission and it enters trap mode with INSTR_FETCH. -/
  | instrFetch (addr : Addr54)
  /-- ACK_COALESCING, R328: A responder sends its coalesced ACK once the coalescing window of at most 1 us runs out. -/
  | ackCoalescing (q : Nat)
  /-- PTP_SYNC_INTERVAL, R277: Every 2^-7 s a fabric port acting as boundary-clock master sends its two-step Sync and peer-delay messages. -/
  | ptpSyncInterval (port : Nat)
  /-- NOP_F32, R36: Short lane-scope NOP, the word 0x0000_1C90. -/
  | nopF32
  /-- TIME_SLICE, R302: Every 1 us saves holders to admit the oldest highest-priority waiter. -/
  | timeSlice
  /-- FLOOR_PUBLICATION, R375: Every 64 cycles publishes the D-mode clock floor to the performing points. -/
  | floorPublication
  /-- PC_SAMPLE, R417: At each 2^k tick a core samples one warp slot into the sample ring. -/
  | pcSample
  /-- COUNTER_LATCH, R418: At each 2^k tick cores and dies latch their counters into the time series ring. -/
  | counterLatch
  /-- LANTERN_EMIT, R285: Every 1 us a member sends its lantern. -/
  | lanternEmit
  /-- EVENT_DELIVERY, R287: Delivers and applies the smallest-key event once its stamp is below every member's horizon. -/
  | eventDelivery
  /-- DECIDE_TIMEOUT, R394: 20 us after its CALL, the caller counts answers and sends DECIDE if it has a majority. -/
  | decideTimeout
  /-- ROLL_CALL_RETRY, R394: After 100 us of unresolved suspicion, the lowest suspecting member calls again. -/
  | rollCallRetry
  /-- ROLL_CALL_FENCE, R396: 1 ms after a suspicion with no decision applied, the chip fences itself. -/
  | rollCallFence
  /-- JOINER_TIMEOUT, R400: A joiner that hears nothing for 10 ms abandons and asks the next sponsor. -/
  | joinerTimeout
  /-- FOUNDING, R397: A founding chip hearing no lantern for 10 ms after locking forms a view of itself. -/
  | founding
  /-- CLOCK_UNLOCK_FENCE, R278: A member unlocked for 1 ms fences itself. -/
  | clockUnlockFence
  /-- BIND_DELAY, R323: A waiting bind takes effect 1 ms after the queue's last unbind. -/
  | bindDelay
  /-- RESET_N, R432: Rising RESET_N starts the ROM, firmware, locking and joining sequence. -/
  | resetN
  /-- FREEZE_N, R420: A falling edge freezes every clock of the four dies. -/
  | freezeN
  /-- FREEZE, R420: The 1149.1 FREEZE instruction freezes the chip. -/
  | freeze
  /-- IDCODE, R423: Returns the identification code 0x0448_0A5B. -/
  | idcode
  /-- DUMPDATA, R421: Captures the addressed 64-bit word and advances the address. -/
  | dumpdata
  /-- ILLEGAL_INSTRUCTION, R46: The fetch unit reaches a pattern that is no instruction and reports ILLEGAL_INSTRUCTION at its first word. -/
  | illegalInstruction
  /-- REJOIN_ASK, R397: A fenced chip with a locked clock sends ASK to its sponsor once 1 ms has passed since it fenced or abandoned. -/
  | rejoinAsk
deriving DecidableEq, Repr

end Sys2Proof
end

