-- ==== Sys2Proof/Machine/Opcodes.lean ====
section
/-!
DEFINITION. The opcode map (R26 to R44): the opcodes, their classes, their operand profiles under each modifier, and
the forms each one has. `Op` names the opcodes of F64 and F96; `Instr.view` sorts the rows of the table by form.
-/

namespace Sys2Proof

/-- The assigned opcodes of classes 0 to 14 (R26, R29 to R43). -/
inductive Op where
  | iadd | isub | imul | imulh | imad | imin | imax | iabs | ineg | lea | icmp | sel | and | or | xor | andn
  | not | shl | shr | sar | rotl | popc | clz | ctz | brev | bfe | bfi | bperm | fadd | fsub | fmul | ffma
  | fmin | fmax | fabs | fneg | fcmp | fclass | frint | fdiv | fsqrt | fdot2 | frcp | frsq | fexp2 | flog2
  | fsin | fcos | ftanh | rand | cvt | pack | unpack | mxenc | mxdec | ixenc | ixdec | kand | kor | kxor | knot
  | kmov | kpop | kfirst | shfl | bcast | red | scan | vote | matchOp | mov | movi | v2s | s2v | movsr | movsw
  | bra | jmp | call | ret | join | leave | wait | loop | exit | nop | trap | tret | bkpt | yield | ld | st
  | prf | cfl | cinv | acp | stage | mbinit | mbarr | mbexp | mbwait | mbtest | atom | mred | fence | qfence
  | talloc | tdrop | tquery | textend | mma | mmas | mmaw | aclr | ald | adrain | msync | put | get | patom
  | post | pcount | rpush | rpop | rwait | rcur | launch | evsub | evwait | svc | time | clk | ctxq | halt
  | dgread
deriving DecidableEq, Repr

/-- The 10-bit opcode: 64 times the class plus the minor number (R26, R29 to R43). -/
def Op.code : Op → Nat
  | .iadd => 0x0
  | .isub => 0x1
  | .imul => 0x2
  | .imulh => 0x3
  | .imad => 0x4
  | .imin => 0x5
  | .imax => 0x6
  | .iabs => 0x7
  | .ineg => 0x8
  | .lea => 0x9
  | .icmp => 0xa
  | .sel => 0xb
  | .and => 0x40
  | .or => 0x41
  | .xor => 0x42
  | .andn => 0x43
  | .not => 0x44
  | .shl => 0x45
  | .shr => 0x46
  | .sar => 0x47
  | .rotl => 0x48
  | .popc => 0x49
  | .clz => 0x4a
  | .ctz => 0x4b
  | .brev => 0x4c
  | .bfe => 0x4d
  | .bfi => 0x4e
  | .bperm => 0x4f
  | .fadd => 0x80
  | .fsub => 0x81
  | .fmul => 0x82
  | .ffma => 0x83
  | .fmin => 0x84
  | .fmax => 0x85
  | .fabs => 0x86
  | .fneg => 0x87
  | .fcmp => 0x88
  | .fclass => 0x89
  | .frint => 0x8a
  | .fdiv => 0x8b
  | .fsqrt => 0x8c
  | .fdot2 => 0x8d
  | .frcp => 0xc0
  | .frsq => 0xc1
  | .fexp2 => 0xc2
  | .flog2 => 0xc3
  | .fsin => 0xc4
  | .fcos => 0xc5
  | .ftanh => 0xc6
  | .rand => 0xc7
  | .cvt => 0x100
  | .pack => 0x101
  | .unpack => 0x102
  | .mxenc => 0x103
  | .mxdec => 0x104
  | .ixenc => 0x105
  | .ixdec => 0x106
  | .kand => 0x140
  | .kor => 0x141
  | .kxor => 0x142
  | .knot => 0x143
  | .kmov => 0x144
  | .kpop => 0x145
  | .kfirst => 0x146
  | .shfl => 0x147
  | .bcast => 0x148
  | .red => 0x149
  | .scan => 0x14a
  | .vote => 0x14b
  | .matchOp => 0x14c
  | .mov => 0x180
  | .movi => 0x181
  | .v2s => 0x182
  | .s2v => 0x183
  | .movsr => 0x184
  | .movsw => 0x185
  | .bra => 0x1c0
  | .jmp => 0x1c1
  | .call => 0x1c2
  | .ret => 0x1c3
  | .join => 0x1c4
  | .leave => 0x1c5
  | .wait => 0x1c6
  | .loop => 0x1c7
  | .exit => 0x1c8
  | .nop => 0x1c9
  | .trap => 0x1ca
  | .tret => 0x1cb
  | .bkpt => 0x1cc
  | .yield => 0x1cd
  | .ld => 0x200
  | .st => 0x201
  | .prf => 0x202
  | .cfl => 0x203
  | .cinv => 0x204
  | .acp => 0x240
  | .stage => 0x241
  | .mbinit => 0x242
  | .mbarr => 0x243
  | .mbexp => 0x244
  | .mbwait => 0x245
  | .mbtest => 0x246
  | .atom => 0x280
  | .mred => 0x281
  | .fence => 0x282
  | .qfence => 0x283
  | .talloc => 0x2c0
  | .tdrop => 0x2c1
  | .tquery => 0x2c2
  | .textend => 0x2c3
  | .mma => 0x300
  | .mmas => 0x301
  | .mmaw => 0x302
  | .aclr => 0x303
  | .ald => 0x304
  | .adrain => 0x305
  | .msync => 0x306
  | .put => 0x340
  | .get => 0x341
  | .patom => 0x342
  | .post => 0x343
  | .pcount => 0x344
  | .rpush => 0x345
  | .rpop => 0x346
  | .rwait => 0x347
  | .rcur => 0x348
  | .launch => 0x380
  | .evsub => 0x381
  | .evwait => 0x382
  | .svc => 0x383
  | .time => 0x384
  | .clk => 0x385
  | .ctxq => 0x386
  | .halt => 0x387
  | .dgread => 0x388

/-- The opcode of a 10-bit value, none where it is unassigned (R26, R44). -/
def Op.ofCode : Nat → Option Op
  | 0x0 => some .iadd
  | 0x1 => some .isub
  | 0x2 => some .imul
  | 0x3 => some .imulh
  | 0x4 => some .imad
  | 0x5 => some .imin
  | 0x6 => some .imax
  | 0x7 => some .iabs
  | 0x8 => some .ineg
  | 0x9 => some .lea
  | 0xa => some .icmp
  | 0xb => some .sel
  | 0x40 => some .and
  | 0x41 => some .or
  | 0x42 => some .xor
  | 0x43 => some .andn
  | 0x44 => some .not
  | 0x45 => some .shl
  | 0x46 => some .shr
  | 0x47 => some .sar
  | 0x48 => some .rotl
  | 0x49 => some .popc
  | 0x4a => some .clz
  | 0x4b => some .ctz
  | 0x4c => some .brev
  | 0x4d => some .bfe
  | 0x4e => some .bfi
  | 0x4f => some .bperm
  | 0x80 => some .fadd
  | 0x81 => some .fsub
  | 0x82 => some .fmul
  | 0x83 => some .ffma
  | 0x84 => some .fmin
  | 0x85 => some .fmax
  | 0x86 => some .fabs
  | 0x87 => some .fneg
  | 0x88 => some .fcmp
  | 0x89 => some .fclass
  | 0x8a => some .frint
  | 0x8b => some .fdiv
  | 0x8c => some .fsqrt
  | 0x8d => some .fdot2
  | 0xc0 => some .frcp
  | 0xc1 => some .frsq
  | 0xc2 => some .fexp2
  | 0xc3 => some .flog2
  | 0xc4 => some .fsin
  | 0xc5 => some .fcos
  | 0xc6 => some .ftanh
  | 0xc7 => some .rand
  | 0x100 => some .cvt
  | 0x101 => some .pack
  | 0x102 => some .unpack
  | 0x103 => some .mxenc
  | 0x104 => some .mxdec
  | 0x105 => some .ixenc
  | 0x106 => some .ixdec
  | 0x140 => some .kand
  | 0x141 => some .kor
  | 0x142 => some .kxor
  | 0x143 => some .knot
  | 0x144 => some .kmov
  | 0x145 => some .kpop
  | 0x146 => some .kfirst
  | 0x147 => some .shfl
  | 0x148 => some .bcast
  | 0x149 => some .red
  | 0x14a => some .scan
  | 0x14b => some .vote
  | 0x14c => some .matchOp
  | 0x180 => some .mov
  | 0x181 => some .movi
  | 0x182 => some .v2s
  | 0x183 => some .s2v
  | 0x184 => some .movsr
  | 0x185 => some .movsw
  | 0x1c0 => some .bra
  | 0x1c1 => some .jmp
  | 0x1c2 => some .call
  | 0x1c3 => some .ret
  | 0x1c4 => some .join
  | 0x1c5 => some .leave
  | 0x1c6 => some .wait
  | 0x1c7 => some .loop
  | 0x1c8 => some .exit
  | 0x1c9 => some .nop
  | 0x1ca => some .trap
  | 0x1cb => some .tret
  | 0x1cc => some .bkpt
  | 0x1cd => some .yield
  | 0x200 => some .ld
  | 0x201 => some .st
  | 0x202 => some .prf
  | 0x203 => some .cfl
  | 0x204 => some .cinv
  | 0x240 => some .acp
  | 0x241 => some .stage
  | 0x242 => some .mbinit
  | 0x243 => some .mbarr
  | 0x244 => some .mbexp
  | 0x245 => some .mbwait
  | 0x246 => some .mbtest
  | 0x280 => some .atom
  | 0x281 => some .mred
  | 0x282 => some .fence
  | 0x283 => some .qfence
  | 0x2c0 => some .talloc
  | 0x2c1 => some .tdrop
  | 0x2c2 => some .tquery
  | 0x2c3 => some .textend
  | 0x300 => some .mma
  | 0x301 => some .mmas
  | 0x302 => some .mmaw
  | 0x303 => some .aclr
  | 0x304 => some .ald
  | 0x305 => some .adrain
  | 0x306 => some .msync
  | 0x340 => some .put
  | 0x341 => some .get
  | 0x342 => some .patom
  | 0x343 => some .post
  | 0x344 => some .pcount
  | 0x345 => some .rpush
  | 0x346 => some .rpop
  | 0x347 => some .rwait
  | 0x348 => some .rcur
  | 0x380 => some .launch
  | 0x381 => some .evsub
  | 0x382 => some .evwait
  | 0x383 => some .svc
  | 0x384 => some .time
  | 0x385 => some .clk
  | 0x386 => some .ctxq
  | 0x387 => some .halt
  | 0x388 => some .dgread
  | _ => none

/-- What form an instruction has: a long form (F64 or F96), a short form (F32), the short NOP, or an event. -/
inductive View where
  | long (op : Op) (e : Enc)
  | short (op : Op) (f : Short)
  | nopShort
  | event
deriving DecidableEq, Repr

/-- The form of each row of the opcode table. -/
def Instr.view : Instr → View
  | .iadd e => .long .iadd e
  | .iaddF32 f => .short .iadd f
  | .isub e => .long .isub e
  | .isubF32 f => .short .isub f
  | .imul e => .long .imul e
  | .imulF32 f => .short .imul f
  | .imulh e => .long .imulh e
  | .imad e => .long .imad e
  | .imin e => .long .imin e
  | .iminF32 f => .short .imin f
  | .imax e => .long .imax e
  | .imaxF32 f => .short .imax f
  | .iabs e => .long .iabs e
  | .iabsF32 f => .short .iabs f
  | .ineg e => .long .ineg e
  | .inegF32 f => .short .ineg f
  | .lea e => .long .lea e
  | .icmp e => .long .icmp e
  | .sel e => .long .sel e
  | .and e => .long .and e
  | .andF32 f => .short .and f
  | .or e => .long .or e
  | .orF32 f => .short .or f
  | .xor e => .long .xor e
  | .xorF32 f => .short .xor f
  | .andn e => .long .andn e
  | .andnF32 f => .short .andn f
  | .not e => .long .not e
  | .notF32 f => .short .not f
  | .shl e => .long .shl e
  | .shlF32 f => .short .shl f
  | .shr e => .long .shr e
  | .shrF32 f => .short .shr f
  | .sar e => .long .sar e
  | .sarF32 f => .short .sar f
  | .rotl e => .long .rotl e
  | .popc e => .long .popc e
  | .clz e => .long .clz e
  | .ctz e => .long .ctz e
  | .brev e => .long .brev e
  | .bfe e => .long .bfe e
  | .bfi e => .long .bfi e
  | .bperm e => .long .bperm e
  | .fadd e => .long .fadd e
  | .faddF32 f => .short .fadd f
  | .fsub e => .long .fsub e
  | .fsubF32 f => .short .fsub f
  | .fmul e => .long .fmul e
  | .fmulF32 f => .short .fmul f
  | .ffma e => .long .ffma e
  | .fmin e => .long .fmin e
  | .fminF32 f => .short .fmin f
  | .fmax e => .long .fmax e
  | .fmaxF32 f => .short .fmax f
  | .fabs e => .long .fabs e
  | .fabsF32 f => .short .fabs f
  | .fneg e => .long .fneg e
  | .fnegF32 f => .short .fneg f
  | .fcmp e => .long .fcmp e
  | .fclass e => .long .fclass e
  | .frint e => .long .frint e
  | .fdiv e => .long .fdiv e
  | .fsqrt e => .long .fsqrt e
  | .fdot2 e => .long .fdot2 e
  | .frcp e => .long .frcp e
  | .frsq e => .long .frsq e
  | .fexp2 e => .long .fexp2 e
  | .flog2 e => .long .flog2 e
  | .fsin e => .long .fsin e
  | .fcos e => .long .fcos e
  | .ftanh e => .long .ftanh e
  | .rand e => .long .rand e
  | .cvt e => .long .cvt e
  | .pack e => .long .pack e
  | .unpack e => .long .unpack e
  | .mxenc e => .long .mxenc e
  | .mxdec e => .long .mxdec e
  | .ixenc e => .long .ixenc e
  | .ixdec e => .long .ixdec e
  | .kand e => .long .kand e
  | .kandF32 f => .short .kand f
  | .kor e => .long .kor e
  | .korF32 f => .short .kor f
  | .kxor e => .long .kxor e
  | .kxorF32 f => .short .kxor f
  | .knot e => .long .knot e
  | .knotF32 f => .short .knot f
  | .kmov e => .long .kmov e
  | .kmovF32 f => .short .kmov f
  | .kpop e => .long .kpop e
  | .kfirst e => .long .kfirst e
  | .shfl e => .long .shfl e
  | .bcast e => .long .bcast e
  | .red e => .long .red e
  | .scan e => .long .scan e
  | .vote e => .long .vote e
  | .matchOp e => .long .matchOp e
  | .mov e => .long .mov e
  | .movi e => .long .movi e
  | .v2s e => .long .v2s e
  | .s2v e => .long .s2v e
  | .movsr e => .long .movsr e
  | .movsw e => .long .movsw e
  | .bra e => .long .bra e
  | .jmp e => .long .jmp e
  | .call e => .long .call e
  | .ret e => .long .ret e
  | .join e => .long .join e
  | .leave e => .long .leave e
  | .wait e => .long .wait e
  | .loop e => .long .loop e
  | .exit e => .long .exit e
  | .nop e => .long .nop e
  | .nopF32 => .nopShort
  | .trap e => .long .trap e
  | .tret e => .long .tret e
  | .bkpt e => .long .bkpt e
  | .yield e => .long .yield e
  | .ld e => .long .ld e
  | .st e => .long .st e
  | .prf e => .long .prf e
  | .cfl e => .long .cfl e
  | .cinv e => .long .cinv e
  | .acp e => .long .acp e
  | .stage e => .long .stage e
  | .mbinit e => .long .mbinit e
  | .mbarr e => .long .mbarr e
  | .mbexp e => .long .mbexp e
  | .mbwait e => .long .mbwait e
  | .mbtest e => .long .mbtest e
  | .atom e => .long .atom e
  | .mred e => .long .mred e
  | .fence e => .long .fence e
  | .qfence e => .long .qfence e
  | .talloc e => .long .talloc e
  | .tdrop e => .long .tdrop e
  | .tquery e => .long .tquery e
  | .textend e => .long .textend e
  | .consumingReadComplete _ _ => .event
  | .mma e => .long .mma e
  | .mmas e => .long .mmas e
  | .mmaw e => .long .mmaw e
  | .aclr e => .long .aclr e
  | .ald e => .long .ald e
  | .adrain e => .long .adrain e
  | .msync e => .long .msync e
  | .matrixEntryStart _ => .event
  | .matrixEntryComplete _ => .event
  | .put e => .long .put e
  | .get e => .long .get e
  | .patom e => .long .patom e
  | .post e => .long .post e
  | .pcount e => .long .pcount e
  | .rpush e => .long .rpush e
  | .rpop e => .long .rpop e
  | .rwait e => .long .rwait e
  | .rcur e => .long .rcur e
  | .launch e => .long .launch e
  | .evsub e => .long .evsub e
  | .evwait e => .long .evwait e
  | .svc e => .long .svc e
  | .time e => .long .time e
  | .clk e => .long .clk e
  | .ctxq e => .long .ctxq e
  | .halt e => .long .halt e
  | .dgread e => .long .dgread e
  | .longLatencyResult _ _ => .event
  | .asyncFaultDelivery _ => .event
  | .blockAdmission _ _ _ => .event
  | .blockStart _ => .event
  | .blockSave _ => .event
  | .blockRestore _ _ => .event
  | .timeSlice => .event
  | .warpReadmission _ => .event
  | .hang _ => .event
  | .itineraryCopyIssue _ => .event
  | .itineraryCopyLanding _ _ _ => .event
  | .acpCopyLanding _ => .event
  | .aliasSectorWrite _ => .event
  | .aliasSectorRead _ _ => .event
  | .floorPublication => .event
  | .orderedOperationPerform _ => .event
  | .engineRingClaim _ => .event
  | .serialisedReexecution _ => .event
  | .shadowRun _ _ => .event
  | .clusterStop _ => .event
  | .pcSample => .event
  | .counterLatch => .event
  | .hostSubmission _ => .event
  | .lanternEmit => .event
  | .lantern _ => .event
  | .hyturEventMessage _ _ => .event
  | .retransmitGapTimeout _ => .event
  | .retransmitRequest _ => .event
  | .eventDelivery => .event
  | .suspicion _ => .event
  | .callMessage _ _ => .event
  | .answer _ _ => .event
  | .decideTimeout => .event
  | .decide _ _ => .event
  | .confirm _ => .event
  | .rollCallRetry => .event
  | .rollCallFence => .event
  | .ask _ => .event
  | .snapshot _ => .event
  | .ready _ => .event
  | .abandon _ => .event
  | .joinerTimeout => .event
  | .founding => .event
  | .ptpMessage _ => .event
  | .clockUnlockFence => .event
  | .bind _ => .event
  | .unbind _ => .event
  | .reset _ => .event
  | .bindDelay => .event
  | .pacedPacketSend _ => .event
  | .rdmaWrite _ => .event
  | .rdmaReadRequest _ => .event
  | .atomicFetchAndAdd _ => .event
  | .atomicCompareAndSwap _ => .event
  | .taggedSend _ => .event
  | .readResponse _ => .event
  | .acknowledge _ => .event
  | .atomicAcknowledge _ => .event
  | .nak _ => .event
  | .rnrNak _ => .event
  | .rnrResend _ => .event
  | .retransmitTimeout _ => .event
  | .cnp _ => .event
  | .congestionPeriod _ => .event
  | .invalidateRange _ => .event
  | .invalidateContext _ => .event
  | .windowOff _ => .event
  | .windowOn _ => .event
  | .injectDigest _ => .event
  | .claim _ => .event
  | .release _ => .event
  | .comparator _ => .event
  | .watchpoint _ => .event
  | .resume _ => .event
  | .step _ => .event
  | .sampling _ => .event
  | .timeSeries _ => .event
  | .setBudget _ => .event
  | .attestation _ => .event
  | .smbusBudgetWrite _ => .event
  | .powerGrant _ => .event
  | .scrub _ => .event
  | .resetN => .event
  | .bootImageSend _ => .event
  | .freezeN => .event
  | .freeze => .event
  | .bypass _ => .event
  | .idcode => .event
  | .dumpaddr _ => .event
  | .dumpdata => .event
  | .illegalInstruction => .event
  | .instrFetch _ => .event
  | .ackCoalescing _ => .event
  | .ptpSyncInterval _ => .event
  | .rejoinAsk => .event

/-- The row of an opcode's long form. -/
def Instr.ofLong : Op → Enc → Instr
  | .iadd, e => .iadd e
  | .isub, e => .isub e
  | .imul, e => .imul e
  | .imulh, e => .imulh e
  | .imad, e => .imad e
  | .imin, e => .imin e
  | .imax, e => .imax e
  | .iabs, e => .iabs e
  | .ineg, e => .ineg e
  | .lea, e => .lea e
  | .icmp, e => .icmp e
  | .sel, e => .sel e
  | .and, e => .and e
  | .or, e => .or e
  | .xor, e => .xor e
  | .andn, e => .andn e
  | .not, e => .not e
  | .shl, e => .shl e
  | .shr, e => .shr e
  | .sar, e => .sar e
  | .rotl, e => .rotl e
  | .popc, e => .popc e
  | .clz, e => .clz e
  | .ctz, e => .ctz e
  | .brev, e => .brev e
  | .bfe, e => .bfe e
  | .bfi, e => .bfi e
  | .bperm, e => .bperm e
  | .fadd, e => .fadd e
  | .fsub, e => .fsub e
  | .fmul, e => .fmul e
  | .ffma, e => .ffma e
  | .fmin, e => .fmin e
  | .fmax, e => .fmax e
  | .fabs, e => .fabs e
  | .fneg, e => .fneg e
  | .fcmp, e => .fcmp e
  | .fclass, e => .fclass e
  | .frint, e => .frint e
  | .fdiv, e => .fdiv e
  | .fsqrt, e => .fsqrt e
  | .fdot2, e => .fdot2 e
  | .frcp, e => .frcp e
  | .frsq, e => .frsq e
  | .fexp2, e => .fexp2 e
  | .flog2, e => .flog2 e
  | .fsin, e => .fsin e
  | .fcos, e => .fcos e
  | .ftanh, e => .ftanh e
  | .rand, e => .rand e
  | .cvt, e => .cvt e
  | .pack, e => .pack e
  | .unpack, e => .unpack e
  | .mxenc, e => .mxenc e
  | .mxdec, e => .mxdec e
  | .ixenc, e => .ixenc e
  | .ixdec, e => .ixdec e
  | .kand, e => .kand e
  | .kor, e => .kor e
  | .kxor, e => .kxor e
  | .knot, e => .knot e
  | .kmov, e => .kmov e
  | .kpop, e => .kpop e
  | .kfirst, e => .kfirst e
  | .shfl, e => .shfl e
  | .bcast, e => .bcast e
  | .red, e => .red e
  | .scan, e => .scan e
  | .vote, e => .vote e
  | .matchOp, e => .matchOp e
  | .mov, e => .mov e
  | .movi, e => .movi e
  | .v2s, e => .v2s e
  | .s2v, e => .s2v e
  | .movsr, e => .movsr e
  | .movsw, e => .movsw e
  | .bra, e => .bra e
  | .jmp, e => .jmp e
  | .call, e => .call e
  | .ret, e => .ret e
  | .join, e => .join e
  | .leave, e => .leave e
  | .wait, e => .wait e
  | .loop, e => .loop e
  | .exit, e => .exit e
  | .nop, e => .nop e
  | .trap, e => .trap e
  | .tret, e => .tret e
  | .bkpt, e => .bkpt e
  | .yield, e => .yield e
  | .ld, e => .ld e
  | .st, e => .st e
  | .prf, e => .prf e
  | .cfl, e => .cfl e
  | .cinv, e => .cinv e
  | .acp, e => .acp e
  | .stage, e => .stage e
  | .mbinit, e => .mbinit e
  | .mbarr, e => .mbarr e
  | .mbexp, e => .mbexp e
  | .mbwait, e => .mbwait e
  | .mbtest, e => .mbtest e
  | .atom, e => .atom e
  | .mred, e => .mred e
  | .fence, e => .fence e
  | .qfence, e => .qfence e
  | .talloc, e => .talloc e
  | .tdrop, e => .tdrop e
  | .tquery, e => .tquery e
  | .textend, e => .textend e
  | .mma, e => .mma e
  | .mmas, e => .mmas e
  | .mmaw, e => .mmaw e
  | .aclr, e => .aclr e
  | .ald, e => .ald e
  | .adrain, e => .adrain e
  | .msync, e => .msync e
  | .put, e => .put e
  | .get, e => .get e
  | .patom, e => .patom e
  | .post, e => .post e
  | .pcount, e => .pcount e
  | .rpush, e => .rpush e
  | .rpop, e => .rpop e
  | .rwait, e => .rwait e
  | .rcur, e => .rcur e
  | .launch, e => .launch e
  | .evsub, e => .evsub e
  | .evwait, e => .evwait e
  | .svc, e => .svc e
  | .time, e => .time e
  | .clk, e => .clk e
  | .ctxq, e => .ctxq e
  | .halt, e => .halt e
  | .dgread, e => .dgread e

/-- The row of an opcode's short form, none where it has none (R21, the F32 columns of R29 to R34). -/
def Instr.ofShort : Op → Short → Option Instr
  | .iadd, f => some (.iaddF32 f)
  | .isub, f => some (.isubF32 f)
  | .imul, f => some (.imulF32 f)
  | .imin, f => some (.iminF32 f)
  | .imax, f => some (.imaxF32 f)
  | .iabs, f => some (.iabsF32 f)
  | .ineg, f => some (.inegF32 f)
  | .and, f => some (.andF32 f)
  | .or, f => some (.orF32 f)
  | .xor, f => some (.xorF32 f)
  | .andn, f => some (.andnF32 f)
  | .not, f => some (.notF32 f)
  | .shl, f => some (.shlF32 f)
  | .shr, f => some (.shrF32 f)
  | .sar, f => some (.sarF32 f)
  | .fadd, f => some (.faddF32 f)
  | .fsub, f => some (.fsubF32 f)
  | .fmul, f => some (.fmulF32 f)
  | .fmin, f => some (.fminF32 f)
  | .fmax, f => some (.fmaxF32 f)
  | .fabs, f => some (.fabsF32 f)
  | .fneg, f => some (.fnegF32 f)
  | .kand, f => some (.kandF32 f)
  | .kor, f => some (.korF32 f)
  | .kxor, f => some (.kxorF32 f)
  | .knot, f => some (.knotF32 f)
  | .kmov, f => some (.kmovF32 f)
  | _, _ => none

end Sys2Proof
end

