-- ==== Sys2Proof/Machine/Profile.lean ====
section
/-!
DEFINITION. The operand profile of each opcode under each modifier value (R13, R14, R22 to R43 and the modifier tables
of the instructions' chapters), and every check by which the fetch unit refuses a pattern as ILLEGAL_INSTRUCTION (R46).
-/

namespace Sys2Proof

/-- What a register field names: `v n` n consecutive vector registers, `vp` an even pair, `v4` four registers from a
multiple of 4, `s n` n consecutive scalar registers, masks, tiles, pools, queues, special registers, an immediate within
limits, or nothing (R13, R14, R27, R84). -/
inductive Kind where
  | none
  | v (n : Nat)
  | vp
  | v4
  | s (n : Nat)
  | k
  | a
  | p
  | q
  | special
  | imm (lo hi : Nat)
deriving DecidableEq, Repr

/-- The Lit column of the opcode map (R28). `tgt` is required, `tgtReg` replaces the register of JMP and CALL. -/
inductive Lit where
  | none | b | c | off | val | tgt | tgtReg | loopEnd | len | ext | pad
deriving DecidableEq, Repr

/-- The profile of an opcode under one modifier: the kinds of its four fields, and which of them it reads and writes. -/
structure Profile where
  dst    : Kind := .none
  a      : Kind := .none
  b      : Kind := .none
  c      : Kind := .none
  dstRead  : Bool := false
  dstWrite : Bool := true
  bWrite   : Bool := false
  bRead    : Bool := true
  cRead    : Bool := true
  lit    : Lit := .none
deriving DecidableEq, Repr

/-- Bits [lo+n-1:lo] of a number. -/
def bitsOf (m lo n : Nat) : Nat := m / 2 ^ lo % 2 ^ n

/-- A vector register, or a scalar one under the S bit (R25, R27). -/
def vsKind (s : Bool) : Kind := if s then .s 1 else .v 1

/-- A mask register, or a scalar one under the S bit. -/
def ksKind (s : Bool) : Kind := if s then .s 1 else .k

/-- The per-lane address operand of a space (R229): a pair for .glb, otherwise one vector register. -/
def laneAddr (sp : Nat) : Kind := if sp = 0 then .vp else .v 1

/-- Elements of one PACK group, per format code (R103); 0 where the code is undefined. -/
def packCount (fmt : Nat) : Nat :=
  if fmt = 1 ∨ fmt = 2 then 2
  else if fmt = 3 ∨ fmt = 4 ∨ fmt = 8 then 4
  else if fmt = 7 ∨ fmt = 9 then 8
  else if fmt = 5 ∨ fmt = 6 then 16
  else 0

/-- Packed words of one MX block per element code (R105); 0 where the code is undefined. -/
def mxWords (fmt : Nat) : Nat :=
  if fmt = 3 ∨ fmt = 4 ∨ fmt = 8 then 8
  else if fmt = 5 ∨ fmt = 6 then 6
  else if fmt = 7 then 4
  else 0

/-- Class 0 and the rest of classes 0 and 1: which modifier values are defined (R87, R89), with S removed. -/
def intModOk (op : Op) (m : Nat) : Bool :=
  let sat := bitsOf m 4 1 = 1
  let u := bitsOf m 3 1 = 1
  let sub := bitsOf m 0 3
  match op with
  | .iadd | .isub | .imul | .imad => sub = 0 && (!u || sat)
  | .imulh | .imin | .imax => !sat && sub = 0
  | .iabs | .ineg => !u && sub = 0
  | .lea => !sat && !u
  | .icmp => !sat && sub ≤ 5
  | .sel => !sat && !u && sub = 0
  | .bfe => bitsOf m 0 4 = 0
  | _ => bitsOf m 0 5 = 0

/-- Class 2 modifiers (R91): type, rounding or condition, .ftz. -/
def fltModOk (op : Op) (m : Nat) : Bool :=
  let type := bitsOf m 4 2
  let rnd := bitsOf m 1 3
  let ftz := bitsOf m 0 1 = 1
  match op with
  | .fadd | .fsub | .fmul | .ffma | .fdiv | .fsqrt | .frint => type ≤ 2 && rnd ≤ 5 && (!ftz || type = 0)
  | .fmin | .fmax | .fabs | .fneg | .fclass => type ≤ 2 && rnd = 0 && (!ftz || type = 0)
  | .fcmp => type = 0
  | .fdot2 => (type = 1 || type = 2) && rnd ≤ 5
  | _ => false

/-- The seven special functions (R98): type with .ftz for FP32 only. -/
def fsfModOk (m : Nat) : Bool :=
  bitsOf m 4 2 ≤ 2 && bitsOf m 1 3 = 0 && (bitsOf m 0 1 = 0 || bitsOf m 4 2 = 0)

/-- LD and ST (R232): which form stands with which space. -/
def ldStOk (load : Bool) (m : Nat) : Bool :=
  let sp := bitsOf m 3 3
  let form := bitsOf m 0 3
  if 4 < sp then false
  else if form ≤ 2 then true
  else if form = 3 ∨ form = 7 then sp != 4
  else load && (sp = 1 || sp = 2)

/-- The types MMA and MMAW take, and those MMAS takes (R214). -/
def mmaTypeOk (scaled : Bool) (t : Nat) : Bool :=
  if scaled then (3 ≤ t && t ≤ 6) || (8 ≤ t && t ≤ 10) || t = 12 || t = 13 else t ≤ 11

/-- The profile of an opcode under a modifier, none where the modifier value is undefined (R25). The scope enters only
for VOTE (R114); `lit` says whether the encoding is F96. -/
def profile (op : Op) (scope : Scope) (m : Nat) : Option Profile :=
  let S := bitsOf m 5 1 = 1
  let ok (c : Bool) (p : Profile) : Option Profile := if c then some p else none
  match op with
  -- class 0 (R29, R87)
  | .iadd | .isub | .imul | .imulh | .imin | .imax | .lea =>
      ok (intModOk op m) { dst := vsKind S, a := vsKind S, b := vsKind S, lit := .b }
  | .imad => ok (intModOk op m) { dst := vsKind S, a := vsKind S, b := vsKind S, c := vsKind S, lit := .c }
  | .iabs | .ineg => ok (intModOk op m) { dst := vsKind S, a := vsKind S }
  | .icmp => ok (intModOk op m) { dst := ksKind S, a := vsKind S, b := vsKind S, lit := .b }
  | .sel => ok (intModOk op m) { dst := vsKind S, a := vsKind S, b := vsKind S, c := ksKind S, lit := .b }
  -- class 1 (R30, R89)
  | .and | .or | .xor | .andn | .shl | .shr | .sar | .rotl | .bfe | .bperm =>
      ok (intModOk op m) { dst := vsKind S, a := vsKind S, b := vsKind S, lit := .b }
  | .not | .popc | .clz | .ctz | .brev => ok (intModOk op m) { dst := vsKind S, a := vsKind S }
  | .bfi => ok (intModOk op m) { dst := vsKind S, a := vsKind S, b := vsKind S, c := vsKind S, lit := .b }
  -- class 2 (R31, R91)
  | .fadd | .fsub | .fmul | .fmin | .fmax | .fdiv =>
      ok (fltModOk op m) { dst := .v 1, a := .v 1, b := .v 1, lit := .b }
  | .ffma => ok (fltModOk op m) { dst := .v 1, a := .v 1, b := .v 1, c := .v 1, lit := .c }
  | .fabs | .fneg | .fclass | .frint | .fsqrt => ok (fltModOk op m) { dst := .v 1, a := .v 1 }
  | .fcmp => ok (fltModOk op m) { dst := .k, a := .v 1, b := .v 1, lit := .b }
  | .fdot2 => ok (fltModOk op m) { dst := .v 1, a := .v 1, b := .v 1, c := .v 1 }
  -- class 3 (R32, R98, R100)
  | .frcp | .frsq | .fexp2 | .flog2 | .fsin | .fcos | .ftanh => ok (fsfModOk m) { dst := .v 1, a := .v 1 }
  | .rand => ok (bitsOf m 4 2 = 0) { dst := .v 1 }
  -- class 4 (R33, R101, R103, R105, R108)
  | .cvt => ok (bitsOf m 0 4 ≤ 10 || (bitsOf m 0 4 ≤ 14 && bitsOf m 4 2 = 0)) { dst := .v 1, a := .v 1 }
  | .pack =>
      let n := packCount (bitsOf m 0 4)
      ok (n != 0) { dst := .v (if n = 16 then 3 else 1), a := .v (n / 2), b := .v (n / 2) }
  | .unpack =>
      let n := packCount (bitsOf m 0 4)
      ok (n != 0 && bitsOf m 4 2 = 0) { dst := .v n, a := .v (if n = 16 then 3 else 1) }
  | .mxenc =>
      let w := mxWords (bitsOf m 0 4)
      ok (w != 0 && bitsOf m 4 1 = 0) { dst := .v w, a := .v 32, b := .v 1, bWrite := true }
  | .mxdec =>
      let w := mxWords (bitsOf m 0 4)
      ok (w != 0 && bitsOf m 4 1 = 0) { dst := .v 32, a := .v w, b := .v 1 }
  | .ixenc => ok (bitsOf m 0 3 = 0) { dst := .v 4, a := .v 32, b := .v 1, bWrite := true }
  | .ixdec => ok (bitsOf m 0 5 = 0) { dst := .v 32, a := .v 4, b := .v 1 }
  -- class 5 (R34, R109 to R115)
  | .kand | .kor | .kxor => ok (m = 0) { dst := .k, a := .k, b := .k }
  | .knot => ok (m = 0) { dst := .k, a := .k }
  | .kmov =>
      if m = 0 then some { dst := .k, a := .k }
      else if m = 1 then some { dst := .s 1, a := .k }
      else if m = 2 then some { dst := .k, a := .s 1 }
      else none
  | .kpop | .kfirst => ok (m = 0) { dst := .s 1, a := .k }
  | .shfl => ok (bitsOf m 2 2 = 0) { dst := .v 1, a := .v 1, b := vsKind S, lit := .b }
  | .bcast => ok (bitsOf m 0 5 = 0) { dst := .v 1, a := .v 1, b := vsKind S, lit := .b }
  | .red => ok (bitsOf m 4 1 = 0 && bitsOf m 0 4 ≤ 10) { dst := vsKind S, a := .v 1 }
  | .scan => ok (!S && bitsOf m 0 4 ≤ 10) { dst := .v 1, a := .v 1 }
  | .vote =>
      let o := bitsOf m 0 3
      ok (bitsOf m 3 2 = 0 && o ≤ 6 && (if o = 0 then !S || scope = .warp else if o = 1 then S else true))
        { dst := ksKind S, a := .v 1 }
  | .matchOp => ok (bitsOf m 2 4 = 0) { dst := .k, a := if bitsOf m 0 1 = 1 then .vp else .v 1 }
  -- class 6 (R35, R116)
  | .mov =>
      ok (bitsOf m 1 4 = 0 && (bitsOf m 0 1 = 0 || !S))
        { dst := if bitsOf m 0 1 = 1 then .vp else vsKind S, a := if bitsOf m 0 1 = 1 then .vp else vsKind S }
  | .movi => ok (bitsOf m 1 4 = 0 && (bitsOf m 0 1 = 0 || S)) { dst := vsKind S, dstRead := bitsOf m 0 1 = 1, lit := .val }
  | .v2s => ok (bitsOf m 1 5 = 0) { dst := .s 1, a := .v 1, b := .imm 0 63 }
  | .s2v => ok (bitsOf m 1 5 = 0) { dst := .v 1, a := .s 1 }
  | .movsr => ok (bitsOf m 0 5 = 0) { dst := vsKind S, a := .special }
  | .movsw => ok (bitsOf m 0 5 = 0) { dst := .special, a := vsKind S }
  -- class 7 (R36, R150)
  | .bra => ok (bitsOf m 3 3 = 0) { a := .k, lit := .tgt }
  | .jmp | .call => ok (m = 0) { a := .s 1, lit := .tgtReg }
  | .ret => ok (m = 0) {}
  | .join | .leave => ok (m = 0) { dst := .k, dstRead := true }
  | .wait => ok (m = 0) { a := .k }
  | .loop => ok (bitsOf m 1 5 = 0) { a := if bitsOf m 0 1 = 1 then .imm 0 511 else .s 1, lit := .loopEnd }
  | .exit | .nop | .yield => ok (m = 0) {}
  | .trap => ok (m = 0) { b := .imm 0 511 }
  | .tret => ok (m ≤ 2) { a := .k }
  | .bkpt => ok (m = 0) { b := .imm 0 511, lit := .pad }
  -- class 8 (R37, R232, R236)
  | .ld =>
      let form := bitsOf m 0 2
      ok (ldStOk true m)
        { dst := if form = 3 then .s 1 else .v (2 ^ form), a := if form = 3 then .s 1 else laneAddr (bitsOf m 3 3), lit := .off }
  | .st =>
      let form := bitsOf m 0 2
      ok (ldStOk false m)
        { b := if form = 3 then .s 1 else .v (2 ^ form), a := if form = 3 then .s 1 else laneAddr (bitsOf m 3 3), lit := .off }
  | .prf => ok (bitsOf m 3 3 = 0 && (bitsOf m 0 2 = 0 || bitsOf m 0 2 = 3)) { a := if bitsOf m 0 2 = 3 then .s 1 else .vp, lit := .off }
  | .cfl | .cinv => ok (bitsOf m 2 4 = 0 && (m = 0 || m = 3)) { a := if m = 3 then .s 1 else .vp, lit := .off }
  -- class 9 (R38, R237, R240, R242)
  | .acp =>
      ok (bitsOf m 3 3 = 0 || bitsOf m 3 3 = 3)
        { a := .v 1, b := laneAddr (bitsOf m 3 3), c := if bitsOf m 0 1 = 1 then .s 1 else .none }
  | .stage => ok (bitsOf m 1 5 = 0) { a := if bitsOf m 0 1 = 1 then .imm 1 511 else .s 1 }
  | .mbinit | .mbexp | .mbwait => ok (m = 8 || m = 16) { a := .s 1, b := .s 1 }
  | .mbarr => ok (m = 8 || m = 16) { a := .s 1 }
  | .mbtest => ok (bitsOf m 1 2 = 0 && (bitsOf m 3 3 = 1 || bitsOf m 3 3 = 2)) { dst := ksKind (bitsOf m 0 1 = 1), a := .s 1, b := .s 1 }
  -- class 10 (R39, R247, R251, R252)
  | .atom =>
      let o := bitsOf m 0 3
      let sp := bitsOf m 3 3
      let r := vsKind (5 ≤ o)
      ok (sp ≤ 3 && (o != 4 || sp = 0))
        { dst := r, a := if 5 ≤ o then .s 1 else laneAddr sp, b := r, c := r, cRead := (o = 2 || o = 7), lit := .off }
  | .mred =>
      let sp := bitsOf m 3 3
      ok (sp ≤ 3 && (bitsOf m 0 3 != 7 || sp = 0)) { a := laneAddr sp, b := .v 1, lit := .off }
  | .fence => ok (bitsOf m 5 1 = 0 && bitsOf m 3 2 ≤ 2 && bitsOf m 0 3 ≤ 6) {}
  | .qfence => ok (bitsOf m 4 2 = 0 && m != 0) {}
  -- class 11 (R40, R196)
  | .talloc => ok (m ≤ 1) { dst := .s 1, a := .p, b := .imm 1 255 }
  | .tdrop => ok (m ≤ 1) { a := .s 1 }
  | .tquery => ok (m ≤ 3) { dst := .s 1, a := if m = 2 then .p else if m = 3 then .none else .s 1 }
  | .textend => ok (m = 0) { a := .s 1, b := .imm 1 255 }
  -- class 12 (R41, R214, R216, R219, R221 to R223, R227)
  | .mma => ok (mmaTypeOk false (bitsOf m 0 4)) { dst := .a, a := .s 1, b := .s 1, c := .imm 0 127 }
  | .mmas => ok (mmaTypeOk true (bitsOf m 0 4)) { dst := .a, a := .s 1, b := .s 1, c := .imm 0 127, lit := .ext }
  | .mmaw => ok (mmaTypeOk false (bitsOf m 0 4)) { dst := .a, a := .s 1, b := .s 1, c := .imm 0 127, lit := .ext }
  | .aclr => ok (m = 0) { dst := .a }
  | .ald => ok (m ≤ 2) { dst := .a, a := .s 1 }
  | .adrain =>
      let d := bitsOf m 4 2
      let conv := bitsOf m 0 4
      ok (d ≤ 2 && conv ≤ 14 && (d != 0 || conv ≤ 2))
        { dst := if d = 0 then .v 1 else if d = 1 then .none else .s 1, a := .a, b := .s 1 }
  | .msync => ok (m = 0) {}
  -- class 13 (R42, R340, R345, R347)
  | .put =>
      let r := if bitsOf m 2 1 = 1 then Kind.vp else .s 1
      ok (bitsOf m 3 3 = 0) { dst := .s 1, dstRead := true, dstWrite := false, a := .q, b := r, bRead := bitsOf m 1 1 = 0, c := r, lit := .len }
  | .get =>
      let r := if bitsOf m 2 1 = 1 then Kind.vp else .s 1
      ok (bitsOf m 3 3 = 0 && bitsOf m 1 1 = 0) { dst := .s 1, dstRead := true, dstWrite := false, a := .q, b := r, c := r, lit := .len }
  | .patom =>
      let cas := bitsOf m 0 1 = 1
      ok (bitsOf m 1 4 = 0)
        (if S then { dst := .s 1, a := .q, b := .s 1, c := .s (if cas then 2 else 1) }
         else { dst := .vp, a := .q, b := .vp, c := if cas then .v4 else .vp })
  | .post => ok (m = 0) { a := .q, b := .s 1, c := .s 1 }
  | .pcount => ok (m ≤ 1) { a := .q, b := .q, c := .s 1 }
  | .rpush => ok (bitsOf m 0 5 = 0) { a := .s 1, b := if S then .s 1 else .vp }
  | .rpop => ok (bitsOf m 3 2 = 0) { dst := vsKind S, a := .s 1 }
  | .rwait => ok (m ≤ 1) { a := .s 1, b := .s 1 }
  | .rcur => ok (!S && bitsOf m 3 2 ≤ 2 && (bitsOf m 3 2 != 2 || bitsOf m 0 3 = 0)) { dst := .s 1, a := .s 1 }
  -- class 14 (R43, R340, R360 to R362)
  | .launch | .evsub => ok (m = 0) { a := .s 1 }
  | .evwait => ok (m = 0) { dst := .s 1, a := .s 1 }
  | .svc => ok (m = 0) { a := .v 8 }
  | .time | .clk => ok (bitsOf m 0 5 = 0) { dst := if S then .s 1 else .vp }
  | .ctxq => ok (m = 0) { dst := .s 1, a := .imm 0 7 }
  | .halt => ok (m = 0) {}
  | .dgread => ok (m = 0) { dst := .s 1, a := .imm 0 3 }

/-- The Scopes column of the opcode map (R22, R29 to R43). -/
def scopeOk (op : Op) (sc : Scope) : Bool :=
  match op with
  | .shfl | .bcast | .red | .scan | .vote | .matchOp | .stage | .qfence | .aclr | .ald | .adrain | .msync | .post | .pcount =>
      sc != .lane
  | .v2s | .s2v | .movsw | .bra | .jmp | .call | .ret | .bkpt | .acp | .fence | .rwait | .rcur | .time | .clk =>
      sc = .lane || sc = .warp
  | .join | .leave | .wait | .svc => sc = .lane
  | .loop | .tret | .yield | .launch | .evsub | .evwait | .ctxq | .halt | .dgread => sc = .warp
  | .mma | .mmas | .mmaw => sc = .set || sc = .block
  | _ => true

/-- The long-latency instructions (R24). -/
def longLatency (op : Op) : Bool :=
  match op with
  | .ld | .frcp | .frsq | .fexp2 | .flog2 | .fsin | .fcos | .ftanh | .rand | .mxenc | .mxdec | .ixenc | .ixdec
  | .shfl | .bcast | .red | .scan | .vote | .matchOp
  | .acp | .stage | .mbinit | .mbarr | .mbexp | .mbwait | .mbtest
  | .mma | .mmas | .mmaw | .aclr | .ald | .adrain | .msync
  | .put | .get | .patom | .post | .pcount | .rpush | .rpop | .rwait | .rcur
  | .atom | .mred | .talloc | .tquery | .launch | .evsub | .evwait | .ctxq | .dgread => true
  | _ => false

/-- Why the fetch unit refuses a pattern (R46); each cause is ILLEGAL_INSTRUCTION. `truncated` says that the bytes given
to the decoder end before the instruction does. -/
inductive DecodeErr where
  | truncated | lengthCode | unassigned | scope | selector | lookahead | modifier | noShortForm | noLiteral
  | unusedField | fieldRange | special | literalRequired | overlap | literalValue | shortNop
deriving DecidableEq, Repr

/-- The selector values that a scope defines (R23); TRET takes 0 only (R150). -/
def selOk (op : Op) (sc : Scope) (sel : Nat) : Bool :=
  (op != .tret || sel = 0) &&
  match sc with
  | .lane | .warp => sel ≤ 13
  | .set => sel ≤ 7
  | .block => sel = 0

/-- The special registers held per lane: %lane and %draw (R16). -/
def specialPerLane (n : Nat) : Bool := n = 0 || n = 0x0D

/-- A field value against its kind (R13, R14, R17, R27, R84). -/
def fieldOk (k : Kind) (f : Nat) : Bool :=
  match k with
  | .none => f = 0
  | .v n => f + n ≤ 512
  | .vp => f % 2 = 0
  | .v4 => f % 4 = 0
  | .s n => f + n ≤ 64
  | .k => f ≤ 11
  | .a => f ≤ 47
  | .p => f ≤ 7
  | .q => f ≤ 255
  | .special => f ≤ 0x16
  | .imm lo hi => lo ≤ f && f ≤ hi

/-- The profile after the F96 literal has replaced the field its column names (R20, R28). -/
def Profile.withLit (p : Profile) (lit : Bool) : Profile :=
  if lit then
    match p.lit with
    | .b => { p with b := .none }
    | .c => { p with c := .none }
    | .tgtReg => { p with a := .none }
    | .len => { p with dst := .none }
    | _ => p
  else p

/-- MOVSR and MOVSW: the kind of the special register against the S bit, and writability (R16, R17, R116). -/
def specialOk (op : Op) (e : Enc) : Bool :=
  let s := e.modi.toNat / 32 = 1
  match op with
  | .movsr => specialPerLane e.a.toNat != s
  | .movsw => 0x10 ≤ e.dst.toNat && e.dst.toNat ≤ 0x14 && s
  | _ => true

/-- The literal's own limits: the extension operands' reserved bits (R216, R219), LOOP's end (R156), and the .tag PUT that
has no F96 form (R340). -/
def literalOk (op : Op) (e : Enc) : Bool :=
  match op, e.lit with
  | .mmas, some l => l.toNat / 2 ^ 24 = 0
  | .mmaw, some l => l.toNat / 2 ^ 28 = 0
  | .loop, some l => 3 ≤ l.toNat && l.toNat ≤ 32770
  | .put, some _ => bitsOf e.modi.toNat 1 1 = 0
  | _, _ => true

/-- MXENC and IXENC: the scale's register lies outside the element range (R83, R106, R108). -/
def overlapOk (op : Op) (p : Profile) (e : Enc) : Bool :=
  match op, p.dst with
  | .mxenc, .v n | .ixenc, .v n => e.b.toNat < e.dst.toNat || e.dst.toNat + n ≤ e.b.toNat
  | _, _ => true

/-- The profile under which an F64 or F96 pattern is an instruction, or why it is none (R46). -/
def checkLong (op : Op) (e : Enc) : Except DecodeErr Profile :=
  if !scopeOk op e.scope then .error .scope
  else if !selOk op e.scope e.sel.toNat then .error .selector
  else if !longLatency op && e.look != 0 then .error .lookahead
  else match profile op e.scope e.modi.toNat with
    | none => .error .modifier
    | some p0 =>
      let p := p0.withLit e.lit.isSome
      if e.lit.isSome && p0.lit = .none then .error .noLiteral
      else if e.lit.isNone && (p0.lit = .val || p0.lit = .tgt || p0.lit = .loopEnd || p0.lit = .ext) then .error .literalRequired
      else if (p.dst = .none && e.dst != 0) || (p.a = .none && e.a != 0) || (p.b = .none && e.b != 0) || (p.c = .none && e.c != 0) then
        .error .unusedField
      else if !(fieldOk p.dst e.dst.toNat && fieldOk p.a e.a.toNat && fieldOk p.b e.b.toNat && fieldOk p.c e.c.toNat) then
        .error .fieldRange
      else if !specialOk op e then .error .special
      else if !literalOk op e then .error .literalValue
      else if !overlapOk op p e then .error .overlap
      else .ok p

/-- The opcodes of class 5 name masks in their short form (R21). -/
def shortMask (op : Op) : Bool := op.code / 64 = 5

/-- The one-source opcodes, whose short form has a zero srcB field (R21). -/
def oneSource (op : Op) : Bool :=
  match op with
  | .iabs | .ineg | .not | .fabs | .fneg | .knot | .kmov => true
  | _ => false

/-- An F32 pattern as an instruction, or why it is none (R21, R46). -/
def checkShort (op : Op) (f : Short) : Except DecodeErr Unit :=
  if (Instr.ofShort op f).isNone then .error .noShortForm
  else if oneSource op && f.b != 0 then .error .unusedField
  else if shortMask op && !(f.dst.toNat ≤ 11 && f.a.toNat ≤ 11 && f.b.toNat ≤ 11) then .error .fieldRange
  else .ok ()

/-- An F32 instruction as the F64 fields it stands for (R21): selector, lookahead and modifier 0; on a control core the
scalar form of classes 0 and 1 (R45). -/
def Short.toEnc (f : Short) (scalar : Bool) : Enc :=
  { scope := f.scope, sel := 0, look := 0, modi := if scalar then 32 else 0,
    dst := f.dst.zeroExtend 9, a := f.a.zeroExtend 9, b := f.b.zeroExtend 9, c := 0, lit := none }

end Sys2Proof
end

