-- ==== Sys2Proof/WellFormed.lean ====
section
/-!
DEFINITION. Which instructions are well formed: a fetched instruction is one that the fetch unit does not refuse (R46).
An event is well formed whatever it carries: its own rule says what the device does with it.
-/

namespace Sys2Proof

/-- The check of an instruction as syntax (R46), the same that the decoder makes. -/
def Instr.check (i : Instr) : Except DecodeErr Unit :=
  match i.view with
  | .long op e => match checkLong op e with
    | .ok _ => .ok ()
    | .error x => .error x
  | .short op f => checkShort op f
  | .nopShort => .ok ()
  | .event => .ok ()

/-- An instruction that the fetch unit accepts. -/
def Instr.wf (i : Instr) : Bool :=
  match i.check with
  | .ok _ => true
  | .error _ => false

/-- An instruction that a warp fetches, as opposed to an event of an engine or of the outside. -/
def Instr.fetched (i : Instr) : Bool := i.view != .event

end Sys2Proof
end

