-- ==== Sys2Proof/Decode.lean ====
section
/-!
DEFINITION. The decoder, total on any bytes, and the encoder beside it (R18 to R23, R36, R46). An instruction is read as
one little-endian number w whose bit 0 is bit 0 of the first word (R9, R18), so a field is a quotient and a remainder.
-/

namespace Sys2Proof

/-- The scope code (R22). -/
def Scope.code : Scope → Nat
  | .lane => 0 | .warp => 1 | .set => 2 | .block => 3

/-- The scope of a 2-bit code (R22). -/
def Scope.ofCode (n : Nat) : Scope :=
  if n = 0 then .lane else if n = 1 then .warp else if n = 2 then .set else .block

/-- The length in bytes that a first word's bits [1:0] give, none for the reserved code 11 (R18). -/
def lengthOf (w : Nat) : Option Nat :=
  if w % 4 = 0 then some 4 else if w % 4 = 1 then some 8 else if w % 4 = 2 then some 12 else none

/-- The fields of an F64 or F96 pattern (R19, R20). -/
def encOf (w : Nat) : Enc :=
  { scope := Scope.ofCode (w / 4 % 4)
    dst  := BitVec.ofNat 9 (w / 2 ^ 14)
    a    := BitVec.ofNat 9 (w / 2 ^ 23)
    b    := BitVec.ofNat 9 (w / 2 ^ 32)
    c    := BitVec.ofNat 9 (w / 2 ^ 41)
    sel  := BitVec.ofNat 4 (w / 2 ^ 50)
    look := BitVec.ofNat 4 (w / 2 ^ 54)
    modi := BitVec.ofNat 6 (w / 2 ^ 58)
    lit  := if w % 4 = 2 then some (BitVec.ofNat 32 (w / 2 ^ 64)) else none }

/-- The fields of an F32 pattern (R21). -/
def shortOf (w : Nat) : Short :=
  { scope := Scope.ofCode (w / 4 % 4)
    dst := BitVec.ofNat 6 (w / 2 ^ 14)
    a   := BitVec.ofNat 6 (w / 2 ^ 20)
    b   := BitVec.ofNat 6 (w / 2 ^ 26) }

/-- The instruction that the number w of an instruction of `len` bytes encodes, or why it encodes none (R46). -/
def decodeNat (w : Nat) : Except DecodeErr Instr :=
  match lengthOf w with
  | none => .error .lengthCode
  | some len =>
    match Op.ofCode (w / 16 % 1024) with
    | none => .error .unassigned
    | some op =>
      if len = 4 then
        if op = .nop then
          if w % 2 ^ 32 = 0x1C90 then .ok .nopF32 else .error .shortNop
        else match Instr.ofShort op (shortOf w) with
          | none => .error .noShortForm
          | some i => match checkShort op (shortOf w) with
            | .ok _ => .ok i
            | .error x => .error x
      else match checkLong op (encOf w) with
        | .ok _ => .ok (Instr.ofLong op (encOf w))
        | .error x => .error x

/-- The length of the instruction at the head of the bytes and the instruction, or why there is none. -/
def decode (bytes : List Byte) : Except DecodeErr (Instr × Nat) :=
  if bytes.length < 4 then .error .truncated
  else match lengthOf (numOf (bytes.take 4)) with
    | none => .error .lengthCode
    | some len =>
      if bytes.length < len then .error .truncated
      else match decodeNat (numOf (bytes.take len)) with
        | .ok i => .ok (i, len)
        | .error x => .error x

/-- The number of an F64 or F96 instruction (R19, R20). -/
def encodeLong (op : Op) (e : Enc) : Nat :=
  (if e.lit.isSome then 2 else 1) + 4 * e.scope.code + 2 ^ 4 * op.code + 2 ^ 14 * e.dst.toNat + 2 ^ 23 * e.a.toNat
    + 2 ^ 32 * e.b.toNat + 2 ^ 41 * e.c.toNat + 2 ^ 50 * e.sel.toNat + 2 ^ 54 * e.look.toNat + 2 ^ 58 * e.modi.toNat
    + 2 ^ 64 * (e.lit.getD 0).toNat

/-- The number of an F32 instruction (R21). -/
def encodeShort (op : Op) (f : Short) : Nat :=
  4 * f.scope.code + 2 ^ 4 * op.code + 2 ^ 14 * f.dst.toNat + 2 ^ 20 * f.a.toNat + 2 ^ 26 * f.b.toNat

/-- The bytes of a fetched instruction as they stand in memory (R9, R18); an event has none. -/
def encode (i : Instr) : List Byte :=
  match i.view with
  | .long op e => bytesOf (if e.lit.isSome then 12 else 8) (encodeLong op e)
  | .short op f => bytesOf 4 (encodeShort op f)
  | .nopShort => bytesOf 4 0x1C90
  | .event => []

/-- The instruction that the decoder reads from bits numbered as the opcode table numbers them, every bit from `nbits` on
zero: the longest form is 12 bytes. -/
def decodeTableWord (nbits w : Nat) : Option Instr :=
  match decode (bytesOf 12 (w % 2 ^ nbits)) with
  | .ok (i, _) => some i
  | .error _ => none

end Sys2Proof
end

