-- ==== Sys2Proof/Config.lean ====
section
/-!
DEFINITION. What an implementation fixes and the specification leaves open: the free values. Each is a constant with no
body, so nothing can be proved of its value; a statement that mentions one holds for every value of it.
-/

namespace Sys2Proof.Config

/-- A free choice, drawn with a fresh number of the state: which enabled step moves next, which core takes a block in
free mode (R122), what an instruction cache still holds (R405). See assumption 7. -/
opaque freeChoice : Nat → Nat

/-- A free 32-bit value, drawn with a fresh number of the state. See assumption 7. -/
opaque freeWord : Nat → Word

/-- The special functions of R98 inside their bounds: function number, type code, operand. A result outside the bound of
R98 is not used (see `specialFn`). See assumption 8. -/
opaque specialValue : Nat → Nat → Word → Word

/-- Whether a firmware image's signature verifies under the ROM's key hash (R429). See assumption 9. -/
opaque imageVerifies : List Byte → Bool

/-- The security version that a firmware image carries (R429). See assumption 9. -/
opaque imageVersion : List Byte → Nat

/-- The numbers of the firmware configuration (R431) that an image carries, by field. See assumption 9. -/
opaque imageField : List Byte → Nat → Nat

/-- The bytes of the boot ROM's hash (R430). See assumption 9. -/
opaque romHashByte : Nat → Byte

/-- The bytes of the firmware configuration that an image carries, as R430 hashes them (R431). See assumption 9. -/
opaque configBytes : List Byte → List Byte

/-- The bytes of a generated identity key's public key and certificate (R429, R430), by key and offset. See assumption 9. -/
opaque keyByte : Nat → Nat → Byte

/-- The bytes of an LMS signature (R429, R430): by key, signature counter, signed bytes and offset. See assumption 9. -/
opaque signatureByte : Nat → Nat → List Byte → Nat → Byte

/-- The issue slot that an issue of a core takes (R4, R419), by its number. See assumption 35. -/
opaque issueSlot : Nat → Nat

/-- The rows of one table of a scheduler snapshot as numbers, read from the bytes of firmware-reserved DRAM (R399 gives the
snapshot no format). See assumption 23. -/
opaque snapshotRows : Nat → List (Nat × Byte) → List (List Nat)

/-- The bytes of a scheduler snapshot, from the rows of its tables as numbers (R399 gives it no format). See assumption 23. -/
opaque snapshotByte : (Nat → List (List Nat)) → Nat → Byte

/-- The temperature of a die as SMBus reads it, by a fresh number and die (R422). See assumption 9. -/
opaque temperature : Nat → Nat → Nat

/-- The clock class, accuracy and variance that the device's own clock has in the best master clock algorithm (R277). See assumption 70. -/
opaque clockQuality : Nat × Nat × Nat

/-- The bytes of a section of the cloakroom whose content R305 or R308 gives and whose layout they leave open, by what the section
records and by offset. See assumption 21. -/
opaque sectionByte : List Nat → Nat → Byte

end Sys2Proof.Config
end

