-- ==== Sys2Proof/Machine/Formats.lean ====
section
/-!
DEFINITION. Number formats and the rules of arithmetic (R53 to R81): decode, round, encode and the exact sums. A finite
value is held exactly as num × 2^exp, with a mark where a quotient or a root has a remainder below num's last bit.
-/

namespace Sys2Proof

/-- The formats of R53 and the MXINT8 element of R63. -/
inductive Fmt where
  | fp32 | bf16 | fp16 | e4m3 | e5m2 | e3m2 | e2m3 | e2m1 | i8 | i4 | i4x | e8m0 | sf8 | i32 | u32 | mxi8
deriving DecidableEq, Repr

/-- The format of a 4-bit code (R53), none for code 15. -/
def Fmt.ofCode : Nat → Option Fmt
  | 0 => some .fp32 | 1 => some .bf16 | 2 => some .fp16 | 3 => some .e4m3 | 4 => some .e5m2 | 5 => some .e3m2
  | 6 => some .e2m3 | 7 => some .e2m1 | 8 => some .i8 | 9 => some .i4 | 10 => some .i4x | 11 => some .e8m0
  | 12 => some .sf8 | 13 => some .i32 | 14 => some .u32 | _ => none

/-- Width in bits (R53). -/
def Fmt.bits : Fmt → Nat
  | .fp32 | .i32 | .u32 => 32
  | .bf16 | .fp16 => 16
  | .e4m3 | .e5m2 | .i8 | .e8m0 | .sf8 | .mxi8 => 8
  | .e3m2 | .e2m3 => 6
  | .e2m1 | .i4 | .i4x => 4

/-- Fraction bits of a floating-point format (R53). -/
def Fmt.fbits : Fmt → Nat
  | .fp32 => 23 | .bf16 => 7 | .fp16 => 10 | .e4m3 => 3 | .e5m2 => 2 | .e3m2 => 2 | .e2m3 => 3 | .e2m1 => 1 | .sf8 => 3
  | _ => 0

/-- Exponent bits of a floating-point format (R53). -/
def Fmt.ebits : Fmt → Nat
  | .fp32 => 8 | .bf16 => 8 | .fp16 => 5 | .e4m3 => 4 | .e5m2 => 5 | .e3m2 => 3 | .e2m3 => 2 | .e2m1 => 2 | .sf8 => 5
  | _ => 0

/-- Exponent bias (R53). -/
def Fmt.bias : Fmt → Int
  | .fp32 => 127 | .bf16 => 127 | .fp16 => 15 | .e4m3 => 7 | .e5m2 => 15 | .e3m2 => 3 | .e2m3 => 1 | .e2m1 => 1
  | .e8m0 => 127 | .sf8 => 15 | _ => 0

/-- The signed floating-point formats (R54). -/
def Fmt.isFloat : Fmt → Bool
  | .fp32 | .bf16 | .fp16 | .e4m3 | .e5m2 | .e3m2 | .e2m3 | .e2m1 => true
  | _ => false

/-- Formats with infinities (R53). -/
def Fmt.hasInf : Fmt → Bool
  | .fp32 | .bf16 | .fp16 | .e5m2 => true
  | _ => false

/-- A magnitude num × 2^exp, and a little more (below one unit of num) where `sticky`. -/
structure Mag where
  num    : Nat
  exp    : Int
  sticky : Bool := false
deriving DecidableEq, Repr

/-- A decoded value (R54, R64): a NaN keeps its sign and its fraction field aligned as in FP32 (quiet bit at 22). -/
inductive Val where
  | nan (neg : Bool) (frac : Nat)
  | inf (neg : Bool)
  | zero (neg : Bool)
  | fin (neg : Bool) (m : Mag)
deriving DecidableEq, Repr

/-- The rounding modes (R66). -/
inductive Rnd where
  | rn | rz | ru | rd | ra | sr
deriving DecidableEq, Repr

/-- The mode of a 3-bit code (R25). -/
def Rnd.ofCode : Nat → Rnd
  | 1 => .rz | 2 => .ru | 3 => .rd | 4 => .ra | 5 => .sr | _ => .rn

/-! ## The library (R81) -/

/-- The splitmix finaliser (R81). -/
def mix64 (x0 : DWord) : DWord :=
  let x1 := x0 ^^^ (x0 >>> 30)
  let x2 := x1 * 0xBF58476D1CE4E5B9#64
  let x3 := x2 ^^^ (x2 >>> 27)
  let x4 := x3 * 0x94D049BB133111EB#64
  x4 ^^^ (x4 >>> 31)

/-- The fold of a word list (R296). -/
def fold64 : List DWord → DWord → DWord
  | [], h => h
  | w :: r, h => fold64 r (mix64 (h ^^^ w))

/-- The digest of a word list (R296). -/
def foldWords (ws : List DWord) : DWord := fold64 ws 0

/-- Sixteen bits that name a PC (R81). -/
def h16 (pc : Addr54) : Nat := ((pc >>> 2) ^^^ (pc >>> 18) ^^^ (pc >>> 34)).toNat % 2 ^ 16

/-- Draw number n of stream t (R69). -/
def drawOf (seed : DWord) (lid t n : Nat) : DWord :=
  mix64 (mix64 (seed ^^^ (BitVec.ofNat 64 t <<< 56) ^^^ BitVec.ofNat 64 lid) + BitVec.ofNat 64 n)

/-- The origin NaN's fraction, aligned as in FP32 so that encoding it in the format gives the code of R72. -/
def nanpay (fmt : Fmt) (lane : Nat) (pc : Addr54) : Val :=
  match fmt with
  | .fp32 => .nan false (0x400000 + lane % 64 * 2 ^ 16 + h16 pc)
  | .fp16 => .nan false (0x400000 + (lane % 64 * 8 + h16 pc % 8) * 2 ^ 13)
  | .bf16 => .nan false (0x400000 + lane % 64 * 2 ^ 16)
  | _ => .nan false 0x400000

/-- The combine NaN (R72). -/
def combineNan : Val := .nan false 0x7FFFFF

/-! ## Magnitudes -/

/-- A shift by an integer: left where non-negative, otherwise right with the lost bits dropped. -/
def shiftInt (n : Nat) (k : Int) : Nat :=
  if 0 ≤ k then n * 2 ^ k.toNat else n / 2 ^ (-k).toNat

/-- floor(log2 |x|). -/
def Mag.log2 (m : Mag) : Int := (m.num.log2 : Int) + m.exp

/-- Strictly below, and equal, of two magnitudes; the sticky marks count as a fraction of one unit. -/
def Mag.lt (x y : Mag) : Bool :=
  let e := min x.exp y.exp
  let a := shiftInt x.num (x.exp - e)
  let b := shiftInt y.num (y.exp - e)
  a < b || (a = b && !x.sticky && y.sticky)

/-- Equal magnitudes. -/
def Mag.eq (x y : Mag) : Bool :=
  let e := min x.exp y.exp
  shiftInt x.num (x.exp - e) = shiftInt y.num (y.exp - e) && x.sticky == y.sticky

/-- Bits kept below the leading bit by a quotient or a root: enough for any format's precision and 32 bits of fraction. -/
def workBits : Nat := 320

/-- The quotient of two magnitudes, with the remainder marked. -/
def Mag.div (x y : Mag) : Mag :=
  let n := x.num * 2 ^ workBits
  { num := n / y.num, exp := x.exp - y.exp - workBits, sticky := n % y.num != 0 || x.sticky }

/-- The integer square root by bits, from bit k down. -/
def isqrtFrom (n : Nat) : Nat → Nat → Nat
  | 0, acc => acc
  | k + 1, acc => if (acc + 2 ^ k) * (acc + 2 ^ k) ≤ n then isqrtFrom n k (acc + 2 ^ k) else isqrtFrom n k acc

/-- floor(√n). -/
def isqrt (n : Nat) : Nat := isqrtFrom n (n.log2 / 2 + 1) 0

/-- The square root of a magnitude, with the remainder marked. -/
def Mag.sqrt (x : Mag) : Mag :=
  let odd : Nat := if x.exp % 2 = 0 then 0 else 1
  let n := x.num * 2 ^ (odd + 2 * 128)
  let r := isqrt n
  { num := r, exp := (x.exp - odd) / 2 - 128, sticky := r * r != n }

/-- The product of two magnitudes. -/
def Mag.mul (x y : Mag) : Mag := { num := x.num * y.num, exp := x.exp + y.exp, sticky := x.sticky || y.sticky }

/-! ## Decoding (R54 to R61) -/

/-- The sign, exponent and fraction fields of a code (R54). -/
def Fmt.fields (f : Fmt) (c : Nat) : Bool × Nat × Nat :=
  (c / 2 ^ (f.fbits + f.ebits) % 2 = 1, c / 2 ^ f.fbits % 2 ^ f.ebits, c % 2 ^ f.fbits)

/-- Whether the fields are a NaN of the format (R53). -/
def Fmt.isNan (f : Fmt) (e m : Nat) : Bool :=
  (f.hasInf && e = 2 ^ f.ebits - 1 && m != 0) || (f = .e4m3 && e = 15 && m = 7)

/-- Two's complement of n bits. -/
def toSigned (n c : Nat) : Int := if c % 2 ^ n < 2 ^ (n - 1) then (c % 2 ^ n : Nat) else (c % 2 ^ n : Nat) - (2 ^ n : Nat)

/-- An integer scaled by 2^e as a value (R58: zero has no sign). -/
def Val.ofInt (z : Int) (e : Int) : Val := if z = 0 then .zero false else .fin (z < 0) { num := z.natAbs, exp := e }

/-- The value of a code (R54 to R61). A NaN of an 8-bit format decodes to the quiet NaN with payload 0 (R74). -/
def decodeVal (f : Fmt) (c : Nat) : Val :=
  if f.isFloat then
    let (s, e, m) := f.fields c
    if f.isNan e m then
      match f with
      | .fp32 => .nan s m
      | .bf16 => .nan s (m * 2 ^ 16)
      | .fp16 => .nan s (m * 2 ^ 13)
      | _ => .nan s 0x400000
    else if f.hasInf && e = 2 ^ f.ebits - 1 then .inf s
    else if e = 0 then
      if m = 0 then .zero s else .fin s { num := m, exp := 1 - f.bias - f.fbits }
    else .fin s { num := m + 2 ^ f.fbits, exp := e - f.bias - f.fbits }
  else match f with
    | .e8m0 => if c % 256 = 255 then .nan false 0x400000 else .fin false { num := 1, exp := (c % 256 : Nat) - 127 }
    | .sf8 =>
        if c % 256 = 0 then .zero false
        else if c % 256 = 255 then .nan false 0x400000
        else .fin false { num := 8 + c % 8, exp := (c % 256 / 8 : Nat) - 15 - 3 }
    | .u32 => Val.ofInt (c % 2 ^ 32 : Nat) 0
    | .mxi8 => Val.ofInt (toSigned 8 c) (-6)
    | .i4x => if c % 16 = 8 then .nan false 0x400000 else Val.ofInt (toSigned 4 c) 0
    | _ => Val.ofInt (toSigned f.bits c) 0

/-! ## Rounding and encoding (R66 to R68) -/

/-- Whether the magnitude moves up, by the discarded fraction (R66): `rem` of 2^k units are discarded, and a little more
where `sticky`. `r` is the draw of a stochastic rounding. -/
def roundsUp (mode : Rnd) (neg : Bool) (lo rem k : Nat) (sticky : Bool) (r : Nat) : Bool :=
  let half := 2 ^ (k - 1)
  let some' := rem != 0 || sticky
  match mode with
  | .rn => k != 0 && (half < rem || (rem = half && (sticky || lo % 2 = 1)))
  | .rz => false
  | .ru => some' && !neg
  | .rd => some' && neg
  | .ra => k != 0 && half ≤ rem
  | .sr => some' && r < rem * 2 ^ 32 / 2 ^ k

/-- |x| rounded to a whole number of units of 2^q (R66, `round` of R81). -/
def roundUnits (mode : Rnd) (neg : Bool) (x : Mag) (q : Int) (r : Nat) : Nat :=
  if q ≤ x.exp then x.num * 2 ^ (x.exp - q).toNat
  else
    let k := (q - x.exp).toNat
    let lo := x.num / 2 ^ k
    if roundsUp mode neg lo (x.num % 2 ^ k) k x.sticky r then lo + 1 else lo

/-- The unit exponent q of `round` (R81). -/
def Fmt.unit (f : Fmt) (x : Mag) : Int :=
  if f.isFloat then max x.log2 (1 - f.bias) - f.fbits
  else match f with
    | .mxi8 => -6
    | _ => 0

/-- The largest finite code of a floating-point format (R53). -/
def Fmt.largest (f : Fmt) : Nat :=
  match f with
  | .e4m3 => 0x7E
  | _ => if f.hasInf then (2 ^ f.ebits - 1) * 2 ^ f.fbits - 1 else 2 ^ (f.ebits + f.fbits) - 1

/-- The sign bit of a code. -/
def Fmt.signBit (f : Fmt) (neg : Bool) : Nat := if neg then 2 ^ (f.fbits + f.ebits) else 0

/-- The code of M units of 2^q, in range (R54). -/
def Fmt.pack (f : Fmt) (M : Nat) (q : Int) : Nat :=
  if M = 0 then 0
  else
    let e := (M.log2 : Int) + q
    if e < 1 - f.bias then shiftInt M (q - (1 - f.bias - f.fbits))
    else (e + f.bias).toNat * 2 ^ f.fbits + (shiftInt M ((f.fbits : Int) - (M.log2 : Int)) - 2 ^ f.fbits)

/-- Whether a mode carries an overflow on to the overflow value (R67); otherwise the largest finite value stands. -/
def overflows (mode : Rnd) (neg : Bool) : Bool :=
  match mode with
  | .rn | .ra | .sr => true
  | .rz => false
  | .ru => !neg
  | .rd => neg

/-- The code of an overflow (R67). -/
def Fmt.overflowCode (f : Fmt) (mode : Rnd) (neg sat : Bool) : Nat :=
  f.signBit neg + (if sat || !overflows mode neg then f.largest
    else if f.hasInf then (2 ^ f.ebits - 1) * 2 ^ f.fbits
    else if f = .e4m3 then 0x7F
    else f.largest)

/-- The limits of the integer formats (R53, R65: an MXINT8 element is saturated to ±127, R108: I4X to ±7). -/
def Fmt.intRange (f : Fmt) : Int × Int :=
  match f with
  | .i8 => (-128, 127) | .mxi8 => (-127, 127) | .i4 => (-8, 7) | .i4x => (-7, 7)
  | .i32 => (-(2 ^ 31), 2 ^ 31 - 1) | .u32 => (0, 2 ^ 32 - 1) | _ => (0, 255)

/-- A clamp to limits. -/
def clampInt (lo hi z : Int) : Int := max lo (min hi z)

/-- The code of an integer in a format, clamped (R67: every overflow of an integer format saturates). -/
def Fmt.intCode (f : Fmt) (z : Int) : Nat := ((clampInt f.intRange.1 f.intRange.2 z) % (2 ^ f.bits : Nat)).toNat

/-- The code of a NaN (R68, R74). -/
def Fmt.nanCode (f : Fmt) (neg : Bool) (frac : Nat) : Nat :=
  match f with
  | .fp32 => f.signBit neg + 0x7F800000 + frac % 2 ^ 23
  | .bf16 => f.signBit neg + 0x7F80 + frac / 2 ^ 16 % 2 ^ 7
  | .fp16 => f.signBit neg + 0x7C00 + frac / 2 ^ 13 % 2 ^ 10
  | .e4m3 => f.signBit neg + 0x7F
  | .e5m2 => f.signBit neg + 0x7E
  | .e8m0 | .sf8 => 0xFF
  | _ => 0

/-- `encode` of R81: an exact value or a special as a code; r is the draw where the mode is stochastic. -/
def encodeVal (f : Fmt) (mode : Rnd) (sat : Bool) (r : Nat) (x : Val) : Nat :=
  match x with
  | .nan neg frac =>
      -- a kept payload never empties into an infinity: the quiet bit is the highest kept bit (R73, R74)
      f.nanCode neg (if f = .fp32 then frac else frac ||| 0x400000)
  | .inf neg =>
      if f.isFloat then
        if f.hasInf && !sat then f.signBit neg + (2 ^ f.ebits - 1) * 2 ^ f.fbits
        else if f = .e4m3 && !sat then f.signBit neg + 0x7F
        else f.signBit neg + f.largest
      else match f with
        | .e8m0 | .sf8 => 0xFF
        | _ => f.intCode (if neg then f.intRange.1 else f.intRange.2)
  | .zero neg => if f.isFloat then f.signBit neg else 0
  | .fin neg m =>
      let q := f.unit m
      let M := roundUnits mode neg m q r
      if f.isFloat then
        if M = 0 then f.signBit neg
        else
          let y : Mag := { num := M, exp := q }
          let top := decodeVal f f.largest
          match top with
          | .fin _ t => if t.lt y then f.overflowCode mode neg sat else f.signBit neg + f.pack M q
          | _ => 0
      else f.intCode (if neg then -(M : Int) else M)

/-- A NaN with its quiet bit set (R73). -/
def Val.quiet : Val → Val
  | .nan s m => .nan s (m ||| 0x400000)
  | v => v

/-- Whether a value is a NaN. -/
def Val.isNan : Val → Bool
  | .nan _ _ => true
  | _ => false

/-- The sign of a value. -/
def Val.neg : Val → Bool
  | .nan s _ => s | .inf s => s | .zero s => s | .fin s _ => s

/-- A value with its sign inverted. -/
def Val.negate : Val → Val
  | .nan s m => .nan (!s) m | .inf s => .inf (!s) | .zero s => .zero (!s) | .fin s m => .fin (!s) m

/-- Reads an FP32 subnormal as a zero of its sign (R71). -/
def ftzIn (f : Fmt) (ftz : Bool) (v : Val) : Val :=
  match v with
  | .fin s m => if ftz && f = .fp32 && m.log2 < -126 then .zero s else v
  | _ => v

/-- Writes an FP32 result whose rounded value is subnormal as a zero of its sign (R71). -/
def ftzOut (f : Fmt) (ftz : Bool) (c : Nat) : Nat :=
  if ftz && f = .fp32 && c / 2 ^ 23 % 256 = 0 then c / 2 ^ 31 * 2 ^ 31 else c

/-- The first NaN of a list, quieted (R73). -/
def firstNan : List Val → Option Val
  | [] => none
  | v :: r => if v.isNan then some v.quiet else firstNan r

/-! ## Exact sums (R75 to R77, R79) -/

/-- A signed exact value n × 2^e. -/
structure Dyadic where
  n : Int
  e : Int
deriving DecidableEq, Repr

/-- The exact signed value of a finite or zero value. -/
def Val.dyadic : Val → Dyadic
  | .fin s m => { n := if s then -(m.num : Int) else m.num, e := m.exp }
  | _ => { n := 0, e := 0 }

/-- The exact sum of two. -/
def Dyadic.add (x y : Dyadic) : Dyadic :=
  if x.n = 0 then y
  else if y.n = 0 then x
  else
    let e := min x.e y.e
    { n := x.n * (2 ^ (x.e - e).toNat : Nat) + y.n * (2 ^ (y.e - e).toNat : Nat), e := e }

/-- A dyadic as a value; `negZero` is the sign of an exact zero. -/
def Dyadic.toVal (d : Dyadic) (negZero : Bool) : Val :=
  if d.n = 0 then .zero negZero else .fin (d.n < 0) { num := d.n.natAbs, exp := d.e }

/-- The exact product of two values, none where the operation is invalid (R72); NaNs by R73, signs by R75. -/
def mulVal (a b : Val) : Option Val :=
  match firstNan [a, b] with
  | some v => some v
  | none =>
    let s := a.neg != b.neg
    match a, b with
    | .inf _, .zero _ | .zero _, .inf _ => none
    | .inf _, _ | _, .inf _ => some (.inf s)
    | .zero _, _ | _, .zero _ => some (.zero s)
    | .fin _ x, .fin _ y => some (.fin s (x.mul y))
    | _, _ => none

/-- The exact quotient (R92), none where invalid. -/
def divVal (a b : Val) : Option Val :=
  match firstNan [a, b] with
  | some v => some v
  | none =>
    let s := a.neg != b.neg
    match a, b with
    | .inf _, .inf _ | .zero _, .zero _ => none
    | .inf _, _ => some (.inf s)
    | _, .inf _ => some (.zero s)
    | .zero _, _ => some (.zero s)
    | _, .zero _ => some (.inf s)
    | .fin _ x, .fin _ y => some (.fin s (x.div y))
    | _, _ => none

/-- The square root (R92), none where invalid. -/
def sqrtVal (a : Val) : Option Val :=
  match a with
  | .nan _ _ => some a.quiet
  | .zero s => some (.zero s)
  | .inf true => none
  | .inf false => some a
  | .fin true _ => none
  | .fin false m => some (.fin false m.sqrt)

/-- The exact sum of two addends (R75: the sign of a zero sum), none where invalid. -/
def addVal (mode : Rnd) (a b : Val) : Option Val :=
  match firstNan [a, b] with
  | some v => some v
  | none =>
    match a, b with
    | .inf s, .inf t => if s = t then some (.inf s) else none
    | .inf s, _ => some (.inf s)
    | _, .inf t => some (.inf t)
    | _, _ => some ((a.dyadic.add b.dyadic).toVal ((a.neg && b.neg) || (mode = .rd && a.neg != b.neg)))

/-- a × b + c exactly (R76, R92): NaNs in the order a, b, c; none where invalid. -/
def fmaVal (mode : Rnd) (a b c : Val) : Option Val :=
  match firstNan [a, b, c] with
  | some v => some v
  | none =>
    match mulVal a b with
    | none => none
    | some p => addVal mode p c

/-- Whether a list of values holds an infinity of a sign. -/
def hasInfOf (s : Bool) : List Val → Bool
  | [] => false
  | .inf t :: r => s = t || hasInfOf s r
  | _ :: r => hasInfOf s r

/-- The exact sum of a list of finite or zero values. -/
def sumDyadic : List Val → Dyadic → Dyadic
  | [], d => d
  | v :: r, d => sumDyadic r (d.add v.dyadic)

/-- Whether every value is −0 (R75). -/
def allNegZero : List Val → Bool
  | [] => true
  | .zero true :: r => allNegZero r
  | _ => false

/-- The exact sum of more than two addends without NaN (R75, R77): none where infinities of both signs meet. -/
def sumVal (ts : List Val) : Option Val :=
  if hasInfOf true ts && hasInfOf false ts then none
  else if hasInfOf true ts then some (.inf true)
  else if hasInfOf false ts then some (.inf false)
  else some ((sumDyadic ts { n := 0, e := 0 }).toVal (allNegZero ts))

/-- The products of a chunk in ascending k, none where a product is 0 × ∞ (R77). -/
def productsOf : List (Val × Val) → List (Option Val)
  | [] => []
  | (a, b) :: r => mulVal a b :: productsOf r

/-- The first NaN product (R77 item 1). -/
def firstNanProduct : List (Option Val) → Option Val
  | [] => none
  | some (.nan s m) :: _ => some (.nan s (m ||| 0x400000))
  | _ :: r => firstNanProduct r

/-- The products that exist, in order. -/
def somes : List (Option Val) → List Val
  | [] => []
  | some v :: r => v :: somes r
  | none :: r => somes r

/-- Whether a product is invalid. -/
def anyNone : List (Option Val) → Bool
  | [] => false
  | none :: _ => true
  | some _ :: r => anyNone r

/-- One chunk of an MMA (R77): the incoming accumulator word and 32 pairs give the next accumulator word. -/
def chunkSum (acc : Word) (pairs : List (Val × Val)) : Word :=
  let c := decodeVal .fp32 acc.toNat
  let ps := productsOf pairs
  let v :=
    if c.isNan then c.quiet
    else match firstNanProduct ps with
      | some n => n
      | none => if anyNone ps then combineNan else (sumVal (somes ps ++ [c])).getD combineNan
  BitVec.ofNat 32 (encodeVal .fp32 .rn false 0 v)

/-- FP32 addition with the mode .rn and an origin for an invalid step (R78, R80). -/
def fadd32 (lane : Nat) (pc : Addr54) (a b : Word) : Word :=
  let v := (addVal .rn (decodeVal .fp32 a.toNat) (decodeVal .fp32 b.toNat)).getD (nanpay .fp32 lane pc)
  BitVec.ofNat 32 (encodeVal .fp32 .rn false 0 v)

/-- An exact-sum slot (R79). -/
structure ExactSum where
  acc      : Int
  posInf   : Bool
  negInf   : Bool
  nan      : Option (Bool × Nat)
  allNeg   : Bool
  overflow : Option Bool
deriving DecidableEq, Repr

/-- The slot before its initial value has been added. -/
def ExactSum.empty : ExactSum := { acc := 0, posInf := false, negInf := false, nan := none, allNeg := true, overflow := none }

/-- Which of two NaNs a slot keeps: the smaller payload [21:0], + before − at a tie (R79). A kept NaN is quiet, so that two NaNs that
differ in the quiet bit alone leave one result in either order (assumption 55). -/
def keepNan (old : Option (Bool × Nat)) (s : Bool) (frac : Nat) : Option (Bool × Nat) :=
  let p := frac % 2 ^ 22
  let new := some (s, 2 ^ 22 + p)
  match old with
  | none => new
  | some (t, g) => if p < g % 2 ^ 22 || (p = g % 2 ^ 22 && t && !s) then new else old

/-- A contribution to a slot (R79): A has weight 2^-149 per unit. -/
def ExactSum.add (x : ExactSum) (v : Val) : ExactSum :=
  match v with
  | .nan s m => { x with nan := keepNan x.nan s m, allNeg := false }
  | .inf s => { x with posInf := x.posInf || !s, negInf := x.negInf || s, allNeg := false }
  | .zero s => { x with allNeg := x.allNeg && s }
  | .fin _ _ =>
    let d := v.dyadic
    let t := x.acc + d.n * (2 ^ (d.e + 149).toNat : Nat)
    if t < -(2 ^ 319 : Nat) || (2 ^ 319 : Nat) ≤ t then
      { x with overflow := x.overflow.or (some (t < 0)), allNeg := false }
    else { x with acc := t, allNeg := false }

/-- Two partial sums of one word as one (R79, R182). -/
def ExactSum.merge (x y : ExactSum) : ExactSum :=
  let t := x.acc + y.acc
  let nan := match y.nan with
    | some (s, m) => keepNan x.nan s m
    | none => x.nan
  let past := x.overflow.or y.overflow
  let z : ExactSum := { acc := t, posInf := x.posInf || y.posInf, negInf := x.negInf || y.negInf, nan := nan, allNeg := x.allNeg && y.allNeg, overflow := past }
  if t < -(2 ^ 319 : Nat) || (2 ^ 319 : Nat) ≤ t then { z with acc := 0, overflow := past.or (some (t < 0)) } else z

/-- A two's-complement number of n bytes. -/
def signedOf (n : Nat) (bs : List Byte) : Int := (BitVec.ofNat (8 * n) (numOf bs)).toInt

/-- A slot as the 64 bytes of a spill entry (R183): its word's address, A, the kept NaN, the flags (the layout is open: assumption 72). -/
def ExactSum.bytes (x : ExactSum) (w : Nat) : List Byte :=
  let nan := match x.nan with | some (s, m) => m % 2 ^ 23 + (if s then 2 ^ 23 else 0) | none => 0
  let past := match x.overflow with | some s => 16 + (if s then 32 else 0) | none => 0
  let flags := (if x.posInf then 1 else 0) + (if x.negInf then 2 else 0) + (if x.allNeg then 4 else 0) + (if x.nan.isSome then 8 else 0) + past
  bytesOf 8 w ++ bytesOf 40 (BitVec.ofInt 320 x.acc).toNat ++ bytesOf 4 nan ++ bytesOf 4 flags ++ bytesOf 8 0

/-- The slot that a spill entry holds. -/
def ExactSum.ofBytes (bs : List Byte) : ExactSum :=
  let nan := numOf ((bs.drop 48).take 4)
  let flags := numOf ((bs.drop 52).take 4)
  { acc := signedOf 40 ((bs.drop 8).take 40), posInf := flags % 2 = 1, negInf := flags / 2 % 2 = 1, allNeg := flags / 4 % 2 = 1,
    nan := if flags / 8 % 2 = 1 then some (decide (nan / 2 ^ 23 % 2 = 1), nan % 2 ^ 23) else none,
    overflow := if flags / 16 % 2 = 1 then some (decide (flags / 32 % 2 = 1)) else none }

/-- The FP32 value of a slot when it is read (R79). -/
def ExactSum.read (x : ExactSum) : Word :=
  let v : Val :=
    match x.nan with
    | some (s, m) => .nan s m
    | none =>
      if x.posInf && x.negInf then combineNan
      else if x.posInf then .inf false
      else if x.negInf then .inf true
      else match x.overflow with
        | some s => .inf s
        | none =>
          if x.acc = 0 then .zero x.allNeg
          else .fin (x.acc < 0) { num := x.acc.natAbs, exp := -149 }
  BitVec.ofNat 32 (encodeVal .fp32 .rn false 0 v)

/-! ## MX blocks (R59, R62 to R65, R108) -/

/-- Element i of a packed string of w-bit codes (R62): the string as one little-endian number. -/
def packedAt (w str i : Nat) : Nat := str / 2 ^ (w * i) % 2 ^ w

/-- The packed string of w-bit codes (R62). -/
def packCodes (w : Nat) : List Nat → Nat
  | [] => 0
  | c :: r => c % 2 ^ w + 2 ^ w * packCodes w r

/-- s × val, with the special scales of R64; the element's sign stays on a NaN and on a zero. -/
def scaleVal (scale v : Val) (neg : Bool) : Val :=
  match scale, v with
  | .nan _ _, _ => .nan neg 0x400000
  | _, .nan _ _ => .nan neg 0x400000
  | .zero _, .inf _ => .nan neg 0x400000
  | .zero _, _ => .zero neg
  | .fin _ _, .inf s => .inf s
  | .fin _ s, .fin t m => .fin t (s.mul m)
  | _, .zero t => .zero t
  | _, w => w

/-- The elements of an I4X block from slot i on (R59): `n` slots of fuel remain. -/
def i4xFrom (slot : Nat → Nat) : Nat → Nat → List Val
  | 0, _ => []
  | n + 1, i =>
    let c := slot i
    if c = 8 && i ≤ 29 then
      match n with
      | 0 | 1 => [decodeVal .e4m3 (slot (i + 2) * 16 + slot (i + 1))]
      | k + 2 => decodeVal .e4m3 (slot (i + 2) * 16 + slot (i + 1)) :: .zero false :: .zero false :: i4xFrom slot k (i + 3)
    else if c = 8 then .nan false 0x400000 :: i4xFrom slot n (i + 1)
    else Val.ofInt (toSigned 4 c) 0 :: i4xFrom slot n (i + 1)

/-- The 32 element values of a block before scaling (R59, R63). -/
def blockVals (f : Fmt) (str : Nat) : List Val :=
  if f = .i4x then i4xFrom (packedAt 4 str) 32 0
  else (List.range 32).map fun i => decodeVal f (packedAt f.bits str i)

/-- A block's 32 decoded values (R64): the sign of an integer element goes with a zero or a NaN that its scale makes. -/
def decodeBlock (f sf : Fmt) (str scale : Nat) : List Val :=
  (blockVals f str).map fun v => scaleVal (decodeVal sf scale) v v.neg

/-- emax of the OCP rule (R65 step 2). -/
def Fmt.emax : Fmt → Int
  | .e4m3 => 8 | .e5m2 => 15 | .e3m2 => 4 | .e2m3 => 2 | .e2m1 => 2 | .i4x => 2 | _ => 0

/-- The largest finite value pmax of an element format (R65 step 3). -/
def Fmt.pmax (f : Fmt) : Mag :=
  match f with
  | .i4x => { num := 7, exp := 0 }
  | .mxi8 => { num := 127, exp := -6 }
  | _ => match decodeVal f f.largest with
    | .fin _ m => m
    | _ => { num := 1, exp := 0 }

/-- The magnitude of a value; zero for every special. -/
def Val.mag : Val → Mag
  | .fin _ m => m
  | _ => { num := 0, exp := 0 }

/-- The largest magnitude of a list. -/
def maxMag : List Val → Mag → Mag
  | [], m => m
  | v :: r, m => maxMag r (if m.lt v.mag then v.mag else m)

/-- The smallest SF8 code from c on whose value times pmax reaches amax, with n codes left; 0xFE at the end (R65 step 3). -/
def sf8From (amax pmax : Mag) : Nat → Nat → Nat
  | 0, _ => 0xFE
  | n + 1, c =>
    match decodeVal .sf8 c with
    | .fin _ s => if (s.mul pmax).lt amax then sf8From amax pmax n (c + 1) else c
    | _ => sf8From amax pmax n (c + 1)

/-- The scale code of a block with largest magnitude amax (R65 steps 2 and 3). -/
def scaleCode (f sf : Fmt) (amax : Mag) : Nat :=
  if sf = .sf8 then
    if amax.num = 0 then 0 else sf8From amax f.pmax 253 1
  else if amax.num = 0 then 0
  else (clampInt (-127) 127 (amax.log2 - f.emax) + 127).toNat

/-- The value s by which elements are divided; 1 when the SF8 code is 0x00 (R65 step 4). -/
def scaleMag (sf : Fmt) (code : Nat) : Mag :=
  match decodeVal sf code with
  | .fin _ m => m
  | _ => { num := 1, exp := 0 }

/-- x / s for a finite or zero x. -/
def divScale (x : Val) (s : Mag) : Val :=
  match x with
  | .fin n m => .fin n (m.div s)
  | v => v

/-- Whether a list holds a NaN or an infinity. -/
def anySpecial : List Val → Bool
  | [] => false
  | .nan _ _ :: _ => true
  | .inf _ :: _ => true
  | _ :: r => anySpecial r

/-- R65: the scale code and the 32 element codes of a block of exact inputs. -/
def encodeBlock (f sf : Fmt) (xs : List Val) : Nat × List Nat :=
  if anySpecial xs then (0xFF, xs.map fun _ => 0)
  else
    let code := scaleCode f sf (maxMag xs { num := 0, exp := 0 })
    (code, xs.map fun x => encodeVal f .rn true 0 (divScale x (scaleMag sf code)))

/-- Whether slots i, i+1 and i+2 are all free (R108). -/
def tripleFree (free : List Nat) (i : Nat) : Bool := i ≤ 29 && free.contains i && free.contains (i + 1) && free.contains (i + 2)

/-- The candidate of largest magnitude, the lowest index on ties (R108). -/
def bestOutlier (xs : List Val) (free : List Nat) : List Nat → Option Nat → Option Nat
  | [], b => b
  | i :: r, b =>
    let m := (xs.getD i (.zero false)).mag
    if tripleFree free i && m.num != 0 then
      match b with
      | none => bestOutlier xs free r (some i)
      | some j => bestOutlier xs free r (if ((xs.getD j (.zero false)).mag).lt m then some i else b)
    else bestOutlier xs free r b

/-- The outliers taken under a budget (R108): the free slots left and the outliers. -/
def takeOutliers (xs : List Val) : Nat → List Nat → List Nat → List Nat × List Nat
  | 0, free, out => (free, out)
  | n + 1, free, out =>
    match bestOutlier xs free (List.range 30) none with
    | none => (free, out)
    | some i => takeOutliers xs n (free.filter fun j => !(i ≤ j && j ≤ i + 2)) (out ++ [i])

/-- IXENC on 32 exact inputs (R108): the scale code and the 32 slots. -/
def encodeI4x (sf : Fmt) (budget : Nat) (xs : List Val) : Nat × List Nat :=
  if anySpecial xs then (0xFF, xs.map fun _ => 0)
  else
    let (free, out) := takeOutliers xs budget (List.range 32) []
    let m1 := maxMag (free.map fun i => xs.getD i (.zero false)) { num := 0, exp := 0 }
    let mo := maxMag (out.map fun i => xs.getD i (.zero false)) { num := 0, exp := 0 }
    let m2 : Mag := { num := mo.num, exp := mo.exp - 6 }
    let code := scaleCode .i4x sf (if m1.num = 0 then m2 else if m2.num = 0 then m1 else if m1.lt m2 then m2 else m1)
    let s := scaleMag sf code
    let ofOut (i : Nat) : Nat := encodeVal .e4m3 .rn true 0 (divScale (xs.getD i (.zero false)) s)
    (code, (List.range 32).map fun i =>
      if free.contains i then encodeVal .i4x .rn true 0 (divScale (xs.getD i (.zero false)) s)
      else if out.contains i then 8
      else if 0 < i && out.contains (i - 1) then ofOut (i - 1) % 16
      else ofOut (i - 2) / 16)

end Sys2Proof
end

