-- ==== Sys2Proof/Machine/State.lean ====
section
/-!
DEFINITION. The state of one chip (R3, R7): everything the specification gives it, as plain data; what stops a step; and
the state after reset.
-/

namespace Sys2Proof.Machine

/-- Why a step stops. -/
inductive Fault where
  /-- Raised by `exec` for a fetched instruction when no resident warp is the issuer: the model's own misuse of `exec`;
  a step of the machine never does it. Safe. -/
  | noIssuer
deriving DecidableEq, Repr

/-- Why an instruction has no meaning. -/
inductive Refusal where
  /-- Raised by an arm of `exec` whose instruction has no meaning yet. Safe: the machine stops. -/
  | notModelled (mnemonic : String)
deriving DecidableEq, Repr

/-! ## Warps -/

/-- An entry of a loop stack (R156, R157). -/
structure LoopEntry where
  start     : Addr54 := 0
  stop      : Addr54 := 0
  remaining : Word := 0
deriving DecidableEq, Repr

/-- A write to a register, as a result that is not delivered yet (R135): lane words of a vector register, a scalar, bits
of a mask. -/
inductive RegWrite where
  | vec (reg : Nat) (lanes : List (Nat × Word))
  | scal (reg : Nat) (value : DWord)
  | mask (reg : Nat) (bits value : Lanes)
deriving DecidableEq, Repr

/-- A lookahead window (R135): the registers a long-latency instruction writes, the counts still left, and the result. -/
structure Window where
  id     : Nat
  vregs  : List Nat := []
  lanes  : Lanes := 0
  sregs  : List Nat := []
  kregs  : List Nat := []
  left   : Map Nat := []
  leftS  : Nat := 0
  done   : Bool := false
  ready  : Bool := true
  writes : List RegWrite := []
  patom  : Bool := false
deriving DecidableEq, Repr

/-- Where a lane's access lands (R169 to R176): a physical address, the 4-byte words of a core's scratchpad, an address of
the die scratchpads. -/
inductive Loc where
  | glb (pa : Nat)
  | spad (core : Nat) (words : List Nat)
  | die (a : Nat)
deriving DecidableEq, Repr

/-- One lane's access of a memory issue (R229): its element number, its effective address, data and comparand words, its
warp's clock before the issue, and where it lands. `bad` says that its address register breaks R170. -/
structure LaneAcc where
  wid   : Nat
  lane  : Nat
  e     : Nat
  addr  : Int
  bad   : Bool := false
  loc   : Loc := .die 0
  data  : List Word := []
  cmp   : List Word := []
  clock : DWord := 0
deriving DecidableEq, Repr

/-- What an access does (R232, R243, R247). -/
inductive AccKind where
  | load (words : Nat) (scalar cons : Bool)
  | store (words : Nat) (scalar rel : Bool)
  | atom (op : Nat)
  | mred (op : Nat)
  | mbinit (n : Nat)
  | mbarr
  | mbexp (n : Nat)
  | mbwait (t : Nat)
  | mbtest (t : Nat) (scalar : Bool)
deriving DecidableEq, Repr

/-- A memory issue with everything it read at its issue (R229 to R231). `warps` are the member warps and their
participating lanes, in ascending rank; `wins` their lookahead windows; `scope` and `members` stand in its records; `owners` are the
blocks whose bytes it reaches through the cluster window (R174); `absent` are the granules that it has waited for, by core (R178). -/
structure MemOp where
  id      : Nat := 0
  blk     : Nat
  kind    : AccKind
  space   : Nat
  width   : Nat
  dst     : Nat := 0
  lanes   : List LaneAcc := []
  warps   : List (Nat × Lanes) := []
  wins    : List (Nat × Nat) := []
  pc      : Addr54 := 0
  len     : Nat := 0
  scope   : Nat := 0
  members : Nat := 0
  trap    : Bool := false
  owners  : List Nat := []
  absent  : List (Nat × Nat) := []
deriving DecidableEq, Repr

/-- What a ring instruction does once it can (R352 to R354, R358). -/
inductive RingKind where
  | push | pop | data | room | svc
deriving DecidableEq, Repr

/-- A ring instruction with the operands it read at its issue (R351): the header, the sequence or the consumer it names, and
per participating lane its warp, its number and its source address; `mig` is the migrating page that it waits for (R315), `windowed` says that
its access to a format window that is off has raised its fault (R319). -/
structure RingOp where
  id      : Nat
  blk     : Nat
  kind    : RingKind
  header  : DWord
  seq     : DWord := 0
  cursor  : Nat := 0
  scalar  : Bool := false
  dst     : Nat := 0
  lanes   : List (Nat × Nat × DWord) := []
  warps   : List (Nat × Lanes) := []
  wins    : List (Nat × Nat) := []
  pc      : Addr54 := 0
  len     : Nat := 0
  scope   : Nat := 0
  members : Nat := 0
  payload : List Byte := []
  clock   : DWord := 0
  mig     : Option Addr54 := none
  windowed : Bool := false
deriving DecidableEq, Repr

/-- Where lanes are parked (R127). -/
inductive Place where
  | rendezvous (scope : Scope) (sel : Nat) (members : Lanes)
  | wait (mask : Nat)
  | mbwait (core off target owner scope members : Nat) (warps : List (Nat × Lanes))
  | talloc (id : Nat)
  | ring (r : RingOp)
  | evwait (code : DWord) (dst win : Nat)
  | granule (op : MemOp)
deriving DecidableEq, Repr

/-- A parked group: its lanes, the PC they stand at, the length of the instruction there, and the clock of the arrival; `woken` is the
clock of a release that came while the group stood in a trap frame, which holds it unchanged until TRET (R164), or in a warp off-core, which
resumes as saved (R359); `lone` says that the
group alone completes a rendezvous by its own arrival. -/
structure Park where
  lanes : Lanes
  pc    : Addr54
  len   : Nat
  place : Place
  clock : DWord := 0
  woken : Option DWord := none
  lone  : Bool := false
deriving DecidableEq, Repr

/-- A trap frame (R164). -/
structure Frame where
  pcs   : Map Addr54 := []
  parks : List Park := []
  pin   : Lanes := 0
  loops : List LoopEntry := []
deriving DecidableEq, Repr

/-- One ACP copy in a warp's queue (R238): its pieces as source place and destination, and their source addresses; `chunks` are the
64 KiB chunks of its sources in global memory (R315). What its records need of the ACP stands beside them (R271, R273). -/
structure AcpCopy where
  id      : Nat
  wid     : Nat
  die     : Bool
  size    : Nat
  pieces  : List (Nat × Nat)
  granules : List Nat
  chunks  : List Nat := []
  object  : Option Nat
  pc      : Addr54
  clock   : DWord
  srcs    : List DWord := []
  scope   : Nat := 0
  lanes   : Lanes := 0
  members : Nat := 0
deriving DecidableEq, Repr

/-- A QFENCE that has issued and whose operations have not all been performed (R252): its lanes complete it when they have;
a save undoes it. -/
structure Fence where
  pc    : Addr54
  len   : Nat
  lanes : Lanes
  clock : DWord
deriving DecidableEq, Repr

/-- A resident warp (R122, R127 to R135, R156 to R165). -/
structure Warp where
  blk      : Nat := 0
  index    : Nat := 0
  live     : Lanes := 0
  pcs      : Map Addr54 := []
  pin      : Lanes := 0
  parks    : List Park := []
  loops    : List LoopEntry := []
  v        : Map Word := []
  s        : Map DWord := []
  k        : Map Lanes := []
  draw     : Map Word := []
  lclk     : DWord := 0
  tvec     : DWord := 0
  fault    : DWord := 0
  frame    : Option Frame := none
  records  : Nat := 0
  suspended : Option Nat := none
  windows  : List Window := []
  waits    : List Nat := []
  fence    : Option Fence := none
  migrating : Option Addr54 := none
  offcore  : Option DWord := none
  halted   : Bool := false
  pass     : Option Addr54 := none
  skip     : Bool := false
  last     : Option Nat := none
  skid     : Nat := 0
  stopSt   : Nat := 0
  lastPc   : Addr54 := 0
  exitSeen : Bool := false
  stepping : Bool := false
deriving DecidableEq, Repr

/-! ## Blocks -/

/-- What a block is (R121, R290, R383, R386). -/
inductive BlockKind where
  | kernel | stream | shadow | rerun
deriving DecidableEq, Repr

/-- A tile (R191, R193); `byEntry` says that a read of a matrix entry returned it (R375). -/
structure Tile where
  count : Nat := 0
  pend  : Nat := 0
  gen   : Nat := 0
  free  : Bool := true
  clock : DWord := 0
  byEntry : Bool := false
deriving DecidableEq, Repr

/-- An entry of the matrix queue (R206): what it does, the operands it captured, its progress, and the number by which warps wait while
it has no place. -/
structure MEntry where
  id     : Nat
  blk    : Nat
  op     : Nat
  type   : Nat := 0
  shape  : Nat := 0
  tile   : Nat := 0
  k      : Nat := 0
  ext    : Nat := 0
  a      : Nat := 0
  pitchA : Nat := 0
  halfA  : Nat := 0
  readA  : Option Nat := none
  b      : Nat := 0
  pitchB : Nat := 0
  halfB  : Nat := 0
  readB  : Option Nat := none
  tileLen : Nat := 0
  scalesA : List Byte := []
  scalesB : List Byte := []
  sb     : DWord := 0
  dst    : Nat := 0
  ranks  : List (Nat × Nat × Lanes) := []
  wins   : List (Nat × Nat) := []
  clock  : DWord := 0
  ticket : Nat := 0
  started : Bool := false
  chunk  : Nat := 0
  limit  : Option Nat := none
deriving DecidableEq, Repr

/-- Who waits for a tile (R197): a TALLOC, an itinerary copy, an ADRAIN. -/
inductive Allocator where
  | talloc (pool : Nat) (dst : Nat) (members : List (Nat × Nat))
  | copy (entry rep : Nat)
  | adrain (pool : Nat) (entry : MEntry)
deriving DecidableEq, Repr

/-- A request in a partition's waiter queue (R197), with its key in D-mode (R376). -/
structure Waiter where
  id     : Nat
  who    : Allocator
  reads  : Nat
  clock  : DWord
  index  : Nat
deriving DecidableEq, Repr

/-- A consuming read in flight (R194). -/
structure Read where
  id    : Nat
  tile  : Nat
  clock : DWord
deriving DecidableEq, Repr

/-- An itinerary copy in flight (R186): which granules have not landed, and the physical addresses of the 64 KiB chunks that it has
touched, and the addresses whose pages it waits for (R315). -/
structure Copy where
  id      : Nat
  entry   : Nat
  rep     : Nat
  base    : Nat
  left    : List Nat
  clock   : DWord
  chunks  : Map Nat := []
  mig     : List Addr54 := []
deriving DecidableEq, Repr

/-- An asynchronous fault that waits for delivery (R433): its record fields. -/
structure AsyncFault where
  code  : Nat
  info  : Nat := 0
  pc    : DWord := 0
  addr  : Option DWord := none
  space : Nat := 0
  body  : Option (List Byte) := none
  scope : Nat := 0
  width : Nat := 0
  lanes : Lanes := 0
  members : Nat := 0
deriving DecidableEq, Repr

/-- A resident block (R121 to R126, R184 to R204, R290, R380). `alloc` is the tile of an itinerary copy that waits at issue (R177);
`itin` are the entries that have been read, `itinWait` the page that reading the next one waits for (R315). -/
structure Block where
  grid    : Nat := 0
  bid     : Nat := 0
  ctx     : Nat := 0
  kind    : BlockKind := .kernel
  record  : Attach := 0
  width   : Nat := 0
  core    : Nat := 0
  wids    : List Nat := []
  pbase   : Nat := 0
  psize   : Nat := 0
  started : Bool := false
  stage   : Nat := 0
  stages  : List (Nat × DWord) := []
  itinOff : Bool := false
  itin    : List Nat := []
  itinWait : Option Addr54 := none
  last    : Option (Nat × Nat × Nat) := none
  waiting : Bool := false
  alloc   : Option (Nat × Nat) := none
  copies  : List Copy := []
  handles : List Word := []
  tiles   : Map Tile := []
  free    : Map (List Nat) := []
  waiters : Map (List Waiter) := []
  reads   : List Read := []
  acp     : List AcpCopy := []
  held    : List AsyncFault := []
  digest  : DWord := 0
  folded  : Nat := 0
  pos     : Nat := 0
  exitClk : DWord := 0
  ended   : Bool := false
  since   : Nat := 0
  order   : Nat := 0
  observed : DWord := 0
  expected : DWord := 0
  subject : Nat := 0
  halted  : Bool := false
  swap    : Bool := false
  victim  : Bool := false
  slice   : Bool := false
  stopno  : Nat := 0
  rerun   : Nat := 0
  rerunOf : Nat := 0
  lastWid : Nat := 0
deriving DecidableEq, Repr

/-! ## Cores -/

/-- The tag of a line of an L1 (R180 to R182): the 64-byte sectors held and the dirty ones, as masks; `ops` lists the words with
contributions gathered here and their operation, where the line is held update-only. -/
structure Line where
  have_ : Nat := 0
  dirty : Nat := 0
  ops   : List (Nat × Nat) := []
deriving DecidableEq, Repr

/-- A core (R172, R177, R183, R205, R313): its scratchpad, presence, marks, accumulators, matrix queue, caches' tags and L1 exact slots. -/
structure Core where
  spad     : Map Byte := []
  inflight : Map Nat := []
  grantime : Map DWord := []
  marks    : List Nat := []
  mbclock  : Map (DWord × DWord) := []
  acc      : Map Word := []
  mq       : List MEntry := []
  mwait    : List MEntry := []
  lastCtx  : Option Nat := none
  tlb      : List (Nat × Nat × Nat × Nat) := []
  icache   : Map (List Byte) := []
  l1       : Map Line := []
  exact    : List (Nat × ExactSum) := []
  counters : Map Word := []
  gone     : Map (Nat × DWord × List Byte) := []
  readmit  : List Nat := []
  throttled : Nat := 0
deriving DecidableEq, Repr

/-- A control core (R45, R297, R356). -/
structure Control where
  commands : Word := 0
  outcomes : List (Word × DWord × DWord) := []
deriving DecidableEq, Repr

/-- A home agent (R183, R266, R318). `spill` lists the words whose slot stands in its spill region, with the 64-byte entry that holds it. -/
structure Home where
  slots    : List (Nat × ExactSum) := []
  spill    : List (Nat × Nat) := []
  detector : Map (Nat × Nat × Bool) := []
  untracked : List Nat := []
deriving DecidableEq, Repr

/-- An ordered operation that has reached its performing point (R376): one lane of a MemOp. -/
structure Ordered where
  point : PerfPoint
  blk   : Nat
  bid   : Nat
  index : Nat
  clock : DWord
  op    : MemOp
  acc   : LaneAcc
deriving DecidableEq, Repr

/-! ## Contexts -/

/-- A format window slot (R317). -/
structure FmtWindow where
  ctx    : Nat
  entry  : Nat
  on     : Bool
  alias_ : Nat
  packed : Nat
  scales : Nat
  size   : Nat
  elem   : Nat
  scale  : Nat
deriving DecidableEq, Repr

/-- A write request to one sector of a format window (R318): physical sector, byte mask, the bytes. -/
structure AliasReq where
  window : Nat
  sector : Nat
  mask   : DWord
  data   : List Byte
deriving DecidableEq, Repr

/-- Room of a context's cloakroom that is reserved (R305): its offset, its size, and the block or the core that it is for. -/
structure Room where
  off  : Nat
  size : Nat
  core : Option Nat := none
  blk  : Nat := 0
deriving DecidableEq, Repr

/-- A block in the cloakroom (R305): the block under its key with its warps, its barrier marks and clocks and its matrix entries.
Registers, scratchpad and the records' fields stand in memory at `base`. -/
structure Image where
  key    : Nat
  block  : Block
  warps  : List (Nat × Warp)
  marks  : List Nat := []
  mbclock : Map (DWord × DWord) := []
  entries : List MEntry := []
  base   : Nat := 0
deriving DecidableEq, Repr

/-- A shadow run that this chip is to perform (R386): the block, the digests to compare with, the subject and since when it waits. -/
structure Shadow where
  grid     : Nat
  bid      : Nat
  observed : DWord
  expected : DWord
  subject  : Nat
  since    : Nat
deriving DecidableEq, Repr

/-- A debugger's claim (R403 to R412). -/
structure Claim where
  kind  : Nat
  ring  : DWord
  stops : Nat := 0
deriving DecidableEq, Repr

/-- A PC comparator (R406). -/
structure Comparator where
  pc    : Addr54
deriving DecidableEq, Repr

/-- A watchpoint (R408). -/
structure Watch where
  grid  : Nat
  bid   : Nat
  lo    : Nat
  len   : Nat
  rd    : Bool
  wr    : Bool
  at_   : Bool
deriving DecidableEq, Repr

/-- PC sampling of a context, or the time series of the chip (R417, R418): period exponent, 0 where off; the ring; the last tick. -/
structure Tracing where
  k     : Nat := 0
  ring  : DWord := 0
  lastTick : Nat := 0
deriving DecidableEq, Repr

/-- A context open on the chip (R298, R299). `hangWaits` is the count of a HANG trap that waits for its stream program, `hangHeld` a wait-for graph
that waits for a migrating page (R139, R315). -/
structure Ctx where
  gen     : Nat := 0
  usable  : Bool := false
  prio    : Nat := 0
  dmode   : Bool := false
  detect  : Bool := false
  slice   : Nat := 0
  suspended : Bool := false
  desc    : Nat := 0
  root    : Nat := 0
  faultBase : Nat := 0
  rring   : DWord := 0
  cloak   : Nat := 0
  cloaksz : Nat := 0
  hang    : Nat := 24
  diewin  : List (Nat × Nat) := []
  rooms   : List Room := []
  saved   : List Nat := []
  hangCount : Nat := 0
  hangFired : Bool := false
  hangWaits : Option Nat := none
  hangHeld : Option (Nat × List Byte × Option Addr54) := none
  claim   : Option Claim := none
  comps   : Map Comparator := []
  watches : Map Watch := []
  sampling : Tracing := {}
  stopping : List (Nat × List Nat) := []
  floors  : Map (Option DWord) := []
deriving DecidableEq, Repr

/-! ## The scheduler and the order service -/

/-- States of a chip row (R289). -/
inductive ChipSt where
  | gone | joining | member | fenced
deriving DecidableEq, Repr

/-- States of a grid row (R289). -/
inductive GridSt where
  | free | waiting | admitted | running | done | faulted
deriving DecidableEq, Repr

/-- States of a block row, in the order of R289 (R296). -/
inductive BlockSt where
  | free | pending | placed | running | parked | done | faulted | lost
deriving DecidableEq, Repr

/-- States of a context row (R289). -/
inductive CtxSt where
  | free | opened | closing
deriving DecidableEq, Repr

/-- A chip row (R289). -/
structure ChipRow where
  st   : ChipSt := .gone
  oseq : Nat := 0
deriving DecidableEq, Repr

/-- A context row (R289). -/
structure CtxRow where
  st    : CtxSt := .free
  prio  : Nat := 0
  dmode : Bool := false
  detect : Bool := false
  slice : Nat := 0
  suspended : Bool := false
  desc  : Nat := 0
deriving DecidableEq, Repr

/-- A grid row (R289). -/
structure GridRow where
  st     : GridSt := .free
  ctxRow : Nat := 0
  stamp  : Nat := 0
  origin : Nat := 0
  oseq   : Nat := 0
  stream : Bool := false
  record : Attach := 0
  arg    : DWord := 0
  next   : Nat := 0
  dones  : Nat := 0
  digest : DWord := 0
  tookIn : Bool := false
  tookOut : Bool := false
  cancelled : Bool := false
  ended  : Nat × Nat × Nat := (0, 0, 0)
deriving DecidableEq, Repr

/-- A block row (R289), found by grid row and block id. -/
structure BlockRow where
  grid  : Nat
  bid   : Nat
  st    : BlockSt := .pending
  chip  : Nat := 0
  off   : Nat := 0
  saved : Bool := false
  since : Nat := 0
deriving DecidableEq, Repr

/-- An edge (R289, R295). -/
structure Edge where
  cap   : Nat
  free  : Nat
  ready : Nat := 0
  claimed : Nat := 0
deriving DecidableEq, Repr

/-- An event as carried (R279, R280): a message and, for a grid SUBMIT or a roll-call message, what is attached. -/
structure Ev where
  msg : Msg
  att : Option Attach := none
deriving DecidableEq, Repr

/-- The tables of R289 with everything that the application of events decides. -/
structure Tables where
  chips  : Map ChipRow := []
  ctxs   : Map CtxRow := []
  gens   : Map Nat := []
  grids  : Map GridRow := []
  blocks : List BlockRow := []
  edges  : Map Edge := []
  off    : Map Nat := []
  sd     : DWord := 0
  position : Nat := 0
deriving DecidableEq, Repr

/-- What this chip knows of one member (R287, R389, R393). Once it is lost (R395), `asked` is when events of it were last
asked for, `answerer` the chip that is asked, and `endAt` the oseq behind the last event that the answerer has for it. -/
structure Peer where
  horizon : Nat := 0
  asked   : Option Nat := none
  answerer : Nat := 0
  endAt   : Option Nat := none
  lanterns : List Nat := []
  lastHeard : Nat := 0
  gapSince : Option (Nat × Nat) := none
  agree    : Option (Bool × Nat) := none
deriving DecidableEq, Repr

/-- A roll call that this chip has called (R394). -/
structure Call where
  r        : Nat
  at_      : Nat
  suspects : List Nat
  answers  : Map (List Nat) := []
  decided  : Bool := false
deriving DecidableEq, Repr

/-- A DECIDE that this chip has received (R394); its words stand for the suspects of its caller's CALL, which are noted with it as soon as that
CALL has come. -/
structure Decision where
  r      : Nat
  caller : Nat
  cut    : Nat
  digest : DWord
  words  : List Nat
  suspects : Option (List Nat) := none
deriving DecidableEq, Repr

/-- How far a rejoin has come (R397 to R400). -/
inductive JoinSt where
  | none | asked | replaying | readySent
deriving DecidableEq, Repr

/-- The order service and pod repair on this chip (R282 to R288, R388 to R400); `backlog` are the events that wait at their sources for room in
the origin queue: type, context, body and attachment; `sponsoring` are the joiners that it sponsors, with the events that have passed their
snapshot, none once READY has come (R399); `snapshots` are the snapshots that are being written: position, digest, bytes. -/
structure Hytur where
  tables   : Tables := {}
  nextOseq : Nat := 0
  minStamp : Nat := 0
  undelivered : List Ev := []
  tail     : List Ev := []
  history  : List (Nat × DWord) := []
  peers    : Map Peer := []
  delivered : Nat := 0
  fenced   : Bool := false
  fenceAt  : Nat := 0
  reason   : Nat := 0
  r        : Nat := 0
  suspects : Map Nat := []
  call     : Option Call := none
  decisions : List Decision := []
  confirmed : List Nat := []
  calls    : List (Nat × Nat × List Nat × Nat) := []
  answers  : List (Nat × Nat × Nat × List Nat) := []
  confirms : List (Nat × DWord × Nat) := []
  cuts     : Map Nat := []
  join     : JoinSt := .none
  sponsor  : Nat := 0
  tried    : List Nat := []
  joinAt   : Nat := 0
  replayed : Nat := 0
  sponsoring : Map (Option Nat) := []
  snapshots : Map (Nat × DWord × Nat) := []
  sponsorLast : Option Nat := none
  lastLantern : Nat := 0
  queued   : Nat := 0
  backlog  : List (Nat × Nat × Nat × Option Attach) := []
deriving DecidableEq, Repr

/-! ## The porter -/

/-- States of a porter queue (R323). -/
inductive QueueSt where
  | unbound | ready | error
deriving DecidableEq, Repr

/-- Commands of a porter queue (R325, R333); `send` is the answer of a well-known queue pair (R322). -/
inductive CmdKind where
  | send
  | put (tag : Option Word)
  | get
  | patom (cas : Bool) (operand swap : DWord)
  | pcount (q : Nat) (value : Word)
deriving DecidableEq, Repr

/-- A placed command (R342 to R350): what it moves, who placed it, the windows that its result goes to, and how many of its
packets have been sent and acknowledged; `chunk` is the local chunk that it is in the middle of, with its physical address (R315). -/
structure Cmd where
  id      : Nat
  kind    : CmdKind
  remote  : DWord := 0
  local_  : DWord := 0
  len     : Nat := 0
  cpl     : Bool := false
  cseq    : Nat := 0
  forward : Bool := false
  data    : List Byte := []
  blk     : Option Nat := none
  site    : Nat × Nat × Nat := (0, 0, 0)
  issuers : List Nat := []
  wins    : List (Nat × Nat) := []
  lane    : Option Nat := none
  dst     : Nat := 0
  sent    : Nat := 0
  acked   : Nat := 0
  got     : Nat := 0
  chunk   : Option (Nat × Nat) := none
  mig     : Option Addr54 := none
deriving DecidableEq, Repr

/-- A porter queue (R323 to R339): its binding, its commands, `times` the sending times of the packets that no ACK covers yet,
the requester's and the responder's state, and its pacing. -/
structure Queue where
  st      : QueueSt := .unbound
  inc     : Nat := 0
  slot    : Nat := 0
  gen     : Nat := 0
  port    : Nat := 0
  chip    : Nat := 0
  rqpn    : Nat := 0
  rkey    : Word := 0
  ring    : DWord := 0
  gid     : BitVec 128 := 0
  cmds    : List Cmd := []
  count   : Word := 0
  cseq    : Nat := 0
  posts   : Nat := 0
  spsn    : Nat := 0
  times   : List Nat := []
  retries : Nat := 0
  resend  : Option Nat := none
  epsn    : Nat := 0
  naked   : Option Nat := none
  ackDue  : Option Nat := none
  writing : Option Nat := none
  replay  : List (Nat × DWord) := []
  sending : List Byte := []
  unsent  : List (Nat × Packet) := []
  ce      : Nat := 0
  unboundAt : Option Nat := none
  rate    : Nat := 0
  alpha   : Nat := 0
  bucket  : Nat := 0
  filledAt : Nat := 0
  reacted : Option Nat := none
  periodAt : Nat := 0
deriving DecidableEq, Repr

/-- A posted request (R330). -/
structure Posted where
  queue   : Nat
  inc     : Nat
  tag     : Word
  number  : Nat
  blk     : Option Nat
  body    : Msg
  armed   : Bool
  fqInc   : Nat := 0
  site    : Nat × Nat × Nat := (0, 0, 0)
deriving DecidableEq, Repr

/-- A record that an engine producer has to put into a ring (R338): the queue that it belongs to, what it enables once it is
written (R331), the page that it waits for (R315), and the number of the packet that a posted arrival came in. -/
structure RingJob where
  id      : Nat
  ctx     : Nat
  header  : DWord
  record  : List Byte
  queue   : Option Nat := none
  inc     : Nat := 0
  blk     : Option Nat := none
  arrival : Bool := false
  psn     : Nat := 0
  enable  : Option (Nat × Nat) := none
  mig     : Option Addr54 := none
deriving DecidableEq, Repr

/-! ## The platform -/

/-- Bring-up states (R432). -/
inductive Boot where
  | rom | firmware | locking | joining | member
deriving DecidableEq, Repr

/-- The firmware configuration (R431). -/
structure FwConfig where
  chip      : Nat := 0
  podPrefix : DWord := 0
  portGid   : BitVec 128 := 0
  neighbours : List (Nat × Nat × Nat) := []
  hostGid   : BitVec 128 := 0
  hostQpns  : List Nat := [0, 0, 0]
  prio1     : Nat := 0
  prio2     : Nat := 0
  founding  : Bool := false
  inject    : Bool := false
deriving DecidableEq, Repr

/-- The pod clock (R277, R278). -/
structure Clock where
  time     : Nat := 0
  offset   : Int := 0
  good     : Nat := 0
  locked   : Bool := false
  lockedAt : Nat := 0
  since    : Nat := 0
  syncAt   : Map Nat := []
  announceAt : Map Nat := []
  masters  : Map PtpData := []
deriving DecidableEq, Repr

/-- PTP messages that the chip sends (R277). -/
inductive PtpOut where
  | announce (d : PtpData)
  | sync | followUp
  | pdelayReq | pdelayResp | pdelayRespFollowUp
  | delayReq
deriving DecidableEq, Repr

/-- What the chip sends to the outside. -/
inductive Out where
  | datagram (e : Ev)
  | lantern (m : Msg)
  | request (m : Msg)
  | message (m : Msg) (att : Option Attach) (dest : Option Nat)
  | packet (q : Nat) (op : Nat) (p : Packet)
  | ptp (port : Nat) (m : PtpOut)
  | scanOut (value : DWord)
  | smbus (value : Nat)
deriving DecidableEq, Repr

/-- The platform (R420 to R432); `key` is the number of the device identity key that firmware has generated, which the flash keeps (R429); `held` says that a
step of bring-up has failed, `waits` that the ROM waits for an image over port H, `loading` is what has come of it (R432). -/
structure Platform where
  boot     : Boot := .rom
  frozen   : Bool := false
  alertLow : Bool := false
  dumpAddr : BitVec 48 := 0
  jtagIr   : BitVec 8 := 0
  bypass   : Bool := false
  budget   : Nat := 3000
  nextBudget : Option Nat := none
  grants   : List (Nat × Nat) := []
  dieThrottled : Map Nat := []
  corrected : Map Word := []
  uncorrected : Map Word := []
  errors   : List Locus := []
  latent   : List Locus := []
  image    : List Byte := []
  fuses    : DWord := 0
  version  : Nat := 0
  signed   : Nat := 0
  key      : Option Nat := none
  held     : Bool := false
  waits    : Bool := false
  grantAt  : Option Nat := none
  loaded   : List Byte := []
  loading  : Map Byte := []
  config   : FwConfig := {}
deriving DecidableEq, Repr

/-! ## The machine -/

/-- Whose turn it is: a warp's next issue, an event, the passing of time, an error in a stored word, an instruction code of the test access port
(R423), a read through SMBus (R422, R428), a line that a snoop filter evicts (R180, R419), and a step of bring-up that passes or fails (R432). The agenda and the
free choices of `Config` say which turn comes; the specification does not order them (R136, R203). -/
inductive Turn where
  | issue (wid : Nat)
  | event (i : Instr)
  | tick (cycles ticks : Nat)
  | upset (loc : Locus) (corrected : Bool)
  | scanIr (code : BitVec 8)
  | smbusCounter (unit : Nat) (uncorrected : Bool)
  | smbusTemperature (die : Nat)
  | filterEvict (line : Nat)
  | bringUp (ok : Bool)
deriving DecidableEq, Repr

/-- The state of one chip. -/
structure State where
  /-- Cycles since reset (R11). -/
  cycle    : DWord
  /-- The pod clock (R277, R278). -/
  clock    : Clock
  /-- DRAM: listed bytes, rising by address (R308). -/
  mem      : List Host.Cell
  /-- Cores 0 to 127. -/
  cores    : Map Core
  /-- Control cores 0 to 31 (R45, R297, R356). -/
  controls : Map Control
  /-- Die scratchpads, one after the other (R176). -/
  dieSpad  : Map Byte
  /-- Counter i of die d at 64 d + i (R419). -/
  dieCounters : Map Word
  /-- L2 tags by line (R180): the sectors held and the dirty ones. -/
  l2       : Map (Nat × Nat)
  /-- Home agents 0 to 15 (R183, R266). -/
  homes    : Map Home
  /-- Requests to format windows, oldest first (R318). -/
  aliasQ   : List AliasReq
  /-- Decoded sectors of format windows in the caches (R318). -/
  sectors  : List (Nat × Nat)
  /-- Resident warps by %wid (R16). -/
  warps    : Map Warp
  /-- Blocks on the chip by key. -/
  blocks   : Map Block
  /-- Block images in the cloakroom (R305). -/
  images   : List Image
  /-- Shadow runs that wait (R386). -/
  shadows  : List Shadow
  /-- Blocks, as grid row and id, whose end event this chip has ordered (R291). -/
  spent    : List (Nat × Nat)
  /-- Contexts by slot (R298, R299). -/
  ctxs     : Map Ctx
  /-- Digest masks by slot (R401). -/
  inject   : Map DWord
  /-- Format windows by slot (R317). -/
  windows  : Map FmtWindow
  /-- Ordered operations that are not performed (R376). -/
  ordered  : List Ordered
  /-- Clocks of release stores to ring words, by physical address / 8 (R374). -/
  ringClock : Map DWord
  /-- D-mode positions by grid, core and place: how many blocks have held it, and the clock at which its next one starts (R370, R371). -/
  positions : Map (Nat × DWord)
  /-- Waits on bytes whose owner has ended: warp, group, address (R175, R246). -/
  late     : List (Nat × Park × Nat)
  /-- The order service and the scheduler tables (R282 to R296). -/
  hytur    : Hytur
  /-- Porter queues 0 to 255 (R323); the well-known queue pairs of port H from 256 on (R322); queue pair 0x20 towards chip c at 512 + c (R399). -/
  queues   : Map Queue
  /-- The queue that each port served last (R339). -/
  served   : Map Nat
  /-- Posted requests (R330). -/
  posted   : List Posted
  /-- Engine ring records that wait for a claim (R338, R434). -/
  jobs     : List RingJob
  /-- Porter control commands that wait (R323). -/
  binds    : List Msg
  /-- The time series (R418). -/
  series   : Tracing
  /-- Management commands that wait (R316, R322). -/
  manage   : List Msg
  /-- Host submissions that wait for room in the origin queue (R282, R284). -/
  submits  : List Msg
  /-- The pod time of the last choice of blocks to save for a waiter, and the waiters, with their cores, that room is being made for (R302). -/
  sliceAt  : Nat
  slicing  : List (Nat × Nat × Nat)
  /-- Pins, test port, power, errors, boot (R420 to R432). -/
  platform : Platform
  /-- The model's own (assumption 1): turns given from outside. -/
  agenda   : List Turn
  /-- The model's own: the warp whose issue runs. -/
  cur      : Option Nat
  /-- The model's own: the number of the next free value. -/
  fresh    : Nat
  /-- The model's own: issues so far, the order of R136. -/
  issues   : Nat
  /-- The model's own: what the chip has sent. -/
  outbox   : List Out
deriving DecidableEq, Repr

/-- The state right after reset: nothing resident, no context, no memory listed, the chip in ROM (R432); every register
that the specification gives no reset value at the value that assumptions 1 to 4 name. -/
def State.reset : State where
  cycle := 0
  clock := {}
  mem := []
  cores := []
  controls := []
  dieSpad := []
  dieCounters := []
  l2 := []
  homes := []
  aliasQ := []
  sectors := []
  warps := []
  blocks := []
  images := []
  shadows := []
  spent := []
  ctxs := []
  inject := []
  windows := []
  ordered := []
  ringClock := []
  positions := []
  late := []
  hytur := {}
  queues := []
  served := []
  posted := []
  jobs := []
  binds := []
  series := {}
  manage := []
  submits := []
  sliceAt := 0
  slicing := []
  platform := {}
  agenda := []
  cur := none
  fresh := 0
  issues := 0
  outbox := []

end Sys2Proof.Machine
end

