-- ==== Sys2Proof/Machine/Memory.lean ====
section
/-!
DEFINITION. Memory: physical DRAM, scratchpads, exact-sum slots, format windows and translation (R169 to R183, R308 to
R319). Every access of the model is performed whole, at its own step, coherently (R181).
-/

namespace Sys2Proof.Machine

/-! ## Accessors -/

/-- The state with a fresh number taken: the number and the state. -/
def State.draw (s : State) : Nat × State := (s.fresh, { s with fresh := s.fresh + 1 })

/-- A core; an untouched one where none is listed. Control core c stands at 128 + c. -/
def State.core (s : State) (c : Nat) : Core := s.cores.get {} c

/-- The state with a core changed. -/
def State.setCore (s : State) (c : Nat) (x : Core) : State := { s with cores := s.cores.set c x }

/-- The state with a core changed by a function. -/
def State.updCore (s : State) (c : Nat) (f : Core → Core) : State := s.setCore c (f (s.core c))

/-- A home agent. -/
def State.home (s : State) (h : Nat) : Home := s.homes.get {} h

/-- The state with a home agent changed. -/
def State.updHome (s : State) (h : Nat) (f : Home → Home) : State := { s with homes := s.homes.set h (f (s.home h)) }

/-- Adds 1 to a counter of a core, saturating (R418). -/
def State.countCore (s : State) (c i : Nat) : State :=
  s.updCore c fun k =>
    let v := k.counters.get 0 i
    { k with counters := k.counters.put 0 i (if v.toNat = 2 ^ 32 - 1 then v else v + 1) }

/-- Adds to a counter of a core, saturating (R418). -/
def State.addCore (s : State) (c i n : Nat) : State :=
  s.updCore c fun k => { k with counters := k.counters.put 0 i (BitVec.ofNat 32 (min (2 ^ 32 - 1) ((k.counters.get 0 i).toNat + n))) }

/-- %wid's core number as %core reads it: 128 + control core on a control core (R45). -/
def coreOf (wid : Nat) : Nat := if wid < 4096 then wid / 32 else 128 + (wid - 4096) / 16

/-- The die of a core or a control core (R1, R45). -/
def dieOf (core : Nat) : Nat := if core < 128 then core / 32 else (core - 128) / 8

/-- Adds 1 to a counter of a die, saturating (R418); die d's counter i stands at 64 d + i. -/
def State.countDie (s : State) (d i : Nat) : State :=
  let v := s.dieCounters.get 0 (64 * d + i)
  { s with dieCounters := s.dieCounters.put 0 (64 * d + i) (if v.toNat = 2 ^ 32 - 1 then v else v + 1) }

/-- Adds to a counter of a die, saturating (R418). -/
def State.addDie (s : State) (d i n : Nat) : State :=
  { s with dieCounters := s.dieCounters.put 0 (64 * d + i) (BitVec.ofNat 32 (min (2 ^ 32 - 1) ((s.dieCounters.get 0 (64 * d + i)).toNat + n))) }

/-- The chip number, 0 to 1,023 (R431). -/
def State.chip (s : State) : Nat := s.platform.config.chip % 1024

/-! ## DRAM -/

/-- The home agent of a physical address (R180). -/
def homeOf (pa : Nat) : Nat := Nat.xor (Nat.xor (pa / 2 ^ 12) (pa / 2 ^ 16)) (pa / 2 ^ 20) % 16

/-- What an unlisted byte of memory reads as (assumption 2). -/
def memDefault : Byte := 0

/-- Whether memory is in its canonical form: addresses strictly rising, nothing listed that reads as unlisted. -/
def Memory.wf (m : List Host.Cell) : Bool := Map.rising none m && m.all fun e => e.2 != memDefault

/-- One byte of DRAM. -/
def State.readByte (s : State) (pa : Nat) : Byte := Map.get memDefault s.mem pa

/-- n bytes of DRAM. -/
def State.readBytes (s : State) (pa : Nat) : Nat → List Byte
  | 0 => []
  | n + 1 => s.readByte pa :: State.readBytes s (pa + 1) n

/-- n bytes of DRAM as a little-endian number. -/
def State.readNum (s : State) (pa n : Nat) : Nat := numOf (s.readBytes pa n)

/-- Memory with bytes written from an address on. -/
def writeMem (m : List Host.Cell) (pa : Nat) : List Byte → List Host.Cell
  | [] => m
  | b :: r => writeMem (Map.put memDefault m pa b) (pa + 1) r

/-- Whether a written range replaces the whole of what an error marks (R427): a sector, or a 64-bit word of a cached copy. -/
def replaced (pa n : Nat) : Locus → Bool
  | .dram x => pa ≤ 64 * x && 64 * x + 64 ≤ pa + n
  | .l1 _ w => pa ≤ 8 * w && 8 * w + 8 ≤ pa + n
  | .l2 w => pa ≤ 8 * w && 8 * w + 8 ≤ pa + n
  | _ => false

/-- The state with the errors of stored words mapped, uncorrectable and correctable ones (R426). -/
def State.mapErrors (s : State) (f : Locus → Option Locus) : State :=
  if s.platform.errors.isEmpty && s.platform.latent.isEmpty then s
  else { s with platform := { s.platform with errors := (s.platform.errors.filterMap f).eraseDups, latent := (s.platform.latent.filterMap f).eraseDups } }

/-- What a write replaces is good again (R427). -/
def State.clearErrors (s : State) (p : Locus → Bool) : State := s.mapErrors fun l => if p l then none else some l

/-- The unit that counts the errors of a place: cores 0 to 127, control cores behind them, home agents from 160 on, dies from 176 on,
the scheduler engine 180. -/
def unitOf : Locus → Nat
  | .dram x => 160 + homeOf (64 * x)
  | .spad c _ | .acc c _ | .l1 c _ => c
  | .die w => 176 + w / 2 ^ 22
  | .vreg w _ _ | .sreg w _ | .kreg w _ => coreOf w
  | .l2 w => 176 + homeOf (8 * w) / 4
  | .sched => 180
  | .sram u _ => u

/-- A saturating 32-bit counter of a map, one higher (R428). -/
def bump (m : Map Word) (k : Nat) : Map Word :=
  let v := m.get 0 k
  if v = BitVec.allOnes 32 then m else m.put 0 k (v + 1)

/-- A read meets correctable errors (R426): they are corrected, and each counts for its unit. -/
def State.correct (s : State) (p : Locus → Bool) : State :=
  if s.platform.latent.isEmpty then s
  else { s with platform := { s.platform with
    corrected := (s.platform.latent.filter p).foldl (fun m l => bump m (unitOf l)) s.platform.corrected
    latent := s.platform.latent.filter fun l => !p l } }

/-- DRAM with bytes written; a whole sector written clears its error (R427). -/
def State.writeBytes (s : State) (pa : Nat) (bs : List Byte) : State :=
  { s with mem := writeMem s.mem pa bs }.clearErrors (replaced pa bs.length)

/-- The top of ordinary DRAM (R308). -/
def dramTop : Nat := 0xBE00000000

/-- The alias aperture (R308). -/
def apertureLo : Nat := 2 ^ 46

/-- The end of the alias aperture (R308). -/
def apertureHi : Nat := 2 ^ 47

/-- Whether an address lies in the alias aperture. -/
def inAperture (pa : Nat) : Bool := apertureLo ≤ pa && pa < apertureHi

/-! ## Exact sums (R79, R182, R183) -/

/-- The address of entry i of a home agent's spill region (R183, R308): 256 MiB of its stack in firmware-reserved DRAM, in the pages whose
home agent it is (where they lie is open: assumption 72). -/
def spillAddr (h i : Nat) : Nat :=
  let j := 0xBE0000 + i / 64
  4096 * (16 * j + Nat.xor (Nat.xor h j) (j / 16) % 16) + 64 * (i % 64)

/-- The slot of a word, held at its home agent or spilled to its region of DRAM (R183). -/
def State.slotOf (s : State) (w : Nat) : Option ExactSum :=
  match (s.home (homeOf w)).slots.lookup w with
  | some x => some x
  | none => ((s.home (homeOf w)).spill.lookup w).map fun i => ExactSum.ofBytes (s.readBytes (spillAddr (homeOf w) i) 64)

/-- A home agent without the slot of a word. -/
def Home.free (h : Home) (w : Nat) : Home :=
  { h with slots := h.slots.filter fun e => e.1 != w, spill := h.spill.filter fun e => e.1 != w }

/-- Whether a contribution to a word can be taken: it has a slot, or one can be made (R183). -/
def Home.canTake (h : Home) (w : Nat) : Bool :=
  h.slots.any (fun e => e.1 = w) || h.spill.any (fun e => e.1 = w) || h.slots.length < 1024 || h.spill.length < 2 ^ 22

/-- The lowest free entry of a spill region. -/
def Home.freeEntry (h : Home) : Nat :=
  ((List.range (h.spill.length + 1)).find? fun i => h.spill.all fun e => e.2 != i).getD 0

/-- A word's slot put first at its home agent; where 1,024 are held, the least recently used one is spilled exactly, as 64 bytes (R183). -/
def State.putSlot (s : State) (w : Nat) (x : ExactSum) : State :=
  let a := homeOf w
  let s := s.updHome a fun h => h.free w
  let h := s.home a
  match (if h.slots.length < 1024 then none else h.slots.getLast?) with
  | none => s.updHome a fun h => { h with slots := (w, x) :: h.slots }
  | some (v, y) =>
    let s := (s.writeBytes (spillAddr a h.freeEntry) (y.bytes v)).countDie (a / 4) (8 + a % 4)
    s.updHome a fun h => { h with slots := (w, x) :: h.slots.dropLast, spill := (v, h.freeEntry) :: h.spill }

/-- A partial sum of a word joins the word's slot at its home agent (R79, R183): a new slot starts from the word's value. -/
def State.mergeHome (s : State) (w : Nat) (x : ExactSum) : State :=
  s.putSlot w (((s.slotOf w).getD (ExactSum.empty.add (decodeVal .fp32 (s.readNum w 4)))).merge x)

/-- A contribution that a core's L1 holds for a word joins the word's slot at its home agent, which stays exact; it waits in the L1 while
neither a slot nor an entry is free there (R183). -/
def State.gatherWord (s : State) (core w : Nat) : State :=
  match (s.core core).exact.lookup w with
  | none => s
  | some x =>
    if (s.home (homeOf w)).canTake w then (s.updCore core fun c => { c with exact := c.exact.filter fun e => e.1 != w }).mergeHome w x else s

/-- The contributions that a core's L1 holds for the words of a line. -/
def State.gatherCore (s : State) (core line : Nat) : State :=
  (((s.core core).exact.map (·.1)).filter fun w => w / 128 = line).foldl (fun (s : State) w => s.gatherWord core w) s

/-- Whether any L1 holds contributions of a line (R182). -/
def State.gathering (s : State) (line : Nat) : Bool :=
  s.cores.any fun (e : Nat × Core) => e.2.exact.any (fun x => x.1 / 128 = line) || (e.2.l1.find line).any fun (x : Line) => !x.ops.isEmpty

/-- The home agent combines every update-only copy of a line (R182): the copies go, and their exact contributions stand in its slots. -/
def State.combineLine (s : State) (line : Nat) : State :=
  if !s.gathering line then s
  else
    let s := s.cores.foldl (fun (s : State) (e : Nat × Core) => s.gatherCore e.1 line) s
    let s := { s with cores := s.cores.map fun (e : Nat × Core) => if (e.2.l1.find line).any (fun (x : Line) => !x.ops.isEmpty) then (e.1, { e.2 with l1 := e.2.l1.del line }) else e }
    s.countDie (homeOf (line * 128) / 4) 3

/-- Combines the n lines from a line on. -/
def State.combineLines (s : State) (line : Nat) : Nat → State
  | 0 => s
  | n + 1 => State.combineLines (s.combineLine line) (line + 1) n

/-- What the L1s hold of a word's sum. -/
def State.exactParts (s : State) (w : Nat) : List ExactSum := s.cores.filterMap fun (e : Nat × Core) => e.2.exact.lookup w

/-- Rounds and frees the slot of one word, before the word is read or written (R183): its home agent's, with what the L1s still hold. -/
def State.settleWord (s : State) (w : Nat) : State :=
  let parts := s.exactParts w
  if parts.isEmpty && (s.slotOf w).isNone then s
  else
    let x := parts.foldl ExactSum.merge ((s.slotOf w).getD (ExactSum.empty.add (decodeVal .fp32 (s.readNum w 4))))
    let s := if parts.isEmpty then s else { s with cores := s.cores.map fun (e : Nat × Core) => (e.1, { e.2 with exact := e.2.exact.filter fun y => y.1 != w }) }
    (s.writeBytes w (bytesOf 4 x.read.toNat)).updHome (homeOf w) fun h => h.free w

/-- Rounds the slots of the words from w on. -/
def State.settleWords (s : State) (w : Nat) : Nat → State
  | 0 => s
  | n + 1 => State.settleWords (s.settleWord w) (w + 4) n

/-- An access of n bytes from pa on reaches its lines (R182, R183): their update-only copies are combined, and the slots of every word
that it includes are rounded. -/
def State.settle (s : State) (pa n : Nat) : State :=
  if n = 0 then s
  else (s.combineLines (pa / 128) ((pa + n - 1) / 128 - pa / 128 + 1)).settleWords (pa / 4 * 4) ((pa % 4 + n + 3) / 4)

/-! ## Format windows (R317 to R319) -/

/-- The window slot that holds a physical address of the aperture, of any context. -/
def State.windowAt (s : State) (pa : Nat) : Option (Nat × FmtWindow) :=
  s.windows.find? fun e => e.2.alias_ ≤ pa && pa < e.2.alias_ + e.2.size * 65536

/-- Bytes of one packed block (R62). -/
def blockBytes (elem : Nat) : Nat := if elem = 5 || elem = 6 then 24 else if elem = 7 || elem = 10 then 16 else 32

/-- The element format of a window or PACK code, where 8 is MXINT8 (R105, R317). -/
def elemFmt (code : Nat) : Fmt :=
  match code with
  | 3 => .e4m3 | 4 => .e5m2 | 5 => .e3m2 | 6 => .e2m3 | 7 => .e2m1 | 8 => .mxi8 | _ => .i4x

/-- The scale format of a window (R317). -/
def scaleFmt (code : Nat) : Fmt := if code = 12 then .sf8 else .e8m0

/-- A value as BF16 for an alias sector: a NaN is 0x7FC0 with its sign (R318). -/
def aliasCode (v : Val) : Nat :=
  match v with
  | .nan neg _ => if neg then 0xFFC0 else 0x7FC0
  | _ => encodeVal .bf16 .rn false 0 v

/-- The 32 values of block n of a window. -/
def State.windowVals (s : State) (w : FmtWindow) (n : Nat) : List Val :=
  decodeBlock (elemFmt w.elem) (scaleFmt w.scale) (s.readNum (w.packed + n * blockBytes w.elem) (blockBytes w.elem))
    (s.readNum (w.scales + n) 1)

/-- The 64 bytes of alias sector n (R318). -/
def State.sectorBytes (s : State) (w : FmtWindow) (n : Nat) : List Byte :=
  (s.windowVals w n).flatMap fun v => bytesOf 2 (aliasCode v)

/-- Bytes with those of a mask replaced. -/
def mergeMask (mask : DWord) : Nat → List Byte → List Byte → List Byte
  | i, o :: r, n :: q => (if inSet mask i then n else o) :: mergeMask mask (i + 1) r q
  | _, o, _ => o

/-- The BF16 values of 64 bytes. -/
def bf16Vals : List Byte → List Val
  | a :: b :: r => decodeVal .bf16 (a.toNat + 256 * b.toNat) :: bf16Vals r
  | _ => []

/-- The packed code string and scale of 32 values, by R65, or as IXENC with budget 3 for I4X (R318). -/
def encodeWindow (elem scale : Nat) (xs : List Val) : Nat × Nat :=
  if elem = 10 then
    let (sc, codes) := encodeI4x (scaleFmt scale) 3 xs
    (packCodes 4 codes, sc)
  else
    let (sc, codes) := encodeBlock (elemFmt elem) (scaleFmt scale) xs
    (packCodes (elemFmt elem).bits codes, sc)

/-- Rounds the exact slots behind alias sector n: its packed block and its scale byte are one location with it (R253, R262). -/
def State.settleBehind (s : State) (w : FmtWindow) (n : Nat) : State :=
  (s.settle (w.packed + n * blockBytes w.elem) (blockBytes w.elem)).settle (w.scales + n) 1

/-- A mask without bit i. -/
def clearBit (m i : Nat) : Nat := if m / 2 ^ i % 2 = 1 then m - 2 ^ i else m

/-- Whether an error is in a cached copy of a sector. -/
def Locus.inCopy (pa : Nat) : Locus → Bool
  | .l1 _ w | .l2 w => w / 8 = pa / 64
  | _ => false

/-- Every cached copy of the sector at a physical address goes (R318). -/
def State.dropSector (s : State) (pa : Nat) : State :=
  { s with
    cores := s.cores.map fun (e : Nat × Core) => (e.1, { e.2 with l1 := e.2.l1.modify (pa / 128) fun (x : Line) => { x with have_ := clearBit x.have_ (pa / 64 % 2) } })
    l2 := s.l2.modify (pa / 128) fun (x : Nat × Nat) => (clearBit x.1 (pa / 64 % 2), x.2) }.clearErrors (Locus.inCopy pa)

/-- Performs one alias write request at its home agent (R318); a request to a window that is off is dropped. -/
def State.performAlias (s : State) (r : AliasReq) : State :=
  match s.windows.find r.window with
  | none => s
  | some w =>
    if !w.on then s
    else
      let s := s.settleBehind w r.sector
      let old := if r.mask = BitVec.allOnes 64 then r.data else mergeMask r.mask 0 (s.sectorBytes w r.sector) r.data
      let (str, sc) := encodeWindow w.elem w.scale (bf16Vals old)
      let s := s.writeBytes (w.packed + r.sector * blockBytes w.elem) (bytesOf (blockBytes w.elem) str)
      let s := s.writeBytes (w.scales + r.sector) (bytesOf 1 sc)
      ({ s with sectors := s.sectors.filter fun e => e != (r.window, r.sector) } : State).dropSector (w.alias_ + 64 * r.sector)

/-- Performs every request of a list, in order. -/
def State.performAliases (s : State) : List AliasReq → State
  | [] => s
  | r :: q => State.performAliases (s.performAlias r) q

/-- Performs every alias request that waits (R318). A read that follows them in coherence order sees them (R255). -/
def State.drainAlias (s : State) : State := ({ s with aliasQ := [] }).performAliases s.aliasQ

/-- Performs the alias requests that wait, where there are any. -/
def State.aliasDone (s : State) : State := if s.aliasQ.isEmpty then s else s.drainAlias

/-- An exact contribution from a core's L1 (R79, R183): into one of its 32 slots, or, without a free one, to the home agent. -/
def State.contribute (s : State) (core w : Nat) (b : Word) : State :=
  let s := s.aliasDone
  let c := s.core core
  let v := decodeVal .fp32 b.toNat
  if c.exact.any (fun e => e.1 = w) then
    s.updCore core fun c => { c with exact := c.exact.map fun e => if e.1 = w then (w, e.2.add v) else e }
  else if c.exact.length < 32 then s.updCore core fun c => { c with exact := (w, ExactSum.empty.add v) :: c.exact }
  else (s.countCore core 43).mergeHome w (ExactSum.empty.add v)

/-- The DRAM sectors behind n bytes at a physical address (R318), spilled slots of their words among them (R183). -/
def State.sectorsBehind (s : State) (pa n : Nat) : List Nat :=
  if inAperture pa then
    match s.windowAt pa with
    | some (_, w) =>
      let n := (pa - w.alias_) / 64
      let p := w.packed + n * blockBytes w.elem
      [p / 64, (p + blockBytes w.elem - 1) / 64, (w.scales + n) / 64]
    | none => []
  else pa / 64 :: ((s.home (homeOf pa)).spill.filter fun e => pa < e.1 + 4 && e.1 < pa + n).map fun e => spillAddr (homeOf pa) e.2 / 64

/-- Whether a core's L1 holds the sector of a 64-bit word, and holds it dirty. -/
def State.l1Has (s : State) (core w : Nat) : Bool × Bool :=
  match (s.core core).l1.find (w / 16) with
  | some x => (decide (x.have_ / 2 ^ (w / 8 % 2) % 2 = 1), decide (x.dirty / 2 ^ (w / 8 % 2) % 2 = 1))
  | none => (false, false)

/-- Whether the L2 holds the sector of a 64-bit word. -/
def State.l2Has (s : State) (w : Nat) : Bool := (s.l2.get (0, 0) (w / 16)).1 / 2 ^ (w / 8 % 2) % 2 = 1

/-- Whether a read of n bytes of global memory, by a core or by an engine, meets an error (R426, R427): in the sectors behind it, in the
reader's own L1 where that holds the sector, else in another L1's dirty copy or in the L2's. -/
def State.glbMeets (s : State) (core : Option Nat) (pa n : Nat) (x : Locus) : Bool :=
  let own := fun (w : Nat) => core.any fun c => (s.l1Has c w).1
  let within := fun (w : Nat) => pa / 8 ≤ w && w ≤ (pa + n - 1) / 8
  match x with
  | .dram k => (s.sectorsBehind pa n).contains k
  | .l1 c w => within w && (s.l1Has c w).1 && (core = some c || (!own w && (s.l1Has c w).2))
  | .l2 w => within w && s.l2Has w && !own w
  | _ => false

/-- n bytes of global memory at a physical address, as a load sees them: slots rounded, alias requests performed, an
alias sector decoded, an alias whose window is off as zeros (R182, R318, R319). -/
def State.loadGlb (s : State) (pa n : Nat) : List Byte × State :=
  let s := s.aliasDone.correct (s.glbMeets none pa n)
  if inAperture pa then
    match s.windowAt pa with
    | some (i, w) =>
      if w.on then
        let sec := (pa - w.alias_) / 64
        let s := s.settleBehind w sec
        (((s.sectorBytes w sec).drop (pa % 64)).take n,
          if s.sectors.contains (i, sec) then s else { s with sectors := (i, sec) :: s.sectors })
      else (bytesOf n 0, s)
    | none => (bytesOf n 0, s)
  else
    let s := s.settle pa n
    (s.readBytes pa n, s)

/-- A store of bytes to global memory: the slots of its words are closed, an alias takes a request (R182, R318). A direct store comes
after the alias writes that wait: it may lie in their packed bytes (R263, R319). -/
def State.storeGlb (s : State) (pa : Nat) (bs : List Byte) : State :=
  if inAperture pa then
    match s.windowAt pa with
    | some (i, w) =>
      if w.on then
        let o := pa % 64
        let mask := BitVec.ofNat 64 ((2 ^ bs.length - 1) * 2 ^ o)
        let data := bytesOf o 0 ++ bs ++ bytesOf (64 - o - bs.length) 0
        { s with aliasQ := s.aliasQ ++ [{ window := i, sector := (pa - w.alias_) / 64, mask := mask, data := data }] }
      else s
    | none => s
  else
    let s := (s.aliasDone.settle pa bs.length).writeBytes pa bs
    { s with ringClock := s.ringClock.clear (pa / 8) ((pa + bs.length + 7) / 8) }

/-- An update-only contribution to a word (R182): it is taken up where the line is held, so no copy is combined for it; only a slot of the
word itself is rounded first. The value stands as if every contribution were combined at once: no access sees a partial one. -/
def State.updateWord (s : State) (pa : Nat) (f : Word → Word) : State :=
  let s := s.aliasDone.settleWord pa
  let s := s.writeBytes pa (bytesOf 4 (f (BitVec.ofNat 32 (s.readNum pa 4))).toNat)
  { s with ringClock := s.ringClock.clear (pa / 8) ((pa + 11) / 8) }

/-! ## Translation (R311 to R315) -/

/-- What an access needs of a leaf (R312). -/
inductive Access where
  | read | write | atom | fetch
deriving DecidableEq, Repr

/-- The outcome of a translation (R312, R315). -/
inductive Trans where
  | ok (pa : Nat) | pageFault | permission | migrating
deriving DecidableEq, Repr

/-- The window slots of a context. -/
def State.windowsOf (s : State) (ctx : Nat) : List FmtWindow := (s.windows.filter fun e => e.2.ctx = ctx).map (·.2)

/-- Whether a page lies wholly in ordinary DRAM, or in the aperture under one window of the context (R312). -/
def State.pageOk (s : State) (ctx frame bits : Nat) : Bool :=
  frame + 2 ^ bits ≤ dramTop ||
    (s.windowsOf ctx).any fun w => w.alias_ ≤ frame && frame + 2 ^ bits ≤ w.alias_ + w.size * 65536

/-- Page-size bits of a leaf at a level (R311). -/
def pageBits (level : Nat) : Nat := if level = 1 then 42 else if level = 2 then 29 else 16

/-- The index of an address at a level (R311). -/
def levelIndex (level va : Nat) : Nat :=
  if level = 1 then va / 2 ^ 42 % 2 ^ 12 else if level = 2 then va / 2 ^ 29 % 2 ^ 13 else va / 2 ^ 16 % 2 ^ 13

/-- What a walk of the tables finds (R312): a leaf entry with its level, or a page fault. -/
def State.walk (s : State) (ctx va : Nat) : Nat → Nat → Nat → Option (Nat × Nat)
  | 0, _, _ => none
  | fuel + 1, level, table =>
    if dramTop < table + 65536 then none
    else
      let e := s.readNum (table + 8 * levelIndex level va) 8
      let frame := e / 2 ^ 16 % 2 ^ 32 * 65536
      if e % 2 = 0 || e / 2 ^ 48 != 0 || e / 2 ^ 6 % 2 ^ 10 != 0 then none
      else if e / 2 % 2 = 0 then
        if level = 3 || e / 32 % 2 = 1 then none else State.walk s ctx va fuel (level + 1) frame
      else if frame % 2 ^ pageBits level != 0 || !s.pageOk ctx frame (pageBits level) then none
      else some (e, level)

/-- A leaf's rights against an access (R312). -/
def rightsOk (e : Nat) : Access → Bool
  | .read => e / 4 % 2 = 1
  | .write => e / 8 % 2 = 1
  | .atom => e / 4 % 2 = 1 && e / 8 % 2 = 1
  | .fetch => e / 16 % 2 = 1

/-- The outcome of an access through a leaf. -/
def useLeaf (e level va : Nat) (acc : Access) : Trans :=
  let pa := e / 2 ^ 16 % 2 ^ 32 * 65536 + va % 2 ^ pageBits level
  if e / 32 % 2 = 1 then .migrating
  else if !rightsOk e acc then .permission
  else if acc = .fetch && inAperture pa then .permission
  else .ok pa

/-- The TLB entry of a core that maps an address (R313). -/
def State.tlbHit (s : State) (core ctx va : Nat) : Option (Nat × Nat) :=
  ((s.core core).tlb.find? fun t => t.1 = ctx && t.2.1 = va / 2 ^ pageBits t.2.2.1 && t.2.2.1 != 0).map fun t => (t.2.2.2, t.2.2.1)

/-- The root of a context's tables. -/
def State.rootOf (s : State) (ctx : Nat) : Nat := (s.ctxs.get {} ctx).root

/-- A walk of a context's tables for bits [53:0] of an address. -/
def State.walkCtx (s : State) (ctx va : Nat) : Option (Nat × Nat) := s.walk ctx va 3 1 (s.rootOf ctx)

/-- The translation of an address for a core, through its TLB (R311 to R313). -/
def State.translate (s : State) (core ctx va : Nat) (acc : Access) : Trans :=
  match s.tlbHit core ctx va with
  | some (e, level) => useLeaf e level va acc
  | none => match s.walkCtx ctx va with
    | none => .pageFault
    | some (e, level) => useLeaf e level va acc

/-- What stands for the chip's own physical addresses where a context's slot would stand (R418). -/
abbrev physical : Nat := 64

/-- A translation without a TLB: an engine's chunk (R315). -/
def State.translateEngine (s : State) (ctx va : Nat) (acc : Access) : Trans :=
  if ctx = physical then (if va < dramTop then .ok va else .pageFault)
  else match s.walkCtx ctx va with
    | none => .pageFault
    | some (e, level) => useLeaf e level va acc

/-- The TLB of a core after an access: a leaf that was walked enters, the oldest of 2,048 leaves (R313). A hit and a miss are counted (R419). -/
def State.tlbFill (s : State) (core ctx va : Nat) : State :=
  match s.tlbHit core ctx va with
  | some _ => s.countCore core 44
  | none => match s.walkCtx ctx va with
    | none => s
    | some (e, level) =>
      let s := (s.countCore core 45).countDie (dieOf core) 13
      if e / 32 % 2 = 1 then s
      else s.updCore core fun c => { c with tlb := (c.tlb ++ [(ctx, va / 2 ^ pageBits level, level, e)]).drop (c.tlb.length - 2047) }

/-- Bytes [53:0] of a context's space as the device's own reader sees them (records, tables, descriptors of launch):
none where translation fails. -/
def State.readVirt (s : State) (ctx va n : Nat) : Option (List Byte) × State :=
  match n with
  | 0 => (some [], s)
  | n + 1 =>
    match s.translateEngine ctx va .read with
    | .ok pa =>
      let (b, s) := s.loadGlb pa 1
      let (r, s) := State.readVirt s ctx ((va + 1) % 2 ^ 54) n
      (r.map (b ++ ·), s)
    | _ => (none, s)

/-- Bytes of a context's space as runs of physical memory, each within one sector (R318): none where a byte cannot be written. -/
def State.virtRuns (s : State) (ctx va : Nat) : List Byte → Option (List (Nat × List Byte))
  | [] => some []
  | b :: r =>
    match s.translateEngine ctx va .write with
    | .ok pa => (State.virtRuns s ctx ((va + 1) % 2 ^ 54) r).map fun l => match l with
      | (q, bs) :: l => if q = pa + 1 && q % 64 != 0 then (pa, b :: bs) :: l else (pa, [b]) :: (q, bs) :: l
      | [] => [(pa, [b])]
    | _ => none

/-- Writes bytes to a context's space as the device itself, one request to a sector (R318): none where a byte cannot be written. -/
def State.writeVirt (s : State) (ctx va : Nat) (bs : List Byte) : Option State :=
  (s.virtRuns ctx va bs).map fun l => l.foldl (fun (s : State) r => s.storeGlb r.1 r.2) s

/-! ## Scratchpads (R172 to R178) -/

/-- n bytes of a core's scratchpad at an absolute offset. -/
def Core.readSpad (c : Core) (o : Nat) : Nat → List Byte
  | 0 => []
  | n + 1 => Map.get 0 c.spad o :: Core.readSpad c (o + 1) n

/-- A byte map with bytes written from an offset on. -/
def writeMap (m : Map Byte) (o : Nat) : List Byte → Map Byte
  | [] => m
  | b :: r => writeMap (m.put 0 o b) (o + 1) r

/-- Whether a written scratchpad range replaces the whole word that an error marks (R427). -/
def replacedSpad (core o n : Nat) : Locus → Bool
  | .spad c w => c = core && o ≤ 8 * w && 8 * w + 8 ≤ o + n
  | _ => false

/-- A core's scratchpad with bytes written at an absolute offset. -/
def State.writeSpad (s : State) (core o : Nat) (bs : List Byte) : State :=
  (s.updCore core fun c => { c with spad := writeMap c.spad o bs }).clearErrors (replacedSpad core o bs.length)

/-- n bytes of a die's scratchpad; die d's byte o stands at d × 32 MiB + o (R176). -/
def State.readDie (s : State) (a : Nat) : Nat → List Byte
  | 0 => []
  | n + 1 => Map.get 0 s.dieSpad a :: State.readDie s (a + 1) n

/-- Whether a written range replaces the whole word of a die scratchpad that an error marks (R427). -/
def replacedDie (o n : Nat) : Locus → Bool
  | .die w => o ≤ 8 * w && 8 * w + 8 ≤ o + n
  | _ => false

/-- The die scratchpad with bytes written. -/
def State.writeDie (s : State) (a : Nat) (bs : List Byte) : State :=
  { s with dieSpad := writeMap s.dieSpad a bs }.clearErrors (replacedDie a bs.length)

/-- Whether the granule of an absolute scratchpad offset is present: exactly when no copy is in flight into it (R177). -/
def Core.present (c : Core) (o : Nat) : Bool := c.inflight.get 0 (o / 64) = 0

/-- Raises the in-flight counts of granules by one (R177). -/
def State.raiseGranules (s : State) (core : Nat) : List Nat → State
  | [] => s
  | g :: r => State.raiseGranules (s.updCore core fun c => { c with inflight := c.inflight.put 0 g (c.inflight.get 0 g + 1) }) core r

/-- Lowers a granule's in-flight count as a copy of a clock lands in it (R177, R374). -/
def State.lowerGranule (s : State) (core g : Nat) (clock : DWord) : State :=
  s.updCore core fun c =>
    { c with inflight := c.inflight.put 0 g (c.inflight.get 0 g - 1), grantime := c.grantime.put 0 g clock }

/-! ## Errors (R427) -/

/-- Whether a read of n bytes at a place, by a core or by an engine, meets an error: every 64-bit word that it reads counts. -/
def State.meets (s : State) (core : Option Nat) (n : Nat) (l : Loc) (x : Locus) : Bool :=
  match l, x with
  | .glb pa, x => s.glbMeets core pa n x
  | .spad c ws, .spad d w => c = d && ws.any fun o => o / 8 = w
  | .die a, .die w => a / 8 ≤ w && w ≤ (a + n - 1) / 8
  | _, _ => false

/-- Whether a read of n bytes at a place meets an uncorrectable error (R427). -/
def State.locError (s : State) (core : Option Nat) (n : Nat) (l : Loc) : Bool :=
  !s.platform.errors.isEmpty && s.platform.errors.any (s.meets core n l)

/-- Whether the device's own read of n bytes of a context's space meets an uncorrectable error (R427). -/
def State.virtError (s : State) (ctx va n : Nat) : Bool :=
  !s.platform.errors.isEmpty && (List.range n).any fun i => match s.translateEngine ctx ((va + i) % 2 ^ 54) .read with
    | .ok pa => s.locError none 1 (.glb pa)
    | _ => false

/-- Whether n bytes of physical memory hold a sector with an uncorrectable error (R427). -/
def State.rangeError (s : State) (pa n : Nat) : Bool :=
  s.platform.errors.any fun l => match l with
    | .dram k => pa < 64 * k + 64 && 64 * k < pa + n
    | _ => false

/-! ## Cache tags (R4, R180 to R182, R236) -/

/-- The L2 slice of a physical address within its die (R180). -/
def sliceOf (pa : Nat) : Nat := Nat.xor (pa / 2 ^ 8) (pa / 2 ^ 24) % 16

/-- Which L2 slice of the chip holds a line (R180): the die of its home agent, and the slice. -/
def l2Place (line : Nat) : Nat × Nat := (homeOf (line * 128) / 4, sliceOf (line * 128))

/-- What goes over the die links from one die to another counts, in units of 64 bytes (R1, R419): edge 0 of die d leads to die d xor 1,
edge 1 to die d xor 2, and what goes to the die across takes edge 0 first (assumption 35). -/
def State.crossLinks (s : State) (a b n : Nat) : State :=
  let m := a / 2 * 2 + b % 2
  let s := if a = m then s else (s.addDie a 19 n).addDie m 21 n
  if m = b then s else (s.addDie m 20 n).addDie b 22 n

/-- What becomes of the errors in a copy of a line that goes: a dirty sector takes them with it, a clean one leaves them behind (R427). -/
def State.copyErrors (s : State) (line dirty : Nat) (mine : Locus → Option Nat) (next : Nat → Locus) : State :=
  s.mapErrors fun x => match mine x with
    | some w => if w / 16 != line then some x else if dirty / 2 ^ (w / 8 % 2) % 2 = 1 then some (next w) else none
    | none => some x

/-- The entry of a list that a free choice picks: which line or instruction leaves a full cache is open (assumption 60). -/
def State.victim {α : Type} (s : State) (l : List (Nat × α)) : Option (Nat × α) × State :=
  let (n, s) := s.draw
  (l[Config.freeChoice n % max 1 l.length]?, s)

/-- The state with the L2 tags set. -/
def State.setL2 (s : State) (m : Map (Nat × Nat)) : State := { s with l2 := m }

/-- A sector in its L2 slice of 4 MiB (R4, R180): looked up, and filled through its home agent where it was not held, or written back by an
L1. Hits, misses, writebacks and requests are counted (R419). -/
def State.l2Fill (s : State) (pa : Nat) (dirty : Bool) : State :=
  let line := pa / 128
  let bit := pa / 64 % 2
  let x := s.l2.get (0, 0) line
  let s := if dirty then s
    else if x.1 / 2 ^ bit % 2 = 1 then s.countDie (l2Place line).1 0
    else (s.countDie (l2Place line).1 1).countDie (l2Place line).1 (4 + homeOf pa % 4)
  let s := { s with l2 := s.l2.set line (Nat.lor x.1 (2 ^ bit), if dirty then Nat.lor x.2 (2 ^ bit) else x.2) }
  let held := s.l2.filter fun e => l2Place e.1 = l2Place line && e.1 != line
  if held.length < 32768 then s
  else match s.victim held with
    | (some (k, y), s) =>
      let s := s.copyErrors k y.2 (fun x => match x with | .l2 w => some w | _ => none) fun w => .dram (w / 8)
      (if y.2 = 0 then s else s.countDie (l2Place k).1 2).setL2 (s.l2.del k)
    | (none, s) => s

/-- A line leaves an L1 (R182, R236): dirty sectors pass to the L2, contributions to the home agent. -/
def State.l1Drop (s : State) (core line : Nat) : State :=
  match (s.core core).l1.find line with
  | none => s
  | some x =>
    let s := (s.gatherCore core line).updCore core fun c => { c with l1 := c.l1.del line }
    let s := s.copyErrors line x.dirty (fun x => match x with | .l1 c w => if c = core then some w else none | _ => none) .l2
    let back := fun (s : State) (pa : Nat) => (s.l2Fill pa true).crossLinks (dieOf core) (l2Place line).1 1
    let s := if x.dirty % 2 = 1 then back s (line * 128) else s
    if x.dirty / 2 % 2 = 1 then back s (line * 128 + 64) else s

/-- A line enters an L1 of 2,048 lines; where it is full another one leaves (R4). -/
def State.l1Set (s : State) (core line : Nat) (x : Line) : State :=
  let s := s.updCore core fun c => { c with l1 := c.l1.set line x }
  let others := (s.core core).l1.del line
  if others.length < 2048 then s
  else match s.victim others with
    | (some (k, _), s) => s.l1Drop core k
    | (none, s) => s

/-- The copies of a line in the L1s of other cores go (R181); `all` says whether update-only copies go too. -/
def State.dropOthers (s : State) (core line : Nat) (all : Bool) : State :=
  s.cores.foldl (fun (s : State) (e : Nat × Core) =>
    if e.1 != core && (e.2.l1.find line).any (fun x => all || x.ops.isEmpty) then s.l1Drop e.1 line else s) s

/-- An L1's tags after a load or a store of a sector (R180, R181): a sector that is not held is filled through the L2, and a store
makes its line this L1's alone. A hit or a miss is counted (R419). -/
def State.touch (s : State) (core pa : Nat) (dirty : Bool) : State :=
  let line := pa / 128
  let bit := pa / 64 % 2
  let s := s.combineLine line
  let x := (s.core core).l1.get {} line
  let hit := x.have_ / 2 ^ bit % 2 = 1
  let s := s.countCore core (if hit then 40 else 41)
  let s := if hit then s else (s.l2Fill pa false).crossLinks (l2Place line).1 (dieOf core) 1
  let s := if dirty then s.dropOthers core line true else s
  s.l1Set core line { have_ := Nat.lor x.have_ (2 ^ bit), dirty := if dirty then Nat.lor x.dirty (2 ^ bit) else x.dirty }

/-- An L1's tags after an MRED of an operation to a word (R182): it takes or joins the update-only state of the line, which any number of
L1s hold at once; a different operation on the word first has every copy combined. -/
def State.joinU (s : State) (core pa op : Nat) : State :=
  let line := pa / 128
  let other : Bool := (s.cores.any fun (e : Nat × Core) => (e.2.l1.find line).any fun (x : Line) => x.ops.any fun o => o.1 = pa && o.2 != op)
    || (op != 7 && !(s.exactParts pa).isEmpty)
  let s := if other then s.combineLine line else s
  let x := (s.core core).l1.get {} line
  let s := (s.countCore core (if x.ops.isEmpty then 41 else 40)).countCore core 42
  let s := s.dropOthers core line false
  let s := if x.ops.isEmpty then s.l1Drop core line else s
  s.l1Set core line { ops := if x.ops.contains (pa, op) then x.ops else (pa, op) :: x.ops }

end Sys2Proof.Machine
end

