-- ==== Sys2Proof/Machine/Warps.lean ====
section
/-!
DEFINITION. Warps, blocks and their registers: the launch record (R141 to R144), sets and roles (R124 to R126), the
selected group (R127, R128), the register file (R13 to R17) and the special registers (R16).
-/

namespace Sys2Proof.Machine

/-! ## Access -/

/-- A resident warp. -/
def State.warp? (s : State) (wid : Nat) : Option Warp := s.warps.find wid

/-- The state with a warp written. -/
def State.setWarp (s : State) (wid : Nat) (w : Warp) : State := { s with warps := s.warps.set wid w }

/-- The state with a warp changed, where it is resident. -/
def State.updWarp (s : State) (wid : Nat) (f : Warp → Warp) : State := { s with warps := s.warps.modify wid f }

/-- A resident block. -/
def State.block? (s : State) (b : Nat) : Option Block := s.blocks.find b

/-- A block, an empty one where the key is not resident. -/
def State.block (s : State) (b : Nat) : Block := s.blocks.get {} b

/-- The state with a block changed, where it is resident. -/
def State.updBlock (s : State) (b : Nat) (f : Block → Block) : State := { s with blocks := s.blocks.modify b f }

/-- A context of the chip; an unusable one where the slot is not open. -/
def State.ctx (s : State) (c : Nat) : Ctx := s.ctxs.get {} c

/-- The state with a context changed, where it is open. -/
def State.updCtx (s : State) (c : Nat) (f : Ctx → Ctx) : State := { s with ctxs := s.ctxs.modify c f }

/-! ## The launch record (R141 to R144) -/

/-- A field of a launch record. -/
def recField (r : Attach) (off size : Nat) : Nat := fieldAt r.toNat off size

/-- W for a width code (R141). -/
def widthOf (code : Nat) : Nat := if code = 0 then 16 else if code = 1 then 32 else 64

/-- Whether a role is declared, its budget, its set and its mask (R142). -/
def roleOf (r : Attach) (i : Nat) : Bool × Nat × Nat × Nat :=
  let e := recField r (0x50 + 8 * i) 8
  (e / 2 ^ 50 % 2 = 1, e / 2 ^ 40 % 2 ^ 10, e / 2 ^ 32 % 8, e % 2 ^ 32)

/-- The warp mask of a set, 0 where it is not declared (R124). -/
def setMask (r : Attach) (n : Nat) : Nat := recField r (0x70 + 4 * n) 4

/-- The role index of a warp (R125). -/
def roleIndex (r : Attach) (warp : Nat) : Option Nat :=
  (List.range 4).find? fun i => (roleOf r i).1 && (roleOf r i).2.2.2 / 2 ^ warp % 2 = 1

/-- The register budget N of a warp (R125). -/
def budgetOf (r : Attach) (warp : Nat) : Nat :=
  match roleIndex r warp with
  | some i => (roleOf r i).2.1
  | none => recField r 0x30 2

/-- A pool entry (R143). -/
structure Pool where
  valid   : Bool
  offset  : Nat
  size    : Nat
  count   : Nat
  strict  : Bool
  cluster : Bool
  quotas  : List Nat

/-- The entry of a pool. -/
def poolOf (r : Attach) (p : Nat) : Pool :=
  let e := recField r (0x100 + 16 * p) 16
  { valid := e / 2 ^ 40 % 2 = 1, offset := e % 2 ^ 32, size := 2 ^ (e / 2 ^ 32 % 32), count := e / 2 ^ 48 % 2 ^ 16,
    strict := e / 2 ^ 41 % 2 = 1, cluster := e / 2 ^ 42 % 2 = 1,
    quotas := (List.range 4).map fun i => e / 2 ^ (64 + 16 * i) % 2 ^ 16 }

/-- Warps of the block. -/
def Block.nwarps (b : Block) : Nat := recField b.record 0x2D 1

/-- Set-wide register count j. -/
def Block.xcount (b : Block) : Nat := recField b.record 0x2E 1

/-- Lanes of the block (R121). -/
def Block.lanes (b : Block) : Nat := b.nwarps * b.width

/-- Plain scratchpad bytes. -/
def Block.plain (b : Block) : Nat := recField b.record 0x90 4

/-- Lane-private bytes per lane. -/
def Block.lanepriv (b : Block) : Nat := recField b.record 0x94 4

/-- Whether an absolute scratchpad offset lies in a block's partition. -/
def Block.holds (b : Block) (o : Nat) : Bool := b.pbase ≤ o && o < b.pbase + b.psize

/-- The mode flags (R144). -/
def Block.flag (b : Block) (i : Nat) : Bool := recField b.record 4 4 / 2 ^ i % 2 = 1

/-- x, y and z of the block's position (R121). -/
def Block.pos3 (b : Block) : Nat × Nat × Nat :=
  let x := recField b.record 0x20 4
  let y := recField b.record 0x24 4
  (b.bid % max x 1, b.bid / max x 1 % max y 1, b.bid / (max x 1 * max y 1))

/-- A record's partition size: the largest end of its regions (R141). -/
def partitionSize (r : Attach) : Nat :=
  let base := recField r 0x90 4 + recField r 0x94 4 * recField r 0x2D 1 * widthOf (recField r 0x2C 1)
  (List.range 8).foldl (fun m p =>
    let e := poolOf r p
    if e.valid then max m (e.offset + e.count * e.size) else m) base

/-- A record's register footprint (R123). -/
def footprint (r : Attach) : Nat :=
  (List.range (recField r 0x2D 1)).foldl (fun m i => m + widthOf (recField r 0x2C 1) * budgetOf r i * 4) 0

/-- The launch-site name of a record: pc, chip and control core, sequence (R297). -/
def siteOf (r : Attach) : Nat × Nat × Nat := (recField r 0x40 8, recField r 0x48 4, recField r 0x4C 4)

/-- Whether a block is a stream program on a control core. -/
def Block.onControl (b : Block) : Bool := b.kind = .stream

/-- Whether the block's context runs in D-mode. -/
def State.dmode (s : State) (b : Block) : Bool := (s.ctx b.ctx).dmode

/-! ## Lanes -/

/-- The lanes of a block's warps. -/
def Block.allLanes (b : Block) : Lanes := allSet b.width

/-- The parked lanes of a warp (R127). -/
def parkedOf : List Park → Lanes
  | [] => 0
  | p :: r => p.lanes ||| parkedOf r

/-- The live, unparked lanes of a warp. -/
def Warp.ready (w : Warp) : Lanes := w.live &&& ~~~ (parkedOf w.parks)

/-- The PC of a lane. -/
def Warp.pc (w : Warp) (lane : Nat) : Addr54 := w.pcs.get 0 lane

/-- The smallest PC among lanes. -/
def Warp.minPc (w : Warp) : List Nat → Option Addr54
  | [] => none
  | i :: r => match Warp.minPc w r with
    | none => some (w.pc i)
    | some p => some (if (w.pc i).toNat ≤ p.toNat then w.pc i else p)

/-- The selected PC (R128). -/
def Warp.selectedPc (w : Warp) (W : Nat) : Option Addr54 :=
  match members W (w.pin &&& w.ready) with
  | i :: _ => some (w.pc i)
  | [] => w.minPc (members W w.ready)

/-- The lanes among a set that stand at a PC. -/
def Warp.at_ (w : Warp) (W : Nat) (x : Lanes) (p : Addr54) : Lanes := setOf ((members W x).filter fun i => w.pc i = p)

/-- The selected group (R127). -/
def Warp.selected (w : Warp) (W : Nat) : Lanes :=
  match w.selectedPc W with
  | none => 0
  | some p => w.at_ W w.ready p

/-- A warp with the PCs of lanes set. -/
def Warp.setPcs (w : Warp) (p : Addr54) : List Nat → Warp
  | [] => w
  | i :: r => Warp.setPcs { w with pcs := w.pcs.put 0 i p } p r

/-- The pin after an issue: a lane that parks or exits leaves it, since every lane of a pinned group always holds the same PC, so it ends
when its lanes have all parked or exited (R128). -/
def Warp.trimPin (w : Warp) : Warp := { w with pin := w.pin &&& w.ready }

/-! ## The register file -/

/-- Lane l of vector register n. -/
def Warp.vget (w : Warp) (n l : Nat) : Word := w.v.get 0 (64 * n + l)

/-- A warp with lane l of vector register n written. -/
def Warp.vset (w : Warp) (n l : Nat) (x : Word) : Warp := { w with v := w.v.put 0 (64 * n + l) x }

/-- A vector pair of a lane as 64 bits, its even register low (R14). -/
def Warp.vpair (w : Warp) (n l : Nat) : DWord := (w.vget (n + 1) l) ++ (w.vget n l)

/-- Scalar register n. -/
def Warp.sget (w : Warp) (n : Nat) : DWord := w.s.get 0 n

/-- A warp with scalar register n written. -/
def Warp.sset (w : Warp) (n : Nat) (x : DWord) : Warp := { w with s := w.s.put 0 n x }

/-- Mask register n. -/
def Warp.kget (w : Warp) (n : Nat) : Lanes := w.k.get 0 n

/-- A warp with mask register n written below W; bits from W on read as zero (R14). -/
def Warp.kset (w : Warp) (W n : Nat) (x : Lanes) : Warp := { w with k := w.k.put 0 n (x &&& allSet W) }

/-- A mask register's value with the bits of a set replaced (R82). -/
def mergeBits (old bits value : Lanes) : Lanes := (old &&& ~~~ bits) ||| (value &&& bits)

/-- A warp with the lanes of one register written. -/
def Warp.vsetLanes (w : Warp) (n : Nat) : List (Nat × Word) → Warp
  | [] => w
  | (l, x) :: r => Warp.vsetLanes (w.vset n l x) n r

/-- A register write (R82): the lanes of a vector result are those that took part in the issue, gone or not; a mask keeps no bit of a
lane that is gone (R153). -/
def Warp.write (w : Warp) (W : Nat) : RegWrite → Warp
  | .vec n xs => w.vsetLanes n xs
  | .scal n x => w.sset n x
  | .mask n bits x => w.kset W n (mergeBits (w.kget n) (bits &&& w.live) x)

/-- Register writes, in order. -/
def Warp.writeAll (w : Warp) (W : Nat) : List RegWrite → Warp
  | [] => w
  | r :: q => Warp.writeAll (w.write W r) W q

/-- Whether a vector register name is legal for a budget (R15). -/
def legalV (N j n : Nat) : Bool := n + j < N || (512 ≤ n + j && n < 512)

/-! ## Special registers (R16) -/

/-- The cluster of a core or a control core. -/
def clusterOf (core : Nat) : Nat := if core < 128 then core / 4 else core - 128

/-- The control core of a core's cluster, or the control core itself (R341). -/
def controlOf (core : Nat) : Nat := clusterOf core

/-- A loop register's value (R157). -/
def loopWord (e : LoopEntry) : DWord :=
  BitVec.ofNat 64 (2 ^ 63 + (e.stop - e.start).toNat / 4 % 2 ^ 15 * 2 ^ 48 + e.remaining.toNat)

/-- The pod time that a warp reads: the grid's start stamp in D-mode (R16, R360). -/
def State.ptimeOf (s : State) (b : Block) : Nat :=
  if s.dmode b then
    let start := recField b.record 0x38 8
    if start = 0 then (s.hytur.tables.grids.get {} b.grid).stamp else start
  else s.clock.time

/-- A special register held once per warp or chip (R16); `active` are the lanes of the current issue. -/
def State.special (s : State) (wid : Nat) (w : Warp) (b : Block) (active : Lanes) (n : Nat) : DWord :=
  let (x, y, z) := b.pos3
  match n with
  | 0x01 => BitVec.ofNat 64 w.index
  | 0x02 => BitVec.ofNat 64 wid
  | 0x03 => BitVec.ofNat 64 b.bid
  | 0x04 => BitVec.ofNat 64 (x + y * 2 ^ 21 + z * 2 ^ 42)
  | 0x05 => BitVec.ofNat 64 b.grid
  | 0x06 => BitVec.ofNat 64 s.chip
  | 0x07 => BitVec.ofNat 64 (coreOf wid)
  | 0x08 => BitVec.ofNat 64 (clusterOf (coreOf wid))
  | 0x09 => BitVec.ofNat 64 b.width
  | 0x0A => BitVec.ofNat 64 b.ctx
  | 0x0B => w.live
  | 0x0C => active
  | 0x0E => w.lclk
  | 0x0F => BitVec.ofNat 64 (s.ptimeOf b)
  | 0x10 => w.tvec
  | 0x11 => match w.loops[0]? with | some e => loopWord e | none => 0
  | 0x12 => match w.loops[1]? with | some e => loopWord e | none => 0
  | 0x13 => match w.loops[2]? with | some e => loopWord e | none => 0
  | 0x14 => match w.loops[3]? with | some e => loopWord e | none => 0
  | 0x15 => w.fault
  | 0x16 => BitVec.ofNat 64 b.pbase
  | _ => 0

/-- A PC from an entry field: bits [1:0] of a PC are zero (R18). -/
def entryOf (n : Nat) : Addr54 := BitVec.ofNat 54 (n / 4 * 4)

/-- %tvec from a 64-bit field: bits [1:0] are zero (R16). -/
def tvecOf (n : Nat) : DWord := BitVec.ofNat 64 (n / 4 * 4)

/-- A special register held per lane: %lane and %draw (R16). -/
def Warp.specialLane (w : Warp) (n lane : Nat) : Word := if n = 0 then BitVec.ofNat 32 lane else w.draw.get 0 lane

/-- A lane's logical lane id (R69). -/
def Block.lid (b : Block) (index lane : Nat) : DWord := BitVec.ofNat 64 (b.bid * b.lanes + index * b.width + lane)

/-- The context's seed (R69, R141). -/
def Block.seed (b : Block) : DWord := BitVec.ofNat 64 (recField b.record 0x18 8)

/-! ## Members (R124, R130) -/

/-- Whether warp index i is declared in a scope instance. -/
def inScope (b : Block) (sc : Scope) (sel : Nat) (i : Nat) : Bool :=
  match sc with
  | .set => setMask b.record sel / 2 ^ i % 2 = 1
  | _ => true

/-- The declared warps of a scope instance of a block with their ranks (R124): (rank, %wid). -/
def declared (b : Block) (sc : Scope) (sel : Nat) (wid : Nat) : List (Nat × Nat) :=
  match sc with
  | .lane | .warp => [(0, wid)]
  | _ =>
    let ids := (List.range b.wids.length).filter (inScope b sc sel)
    (List.range ids.length).map fun r => (r, b.wids.getD (ids.getD r 0) 0)

/-- The members that have not exited, with their ranks. -/
def State.membersOf (s : State) (b : Block) (sc : Scope) (sel wid : Nat) : List (Nat × Nat) :=
  (declared b sc sel wid).filter fun m => match s.warp? m.2 with | some w => w.live != 0 | none => false

/-- The groups of a warp parked at a collective: the same scope, selector and PC. -/
def Warp.arrivals (w : Warp) (sc : Scope) (sel : Nat) (pc : Addr54) : List Park :=
  w.parks.filter fun p => p.pc = pc && match p.place with
    | .rendezvous c x _ => c = sc && x = sel
    | _ => false

/-- The lanes of a warp that a collective waits for (R130). -/
def Warp.memberLanes (w : Warp) (sc : Scope) (sel : Nat) (pc : Addr54) : Lanes :=
  if sc = .warp && sel != 0 then
    match w.arrivals sc sel pc with
    | p :: _ => match p.place with | .rendezvous _ _ m => m &&& w.live | _ => w.live
    | [] => w.live
  else w.live

/-- Whether every member lane of every member warp is parked at the collective (R131). -/
def State.allArrived (s : State) (b : Block) (sc : Scope) (sel wid : Nat) (pc : Addr54) : Bool :=
  (s.membersOf b sc sel wid).all fun m => match s.warp? m.2 with
    | some w => w.offcore.isNone && (w.memberLanes sc sel pc) &&& ~~~ (parkedOf (w.arrivals sc sel pc)) = 0
    | none => true

/-- A collective of the warp whose members have all arrived, where there is one (R132): its parked group. -/
def State.readyPark (s : State) (wid : Nat) (w : Warp) : Option Park :=
  w.parks.find? fun p => match p.place with
    | .rendezvous sc sel _ => s.allArrived (s.block w.blk) sc sel wid p.pc
    | _ => false

/-- Whether a parked group is stalled rather than parked: its ring lies on a migrating page (R315). -/
def Park.stalled (p : Park) : Bool :=
  match p.place with
  | .ring r => r.mig.isSome
  | _ => false

/-- Whether every unexited lane of a warp is parked (R127). Lanes at a collective whose members have all arrived are not: it issues, or is
stalled (R206, R344); nor are lanes that a migrating page stalls (R315). -/
def State.isParked (s : State) (wid : Nat) (w : Warp) : Bool :=
  w.live != 0 && w.ready = 0 && (s.readyPark wid w).isNone && !w.parks.any Park.stalled

/-- Whether a warp of a D-mode grid holds the floor at its clock (R375): it is neither parked nor exited nor off-core. -/
def State.holdsFloor (s : State) (wid : Nat) (w : Warp) : Bool := w.live != 0 && !s.isParked wid w && w.offcore.isNone

/-! ## Fault codes (R146) -/

/-- Code 0x01 of R146. -/
abbrev Code.illegal : Nat := 0x01
/-- Code 0x02 of R146. -/
abbrev Code.profile : Nat := 0x02
/-- Code 0x03 of R146. -/
abbrev Code.regRange : Nat := 0x03
/-- Code 0x04 of R146. -/
abbrev Code.instrFetch : Nat := 0x04
/-- Code 0x05 of R146. -/
abbrev Code.pcAlign : Nat := 0x05
/-- Code 0x06 of R146. -/
abbrev Code.lookahead : Nat := 0x06
/-- Code 0x07 of R146. -/
abbrev Code.scopeMember : Nat := 0x07
/-- Code 0x08 of R146. -/
abbrev Code.scopeSplit : Nat := 0x08
/-- Code 0x09 of R146. -/
abbrev Code.divergent : Nat := 0x09
/-- Code 0x0A of R146. -/
abbrev Code.loopDepth : Nat := 0x0A
/-- Code 0x0B of R146. -/
abbrev Code.loopForm : Nat := 0x0B
/-- Code 0x10 of R146. -/
abbrev Code.misaligned : Nat := 0x10
/-- Code 0x11 of R146. -/
abbrev Code.spaceRange : Nat := 0x11
/-- Code 0x12 of R146. -/
abbrev Code.pageFault : Nat := 0x12
/-- Code 0x13 of R146. -/
abbrev Code.permission : Nat := 0x13
/-- Code 0x14 of R146. -/
abbrev Code.remoteDirect : Nat := 0x14
/-- Code 0x15 of R146. -/
abbrev Code.formatAtomic : Nat := 0x15
/-- Code 0x16 of R146. -/
abbrev Code.machineCheck : Nat := 0x16
/-- Code 0x17 of R146. -/
abbrev Code.ringInvalid : Nat := 0x17
/-- Code 0x20 of R146. -/
abbrev Code.tileOverread : Nat := 0x20
/-- Code 0x21 of R146. -/
abbrev Code.tileDead : Nat := 0x21
/-- Code 0x22 of R146. -/
abbrev Code.tileAbandon : Nat := 0x22
/-- Code 0x23 of R146. -/
abbrev Code.tileHandle : Nat := 0x23
/-- Code 0x28 of R146. -/
abbrev Code.mtxOperand : Nat := 0x28
/-- Code 0x30 of R146. -/
abbrev Code.itinerary : Nat := 0x30
/-- Code 0x31 of R146. -/
abbrev Code.porter : Nat := 0x31
/-- Code 0x32 of R146. -/
abbrev Code.formatWindow : Nat := 0x32
/-- Code 0x38 of R146. -/
abbrev Code.trap : Nat := 0x38
/-- Code 0x39 of R146. -/
abbrev Code.breakpoint : Nat := 0x39
/-- Code 0x3A of R146. -/
abbrev Code.watchpoint : Nat := 0x3A
/-- Code 0x3B of R146. -/
abbrev Code.hang : Nat := 0x3B
/-- Code 0x3C of R146. -/
abbrev Code.digestMismatch : Nat := 0x3C
/-- Code 0x3D of R146. -/
abbrev Code.orderDependence : Nat := 0x3D
/-- Code 0x3E of R146. -/
abbrev Code.doubleFault : Nat := 0x3E
/-- Code 0x40 of R146. -/
abbrev Code.launchInvalid : Nat := 0x40

end Sys2Proof.Machine
end

