-- ==== Sys2Proof/Machine/Order.lean ====
section
/-!
DEFINITION. What the chip tells others: event messages (R279 to R283), device rings (R336 to R338), and faults that wait
for delivery (R433).
-/

namespace Sys2Proof.Machine

/-! ## Messages (R280) -/

/-- One bit of the CRC-32 of IEEE 802.3. -/
def crcBit (c : Word) : Word := if c.getLsbD 0 then (c >>> 1) ^^^ 0xEDB88320#32 else c >>> 1

/-- One byte of the CRC. -/
def crcByte (c : Word) (b : Byte) : Word :=
  crcBit (crcBit (crcBit (crcBit (crcBit (crcBit (crcBit (crcBit (c ^^^ b.zeroExtend 32))))))))

/-- The CRC-32 of a list of bytes. -/
def crc32 (bs : List Byte) : Word := ~~~ (bs.foldl crcByte 0xFFFFFFFF#32)

/-- A field of a message. -/
def msgField (m : Msg) (off size : Nat) : Nat := fieldAt m.toNat off size

/-- The stamp of a message. -/
def msgStamp (m : Msg) : Nat := msgField m 0 8

/-- The origin of a message. -/
def msgOrigin (m : Msg) : Nat := msgField m 8 8 % 2 ^ 10

/-- The origin sequence number of a message. -/
def msgOseq (m : Msg) : Nat := msgField m 8 8 / 2 ^ 10 % 2 ^ 38

/-- The type of a message. -/
def msgType (m : Msg) : Nat := msgField m 8 8 / 2 ^ 48 % 2 ^ 8

/-- The context slot of a message. -/
def msgCtx (m : Msg) : Nat := msgField m 8 8 / 2 ^ 56 % 2 ^ 6

/-- A field of a message's body, which begins at byte 0x10. -/
def bodyField (m : Msg) (off size : Nat) : Nat := msgField m (0x10 + off) size

/-- A message with its CRC, from its parts (R280). -/
def mkMsg (stamp ctx type oseq origin body : Nat) : Msg :=
  let n := stamp % 2 ^ 64 + (ctx % 64 * 2 ^ 56 + type * 2 ^ 48 + oseq % 2 ^ 38 * 2 ^ 10 + origin % 1024) * 2 ^ 64 + body % 2 ^ 320 * 2 ^ 128
  BitVec.ofNat 512 (n + (crc32 (bytesOf 60 n)).toNat * 2 ^ 480)

/-- Whether a message's CRC is right (R280). -/
def crcOk (m : Msg) : Bool := msgField m 0x3C 4 = (crc32 (bytesOf 60 m.toNat)).toNat

/-- A body built from (offset, size, value) fields. -/
def mkBody : List (Nat × Nat × Nat) → Nat
  | [] => 0
  | (o, n, v) :: r => v % 2 ^ (8 * n) * 2 ^ (8 * o) + mkBody r

/-- The key of an event (R287). -/
def evKey (e : Ev) : Nat × Nat × Nat := (msgStamp e.msg, msgOrigin e.msg, msgOseq e.msg)

/-- The state of a chip's row. -/
def Tables.chipSt (t : Tables) (c : Nat) : ChipSt := (t.chips.get {} c).st

/-- Whether this chip's own row is MEMBER (R282). -/
def State.isMember (s : State) : Bool := s.hytur.tables.chipSt s.chip = .member

/-- The members of the view, ascending (R287). -/
def Tables.view (t : Tables) : List Nat := (t.chips.filter fun e => e.2.st = .member).map (·.1)

/-- The state with the order service changed. -/
def State.updHytur (s : State) (f : Hytur → Hytur) : State := { s with hytur := f s.hytur }

/-- The state with something sent to the outside. -/
def State.send (s : State) (o : Out) : State := { s with outbox := s.outbox ++ [o] }

/-- Whether the origin queue is full (R282), or has earlier sources waiting: a source that finds it so waits. -/
def State.originFull (s : State) : Bool := 4096 ≤ s.hytur.queued || !s.hytur.backlog.isEmpty

/-- An event enters the origin queue (R282): stamped, numbered, kept and sent. `queued` counts the events that stand in the origin queue
until the port has taken them (assumption 47). -/
def State.enterOrigin (s : State) (type ctx body : Nat) (att : Option Attach) : State :=
    let stamp := max s.clock.time s.hytur.minStamp
    let e : Ev := { msg := mkMsg stamp ctx type s.hytur.nextOseq s.chip body, att := att }
    (s.updHytur fun h =>
      { h with minStamp := stamp + 1, queued := h.queued + 1, nextOseq := (h.nextOseq + 1) % 2 ^ 38, undelivered := h.undelivered ++ [e] }).send (.datagram e)

/-- Originates an event (R282); a chip that is no member, or is fenced, discards it. One that finds the queue full waits at its source, and
enters the queue in its turn. -/
def State.originate (s : State) (type ctx body : Nat) (att : Option Attach := none) : State :=
  if !s.isMember || s.hytur.fenced then s
  else if s.originFull then s.updHytur fun h => { h with backlog := h.backlog ++ [(type, ctx, body, att)] }
  else s.enterOrigin type ctx body att

/-- Events that waited at their sources enter the origin queue, as far as there is room; a chip that has become no member discards them. -/
def State.enterBacklog (s : State) : State :=
  if !s.isMember || s.hytur.fenced then s.updHytur fun h => { h with backlog := [] }
  else s.hytur.backlog.foldl (fun (s : State) x =>
    if 4096 ≤ s.hytur.queued then s
    else (s.updHytur fun h => { h with backlog := h.backlog.drop 1 }).enterOrigin x.1 x.2.1 x.2.2.1 x.2.2.2) s

/-- The port takes events from the origin queue, as many as a free choice says (assumption 47). -/
def State.drainOrigin (s : State) : State :=
  if s.hytur.queued = 0 then s
  else
    let (n, s) := s.draw
    (s.updHytur fun h => { h with queued := h.queued - Config.freeChoice n }).enterBacklog

/-- A FAULT event (R283). -/
def State.orderFault (s : State) (b : Block) (code wid : Nat) (entry : DWord) : State :=
  s.originate 5 b.ctx (mkBody [(0, 2, b.grid), (2, 1, code), (4, 4, b.bid), (8, 2, wid), (0x10, 8, entry.toNat)])

/-! ## Rings (R336) -/

/-- A ring header as read. -/
structure Ring where
  ctx    : Nat
  header : Nat
  base   : Nat
  lgn    : Nat
  lgs    : Nat
  ncons  : Nat
  tail   : Nat
  drops  : Nat
  cursors : List Nat

/-- The 54-bit address in a pod address. -/
def va54 (a : DWord) : Nat := a.toNat % 2 ^ 54

/-- The chip field of a pod address (R171). -/
def chipField (a : DWord) : Nat := a.toNat / 2 ^ 54

/-- How reading a ring header ends; `error` is an uncorrectable memory error (R427). -/
inductive RingRead where
  | ok (r : Ring) (s : State)
  | invalid
  | error
  | fault (t : Trans)

/-- Reads and checks a ring header (R336). -/
def State.readRing (s : State) (ctx : Nat) (a : DWord) : RingRead :=
  if chipField a != s.chip || va54 a % 128 != 0 then .invalid
  else match s.translateEngine ctx (va54 a) .read with
    | .ok pa =>
      if s.virtError ctx (va54 a) 128 then .error
      else
      let (bs, s) := s.loadGlb pa 128
      let n := numOf bs
      let r : Ring := { ctx := ctx, header := va54 a, base := fieldAt n 0 8, lgn := fieldAt n 8 1, lgs := fieldAt n 9 1, ncons := fieldAt n 10 1, tail := fieldAt n 0x10 8, drops := fieldAt n 0x18 8, cursors := (List.range 8).map fun i => fieldAt n (0x40 + 8 * i) 8 }
      if 1 ≤ r.lgn && r.lgn ≤ 24 && 5 ≤ r.lgs && r.lgs ≤ 12 && 1 ≤ r.ncons && r.ncons ≤ 8 && r.base % 2 ^ r.lgs = 0
          && r.base / 2 ^ 54 = s.chip then .ok { r with base := r.base % 2 ^ 54 } s
      else .invalid
    | t => .fault t

/-- The smallest cursor of a ring's consumers. -/
def Ring.minCursor (r : Ring) : Nat := ((r.cursors.take r.ncons).foldl min (2 ^ 64))

/-- Whether k slots from the tail on have room (R338, R352). -/
def Ring.room (r : Ring) (k : Nat) : Bool := r.tail + k - 1 < r.minCursor + 2 ^ r.lgn

/-- The address of the slot of a sequence (R336). -/
def Ring.slot (r : Ring) (t : Nat) : Nat := r.base + t % 2 ^ r.lgn * 2 ^ r.lgs

/-- Claims k slots: the tail advances (R337). -/
def State.claim (s : State) (r : Ring) (k : Nat) : Option State :=
  s.writeVirt r.ctx (r.header + 0x10) (bytesOf 8 ((r.tail + k) % 2 ^ 64))

/-- Marks an 8-byte word as released at a clock of a grid's warp (R374). -/
def State.stampWord (s : State) (ctx va : Nat) (clock : Option DWord) : State :=
  match clock, s.translateEngine ctx va .read with
  | some c, .ok pa => { s with ringClock := s.ringClock.set (pa / 8) c }
  | _, _ => s

/-- Writes the payload of sequence t from slot offset 8 on, then its sequence, with release (R337). -/
def State.fillSlot (s : State) (r : Ring) (t : Nat) (payload : List Byte) (clock : Option DWord := none) : Option State :=
  match s.writeVirt r.ctx (r.slot t + 8) payload with
  | none => none
  | some s => (s.writeVirt r.ctx (r.slot t) (bytesOf 8 (t % 2 ^ 64))).map fun s => s.stampWord r.ctx (r.slot t) clock

/-- A record of a producer that never waits (R338, R413): written into its ring, or counted in drops when the ring is
full, or lost when the header cannot be used (R434) or the slots are too small for it (R336). -/
def State.record (s : State) (ctx : Nat) (header : DWord) (payload : List Byte) : State :=
  if header = 0 then s
  else match s.readRing ctx header with
    | .ok r s1 =>
      if 2 ^ r.lgs < 8 + payload.length then s
      else if r.room 1 then
        match s1.claim r 1 with
        | some s2 => (s2.fillSlot r r.tail payload).getD s2
        | none => s
      else (s1.writeVirt ctx (r.header + 0x18) (bytesOf 8 ((r.drops + 1) % 2 ^ 64))).getD s1
    | _ => s

/-! ## Asynchronous faults (R433) -/

/-- Holds an asynchronous fault for a block until its delivery (R433). -/
def State.hold (s : State) (blk : Nat) (f : AsyncFault) : State := s.updBlock blk fun b => { b with held := b.held ++ [f] }

/-- Puts a record on the list of an engine producer that waits for room (R338). -/
def State.addJob (s : State) (j : RingJob) : State :=
  let (n, s) := s.draw
  { s with jobs := s.jobs ++ [{ j with id := n }] }

/-- The two-level name of a subject (R402). -/
def nameBytes (b : Block) (chip wid warp lane : Nat) (pc : Addr54) : List Byte :=
  let (spc, scc, sseq) := siteOf b.record
  bytesOf 4 sseq ++ bytesOf 4 scc ++ bytesOf 8 spc ++ bytesOf 4 b.bid ++ bytesOf 2 b.grid ++ bytesOf 2 wid ++ bytesOf 1 warp
    ++ bytesOf 1 lane ++ bytesOf 2 chip ++ bytesOf 4 0 ++ bytesOf 8 pc.toNat

end Sys2Proof.Machine
end

