-- ==== Sys2Proof/Machine/Tiles.lean ====
section
/-!
DEFINITION. Leaving a parking place (R155, R159, R374), the life of tiles (R188 to R201), barrier objects (R241 to R246)
and places in the matrix queue (R206, R225).
-/

namespace Sys2Proof.Machine

/-! ## Completing an instruction -/

/-- The loop-end test at p (R159), from the innermost entry: the loop stack and the PC of the group. The stack is given
innermost first. -/
def loopEndRev (p next : Addr54) : List LoopEntry → List LoopEntry × Addr54
  | [] => ([], next)
  | e :: r =>
    if e.stop = p then
      if e.remaining = 0 then loopEndRev p next r
      else ({ e with remaining := e.remaining - 1 } :: r, e.start)
    else (e :: r, next)

/-- The loop-end test at p for an instruction of `len` bytes (R159). -/
def loopEnd (loops : List LoopEntry) (p : Addr54) (len : Nat) : List LoopEntry × Addr54 :=
  let (r, q) := loopEndRev p (p + BitVec.ofNat 54 len) loops.reverse
  (r.reverse, q)

/-- Moves lanes that complete the instruction at p on, with the loop-end test (R159). -/
def Warp.complete (w : Warp) (W : Nat) (lanes : Lanes) (p : Addr54) (len : Nat) : Warp :=
  let (loops, q) := loopEnd w.loops p len
  { w with loops := loops }.setPcs q (members W (lanes &&& w.live))

/-- The clock of a warp whose lanes a place releases (R374), in D-mode. -/
def releaseClock (dmode : Bool) (own w : DWord) : DWord := if dmode then (if own.ult w then w else own) + 1 else own

/-- Releases one parked group: out of the parking place and on to the next instruction (R127). A trap frame holds a group unchanged
(R164), and a warp off-core resumes as saved (R359): the release is noted, and takes place at TRET or at the return (assumption 13). -/
def Warp.release (w : Warp) (W : Nat) (dmode : Bool) (p : Park) (clock : DWord) : Warp :=
  if w.offcore.isSome && w.parks.contains p then
    { w with parks := w.parks.map fun q => if q = p then { q with woken := some clock } else q }
  else if w.parks.contains p then
    let w := { w with parks := w.parks.erase p, lclk := releaseClock dmode w.lclk clock }
    w.complete W p.lanes p.pc p.len
  else match w.frame with
    | none => w
    | some f =>
      { w with frame := some { f with parks := f.parks.map fun q => if q = p then { q with woken := some clock } else q } }

/-- Every parked group of a warp that is not released, those of its trap frame included. -/
def Warp.allParks (w : Warp) : List Park :=
  w.parks.filter (fun p => p.woken.isNone) ++ (match w.frame with | none => [] | some f => f.parks.filter fun p => p.woken.isNone)

/-- Releases the groups that were woken while they stood in a trap frame or off-core (R164, R168, R359). -/
def Warp.releaseWoken (w : Warp) (W : Nat) (dmode : Bool) : Warp :=
  w.parks.foldl (fun (w : Warp) (p : Park) => match p.woken with | some c => w.release W dmode p c | none => w) w

/-- The width and the D-mode flag of a warp's block. -/
def State.shape (s : State) (w : Warp) : Nat × Bool :=
  let b := s.block w.blk
  (b.width, s.dmode b)

/-- Releases a parked group of a warp. -/
def State.release (s : State) (wid : Nat) (p : Park) (clock : DWord) : State :=
  s.updWarp wid fun w =>
    let (W, d) := s.shape w
    w.release W d p clock

/-- Releases every parked group that a test picks, of every warp. -/
def State.releaseWhere (s : State) (clock : DWord) (test : Nat → Warp → Park → Bool) : State :=
  s.warps.foldl (fun s e => (e.2.allParks.filter (test e.1 e.2)).foldl (fun s p => s.release e.1 p clock) s) s

/-! ## Lookahead windows (R135) -/

/-- Completes a window's result with writes. -/
def Warp.fillWindow (w : Warp) (id : Nat) (rs : List RegWrite) : Warp :=
  { w with windows := w.windows.map fun x => if x.id = id then { x with ready := true, writes := x.writes ++ rs } else x }

/-- Adds part of a result to a window, without making it ready. -/
def Warp.addToWindow (w : Warp) (id : Nat) (rs : List RegWrite) : Warp :=
  { w with windows := w.windows.map fun x => if x.id = id then { x with writes := x.writes ++ rs } else x }

/-- Gives scalar results to the windows of several warps. -/
def State.fillScalars (s : State) (dst : Nat) (x : DWord) : List (Nat × Nat) → State
  | [] => s
  | (wid, win) :: r => State.fillScalars (s.updWarp wid fun w => w.fillWindow win [.scal dst x]) dst x r

/-- A warp for which an operation that it waits for is done; a QFENCE with nothing left to wait for completes (R252). -/
def Warp.endWait (w : Warp) (W id : Nat) : Warp :=
  let w := { w with waits := w.waits.filter fun x => x != id }
  match w.fence with
  | some f => if w.waits.isEmpty then { w with fence := none }.complete W f.lanes f.pc f.len else w
  | none => w

/-- Removes an operation that warps wait for (R227, R252, R373). -/
def State.finishWait (s : State) (id : Nat) : State :=
  { s with warps := s.warps.map fun e => (e.1, if e.2.waits.contains id then e.2.endWait (s.block e.2.blk).width id else e.2) }

/-! ## Tiles (R188 to R201) -/

/-- The key of a tile in a block's table. -/
def tileKey (pool t : Nat) : Nat := pool * 2048 + t

/-- The tiles of a partition: first and count (R188); part 4 is the shared one. -/
def Pool.part (p : Pool) (part : Nat) : Nat × Nat :=
  let before := (p.quotas.take part).foldl (· + ·) 0
  (before, if part < 4 then p.quotas.getD part 0 else p.count - before)

/-- The partition that holds a tile (R188). -/
def Pool.partOf (p : Pool) (t : Nat) : Nat :=
  ((List.range 4).find? fun i => (p.part i).1 ≤ t && t < (p.part i).1 + (p.part i).2).getD 4

/-- The partition that an allocation draws from (R190). -/
def allocPart (b : Block) (pool warp : Nat) (shr : Bool) : Nat :=
  if shr then 4
  else match roleIndex b.record warp with
    | some r => if (poolOf b.record pool).quotas.getD r 0 = 0 then 4 else r
    | none => 4

/-- The handle of a tile (R191). -/
def handleOf (pool t gen : Nat) : Nat := pool * 2 ^ 29 + t * 2 ^ 18 + gen * 2 ^ 12

/-- Pool, tile and generation of a handle, none where it is malformed (R192). -/
def Block.handle? (b : Block) (h : DWord) : Option (Nat × Nat × Nat) :=
  let n := h.toNat
  let p := n / 2 ^ 29 % 8
  let t := n / 2 ^ 18 % 2 ^ 11
  let e := poolOf b.record p
  if n < 2 ^ 32 && n % 2 ^ 12 = 0 && e.valid && t < e.count then some (p, t, n / 2 ^ 12 % 64) else none

/-- The partition offset of a tile (R188). -/
def Block.tileOffset (b : Block) (pool t : Nat) : Nat := (poolOf b.record pool).offset + t * (poolOf b.record pool).size

/-- A tile of a block. -/
def Block.tile (b : Block) (key : Nat) : Tile := b.tiles.get {} key

/-- Whether a copy is in flight into any granule of a tile (R193). -/
def State.tileBusy (s : State) (b : Block) (pool t : Nat) : Bool :=
  let lo := (b.pbase + b.tileOffset pool t) / 64
  ((s.core b.core).inflight.range lo (lo + (poolOf b.record pool).size / 64)).length != 0

/-- Whether a block runs with a floor of its own warps only (R383, R386). -/
def Block.alone (b : Block) : Bool := b.kind = .shadow || b.kind = .rerun

/-- Whether the published floor is above the clock of an ordered request (R375, R376): without a published floor it is not; a
block that runs alone has the floor of its own warps. -/
def State.floorAbove (s : State) (b : Block) (clock : DWord) : Bool :=
  if b.alone && s.dmode b then
    s.warps.all fun (e : Nat × Warp) => !b.wids.contains e.1 || !s.holdsFloor e.1 e.2 || clock.toNat < e.2.lclk.toNat
  else if s.dmode b then
    match (s.ctx b.ctx).floors.find b.grid with
    | some (some f) => clock.toNat < f.toNat
    | some none => true
    | none => false
  else true

/-- Joins the matrix queue, or the line of entries that wait for a place (R206, R225). -/
def State.joinQueue (s : State) (core : Nat) (e : MEntry) : State :=
  let c := s.core core
  if c.mq.length < 16 && c.mwait.isEmpty then s.setCore core { c with mq := c.mq ++ [e] }
  else
    let (n, s) := s.draw
    let s := s.setCore core { c with mwait := c.mwait ++ [{ e with ticket := n }] }
    e.ranks.foldl (fun s r => s.updWarp r.1 fun w => { w with waits := n :: w.waits }) s

/-- Entries that wait for a place of a core's matrix queue take those that have come free (R206, R225), and their warps go on. -/
def State.moveUp (s : State) (core : Nat) : State :=
  let c := s.core core
  let n := 16 - c.mq.length
  let s := s.setCore core { c with mq := c.mq ++ c.mwait.take n, mwait := c.mwait.drop n }
  (c.mwait.take n).foldl (fun (s : State) (e : MEntry) => s.finishWait e.ticket) s

/-- The fields of itinerary entry e of a block's table, as one number (R184); 0 beyond the table. -/
def Block.itinEntry (b : Block) (e : Nat) : Nat := b.itin.getD e 0

/-- The stage of repeat r of an entry (R185). -/
def entryStage (n r : Nat) : Nat := fieldAt n 0x20 4 + r * fieldAt n 0x26 2

/-- The first repeat of entry e, whose fields are n, that comes after a copy in the order of R185. -/
def nextRep (n e : Nat) : Option (Nat × Nat × Nat) → Nat
  | none => 0
  | some (S, E, R) =>
    let st := fieldAt n 0x20 4
    let ss := fieldAt n 0x26 2
    if ss = 0 then
      if S < st || (S = st && E < e) then 0 else if S = st && E = e then R + 1 else 65536
    else
      let r := if S ≤ st then 0 else (S - st + ss - 1) / ss
      if S < st + r * ss || E < e then r else r + 1

/-- The smaller of two copies in the order of R185. -/
def copyBefore (a b : Nat × Nat × Nat) : Bool := a.1 < b.1 || (a.1 = b.1 && (a.2.1 < b.2.1 || (a.2.1 = b.2.1 && a.2.2 < b.2.2)))

/-- The next copy of a block (R185): stage, entry and repeat. -/
def Block.nextCopy (b : Block) : Option (Nat × Nat × Nat) :=
  (List.range b.itin.length).foldl (fun (m : Option (Nat × Nat × Nat)) e =>
    let n := b.itinEntry e
    let r := nextRep n e b.last
    if fieldAt n 0x24 2 ≤ r then m
    else
      let x := (entryStage n r, e, r)
      match m with
      | some y => if copyBefore x y then some x else m
      | none => some x) none

/-- The clock of an itinerary copy (R376): that of the STAGE that made it eligible, 0 where none was needed. -/
def Block.stageClock (b : Block) (stage : Nat) : DWord :=
  if stage = 0 then 0 else ((b.stages.find? fun x => stage ≤ x.1).map (·.2)).getD 0

/-- Starts an itinerary copy whose tile, if any, has been allocated at `base` (R177, R186); defined by its granules. -/
def State.startCopy (s : State) (key : Nat) (entry rep base : Nat) (granules : List Nat) (clock : DWord) : State :=
  let (id, s) := s.draw
  let b := s.block key
  let s := s.raiseGranules b.core (granules.map fun g => (b.pbase + base) / 64 + g)
  s.updBlock key fun b => { b with waiting := false, last := some (entryStage (b.itinEntry entry) rep, entry, rep), copies := b.copies ++ [{ id := id, entry := entry, rep := rep, base := base, left := granules, clock := clock }] }

/-- The destination granule numbers of an entry that hold data, relative to its start, in source order (R186). -/
def entryGranules (n : Nat) : List Nat :=
  let rows := fieldAt n 0x1C 2
  let rowg := fieldAt n 0x1E 2
  let wide := fieldAt n 0x34 2 + rowg + fieldAt n 0x36 2
  (List.range rows).flatMap fun i => (List.range rowg).map fun g => (fieldAt n 0x30 2 + i) * wide + fieldAt n 0x34 2 + g

/-- Zeroes the pad granules of an entry at its issue (R186). -/
def State.zeroPads (s : State) (b : Block) (n base : Nat) : State :=
  let wide := fieldAt n 0x34 2 + fieldAt n 0x1E 2 + fieldAt n 0x36 2
  let total := (fieldAt n 0x30 2 + fieldAt n 0x1C 2 + fieldAt n 0x32 2) * wide
  let data := entryGranules n
  if data.length = total then s
  else s.updCore b.core fun c =>
    { c with spad := ((List.range total).filter fun g => !data.contains g).foldl (fun m g => m.clear (b.pbase + base + 64 * g) (b.pbase + base + 64 * g + 64)) c.spad }

/-- The itinerary copy whose tile has been allocated issues (R177, R185): its handle is deposited and its pads are written, once no granule
of it has 15 copies in flight. -/
def State.issueTile (s : State) (key : Nat) : State :=
  let b := s.block key
  match b.alloc, b.nextCopy with
  | some (pool, t), some (stage, entry, rep) =>
    let n := b.itinEntry entry
    let base := b.tileOffset pool t + fieldAt n 0x28 4
    if b.itinOff || (entryGranules n).any (fun g => 15 ≤ (s.core b.core).inflight.get 0 ((b.pbase + base) / 64 + g)) then s
    else
      let s := (s.zeroPads b n base).countCore b.core 53
      let h := handleOf pool t (b.tile (tileKey pool t)).gen
      let s := s.updBlock key fun b => { b with alloc := none, handles := b.handles ++ [BitVec.ofNat 32 h] }
      s.startCopy key entry rep base (entryGranules n) (b.stageClock stage)
  | _, _ => s

/-- Gives an allocated tile to a waiter (R185, R197, R225). -/
def State.serve (s : State) (key : Nat) (q : Waiter) (pool t : Nat) : State :=
  let b := s.block key
  let tile := b.tile (tileKey pool t)
  let h := handleOf pool t tile.gen
  let s := s.updBlock key fun b =>
    { b with tiles := b.tiles.set (tileKey pool t) { tile with count := q.reads, pend := 0, free := false, byEntry := false } }
  let s := s.countCore b.core 48
  let clock := if q.clock.ult tile.clock then tile.clock else q.clock
  match q.who with
  | .talloc _ dst ms =>
    let s := s.fillScalars dst (BitVec.ofNat 64 h) ms
    s.releaseWhere clock fun _ _ p => p.place = .talloc q.id
  | .copy _ _ => (s.updBlock key fun b => { b with alloc := some (pool, t) }).issueTile key
  | .adrain _ e =>
    let s := s.fillScalars e.dst (BitVec.ofNat 64 h) e.wins
    let s := s.releaseWhere clock fun _ _ p => p.place = .talloc q.id
    s.joinQueue b.core { e with a := b.tileOffset pool t, wins := [] }

/-- Serves a partition's waiter queue while its head can be served (R197, R376). -/
def State.serveQueue (s : State) (key part : Nat) : Nat → State
  | 0 => s
  | n + 1 =>
    let b := s.block key
    match b.waiters.get [] part, b.free.get [] part with
    | q :: qs, t :: ts =>
      if s.floorAbove b q.clock then
        let s := s.updBlock key fun b => { b with waiters := b.waiters.set part qs, free := b.free.set part ts }
        State.serveQueue (s.serve key q (part / 8) t) key part n
      else s
    | _, _ => s

/-- The return test of a tile (R193): it joins the tail of its free list, and the head waiter is served. -/
def State.returnTest (s : State) (key pool t : Nat) (clock : DWord) (byEntry : Bool := false) : State :=
  match s.block? key with
  | none => s
  | some b =>
    let x := b.tile (tileKey pool t)
    if x.free || x.count != 0 || x.pend != 0 || s.tileBusy b pool t then s
    else
      let part := pool * 8 + (poolOf b.record pool).partOf t
      let s := s.updBlock key fun b =>
        { b with
          tiles := b.tiles.set (tileKey pool t) { x with gen := (x.gen + 1) % 64, free := true, clock := clock, byEntry := byEntry }
          free := b.free.set part (b.free.get [] part ++ [t]) }
      let s := s.countCore b.core 49
      s.serveQueue key part ((s.block key).waiters.get [] part).length

/-- What is wrong with a consuming use of a tile (R192, R193): TILE_OVERREAD. -/
def Block.overread (b : Block) (pool t : Nat) (gen : Option Nat) : Bool :=
  let x := b.tile (tileKey pool t)
  x.free || x.count = 0 || (match gen with | some g => g != x.gen | none => false)

/-- One consuming read is counted (R193): count down, pend up, and the read is in flight. -/
def State.beginRead (s : State) (key pool t : Nat) (clock : DWord) : Nat × State :=
  let (id, s) := s.draw
  (id, s.updBlock key fun b =>
    let x := b.tile (tileKey pool t)
    { b with
      tiles := b.tiles.set (tileKey pool t) { x with count := x.count - 1, pend := x.pend + 1 }
      reads := b.reads ++ [{ id := id, tile := tileKey pool t, clock := clock }] })

/-- A consuming read completes (R193): pend falls, and the return test is made. -/
def State.endRead (s : State) (key id : Nat) : State :=
  match (s.block key).reads.find? fun r => r.id = id with
  | none => s
  | some r =>
    let s := s.updBlock key fun b =>
      let x := b.tile r.tile
      { b with tiles := b.tiles.set r.tile { x with pend := x.pend - 1 }, reads := b.reads.filter fun q => q.id != id }
    s.returnTest key (r.tile / 2048) (r.tile % 2048) r.clock

/-- Consuming reads of a matrix entry, which complete in one cycle (R276): the tiles that their returns free join their lists in ascending index. -/
def State.endReads (s : State) (key : Nat) (ids : List Nat) : State :=
  let rs := (s.block key).reads.filter fun r => ids.contains r.id
  let s := s.updBlock key fun b => { b with
    tiles := rs.foldl (fun (m : Map Tile) r => m.modify r.tile fun x => { x with pend := x.pend - 1 }) b.tiles
    reads := b.reads.filter fun q => !ids.contains q.id }
  (ascending (rs.map (·.tile))).foldl (fun (s : State) t =>
    s.returnTest key (t / 2048) (t % 2048) ((rs.filter fun r => r.tile = t).foldl (fun (m : DWord) r => if m.ult r.clock then r.clock else m) 0) true) s

/-- An allocation request joins its partition's waiter queue: by arrival, or by key in D-mode (R197, R376). -/
def State.joinWaiters (s : State) (key part : Nat) (q : Waiter) : State :=
  let b := s.block key
  let l := b.waiters.get [] part
  let before := fun (x : Waiter) => !s.dmode b || x.clock.toNat < q.clock.toNat || (x.clock = q.clock && x.index ≤ q.index)
  let s := s.updBlock key fun b => { b with waiters := b.waiters.set part (l.takeWhile before ++ [q] ++ l.dropWhile before) }
  s.serveQueue key part (l.length + 1)

/-! ## Barrier objects (R241 to R246) -/

/-- Epoch, need, left and due of an object's word (R241). -/
structure BarObj where
  epoch : Nat
  need  : Nat
  left  : Nat
  due   : Nat

/-- The fields of a word. -/
def BarObj.of (n : Nat) : BarObj :=
  { epoch := n / 2 ^ 52 % 2 ^ 12, need := n / 2 ^ 39 % 2 ^ 13, left := n / 2 ^ 26 % 2 ^ 13, due := n % 2 ^ 26 }

/-- The word of the fields. -/
def BarObj.word (o : BarObj) : Nat :=
  o.epoch % 2 ^ 12 * 2 ^ 52 + o.need % 2 ^ 13 * 2 ^ 39 + o.left % 2 ^ 13 * 2 ^ 26 + o.due % 2 ^ 26

/-- The arrivals of an epoch: 0 and values above 4,096 act as 4,096 (R241). -/
def BarObj.needed (n : Nat) : Nat := if n = 0 || 4096 < n then 4096 else n

/-- The completion test (R244), and whether it passed. -/
def BarObj.test (o : BarObj) : BarObj × Bool :=
  if o.left = 0 && o.due = 0 then
    ({ o with epoch := (o.epoch + 1) % 4096, left := BarObj.needed o.need, due := 0 }, true)
  else (o, false)

/-- Whether an epoch has reached a target (R245). -/
def reached (epoch t : Nat) : Bool := (epoch + 4096 - t % 4096) % 4096 < 2048

/-- The object at an absolute scratchpad offset. -/
def State.barObj (s : State) (core o : Nat) : BarObj := BarObj.of (numOf ((s.core core).readSpad o 8))

/-- Releases the lanes that wait for the object and whose target is reached (R245). -/
def State.wakeBarrier (s : State) (core o : Nat) (clock : DWord) : State :=
  let e := (s.barObj core o).epoch
  s.releaseWhere clock fun _ _ p => match p.place with
    | .mbwait c x t own _ _ _ => c = core && x = o && reached e t && (match s.block? own with | some b => !b.ended | none => false)
    | _ => false

/-- The object takes a change of a clock: the word, the completion test, the waiters (R243 to R245), and the clocks of R374: the largest of
all changes, and that of the changes up to the last completion. -/
def State.changeBar (s : State) (core o : Nat) (new : BarObj) (clock : DWord) : State :=
  let (x, passed) := new.test
  let s := s.writeSpad core o (bytesOf 8 x.word)
  let (run, done) := (s.core core).mbclock.get (0, 0) o
  let run := if run.ult clock then clock else run
  let done := if passed then run else done
  let s := s.updCore core fun c => { c with mbclock := c.mbclock.set o (run, done), marks := if c.marks.contains o then c.marks else o :: c.marks }
  let s := if passed then s.countCore core 55 else s
  s.wakeBarrier core o (if done.ult clock then clock else done)

/-- The completion test after a store to a word in use as a barrier object (R241, R244). -/
def State.storedBar (s : State) (core o : Nat) (clock : DWord) : State :=
  if (s.core core).marks.contains o then s.changeBar core o (s.barObj core o) clock else s

end Sys2Proof.Machine
end

