-- ==== Sys2Proof/Machine/Traps.lean ====
section
/-!
DEFINITION. Taking an exception and returning from one (R164 to R168, R268 to R275, R433), and the end of a block (R122,
R201, R381 to R383).
-/

namespace Sys2Proof.Machine

/-! ## Ends of blocks -/

/-- Whether a block folds its stores into its digest (R380). -/
def Block.folds (b : Block) : Bool := b.flag 2 || b.flag 4

/-- A block's digest as it is compared and carried, with the injected mask; 0 for a block that keeps none (R380, R401). -/
def State.digestOf (s : State) (b : Block) : DWord := if b.folds then b.digest ^^^ s.inject.get 0 b.ctx else 0

/-- Tiles abandoned at a block's end (R201): LIVE, or DRAIN with a read or a copy outstanding. -/
def State.abandoned (s : State) (b : Block) : Nat :=
  (b.tiles.filter fun e => !e.2.free && (e.2.count != 0 || e.2.pend != 0 || s.tileBusy b (e.1 / 2048) (e.1 % 2048))).length

/-- Releases the cloakroom room of a block (R305). -/
def State.dropRoom (s : State) (ctx key : Nat) : State :=
  s.updCtx ctx fun c => { c with rooms := c.rooms.filter fun r => r.core.isSome || r.blk != key }

/-- Removes an ended block once nothing of it is left: its copies, its reads and its matrix entries (R179, R201). -/
def State.retire (s : State) (key : Nat) : State :=
  match s.block? key with
  | none => s
  | some b =>
    if b.ended && b.rerun = 0 && b.copies.isEmpty && b.acp.isEmpty && b.reads.isEmpty
        && !((s.core b.core).mq ++ (s.core b.core).mwait).any (fun e => e.blk = key) then
      { s with blocks := s.blocks.del key }.dropRoom b.ctx key
    else s

/-- Chunks of one segment (R209), by the type of the entry. -/
def segmentChunks (type : Nat) : Nat := if type = 0 then 16 else if type ≤ 2 then 64 else 128

/-- Discards a block's unstarted matrix entries, and ends a started one at its segment (R210); entries that waited move up. -/
def State.dropEntries (s : State) (b : Block) (key : Nat) : State :=
  let c := s.core b.core
  let gone := (c.mq ++ c.mwait).filter fun e => e.blk = key && !e.started
  let keep := fun (e : MEntry) => e.blk != key || e.started
  let cut := fun (e : MEntry) => if e.blk = key then { e with limit := some (e.chunk + segmentChunks e.type) } else e
  let s := s.setCore b.core { c with mq := (c.mq.filter keep).map cut, mwait := c.mwait.filter keep }
  (s.moveUp b.core).endReads key (gone.flatMap fun e => e.readA.toList ++ e.readB.toList)

/-- Notes for PC sampling the warps of a block that exited since their slots' last samples (R417). -/
def State.noteGone (s : State) (key : Nat) : State :=
  let b := s.block key
  if (s.ctx b.ctx).sampling.k = 0 || 128 ≤ b.core then s
  else s.warps.foldl (fun (s : State) (e : Nat × Warp) =>
    if e.2.blk = key && e.2.live = 0 && !e.2.exitSeen then
      s.updCore b.core fun c => { c with gone := c.gone.set (e.1 % 32) (b.ctx, e.2.lclk, nameBytes b s.chip e.1 e.2.index 0xFF e.2.lastPc) }
    else s) s

/-- Removes the landing requests that a block posted, with a FLUSHED record for each that asks for a completion (R332). -/
def State.flushPosted (s : State) (key ctx : Nat) : State :=
  let mine := fun (p : Posted) => p.blk = some key && fieldAt p.body.toNat 0 1 % 2 = 1
  (s.posted.filter mine).foldl (fun (s : State) p =>
    let q := s.queues.get {} p.queue
    let (pc, cc, sq) := p.site
    let ring := if fieldAt p.body.toNat 0x20 8 = 0 then q.ring else BitVec.ofNat 64 (fieldAt p.body.toNat 0x20 8)
    if fieldAt p.body.toNat 0 1 / 4 % 2 = 0 || ring = 0 then s
    else s.addJob { id := 0, ctx := ctx, header := ring, queue := some p.queue, inc := p.inc, record := bytesOf 1 4 ++ bytesOf 1 0 ++ bytesOf 1 p.queue ++ bytesOf 1 4 ++ bytesOf 4 0 ++ bytesOf 4 p.number ++ bytesOf 4 sq ++ bytesOf 4 cc ++ bytesOf 4 0 ++ bytesOf 8 pc })
    { s with posted := s.posted.filter fun p => !mine p }

/-- A D-mode block of a grid has left its position: the next one there starts after its exit clock (R370, R371). -/
def State.leavePosition (s : State) (b : Block) : State :=
  if s.dmode b && b.kind = .kernel then
    let k := (b.grid * 128 + b.core) * 64 + b.pos
    { s with positions := s.positions.set k ((s.positions.get (0, 0) k).1 + 1, b.exitClk + 1) }
  else s

/-- A block's exit clock with the clocks of warps that its end exits (R153, R371). -/
def Block.exitAll (b : Block) (ws : List Warp) : Block :=
  { b with exitClk := ws.foldl (fun (m : DWord) (w : Warp) => if w.live != 0 && m.ult w.lclk then w.lclk else m) b.exitClk }

/-- Takes a block off its core (R122, R123): its warps and waiters go; lanes of other blocks that wait on its bytes through
the cluster window are to fault (R175, R246). -/
def State.removeBlock (s : State) (key : Nat) (abort : Bool) : State :=
  let b := s.block key
  let s := s.updBlock key fun b => { b with ended := true, itinOff := true, alloc := none, waiters := [], held := [] }
  let s := (if abort then s.dropEntries b key else s).noteGone key
  let s := s.updCore b.core fun c => { c with readmit := c.readmit.filter fun w => !b.wids.contains w }
  let late := s.warps.flatMap fun e => if e.2.blk = key then [] else
    (e.2.allParks.filter fun p => match p.place with
      | .mbwait _ _ _ o _ _ _ => o = key
      | .granule op => op.owners.contains key
      | _ => false).map fun p => (e.1, p, Code.spaceRange)
  let s := s.updBlock key fun b => b.exitAll ((s.warps.filter fun e => e.2.blk = key).map (·.2))
  let s := { s with
    warps := s.warps.filter fun e => e.2.blk != key
    ordered := s.ordered.filter fun o => o.blk != key
    late := s.late ++ late }
  let s := if b.alone then s else { s with spent := (b.grid, b.bid) :: s.spent }
  ((s.flushPosted key b.ctx).leavePosition (s.block key)).retire key

/-- Orders a DIGEST (R384). -/
def State.orderDigest (s : State) (b : Block) (kind result : Nat) (observed expected : DWord) (subject witness : Nat) : State :=
  s.originate 8 b.ctx (mkBody [(0, 1, kind), (1, 1, result), (2, 2, b.grid), (4, 4, b.bid), (8, 8, observed.toNat), (0x10, 8, expected.toNat), (0x18, 2, subject), (0x1A, 2, witness)])

/-- The block whose re-execution has ended: it waits for a witness, or is done with (R383, R385). -/
def State.closeRerun (s : State) (key st : Nat) (observed : DWord) : State :=
  (s.updBlock key fun b => { b with rerun := st, observed := observed }).retire key

/-- A block becomes FAULTED: a FAULT event, and it ends (R165, R201); a shadow run ends inconclusive (R386), a re-execution is
over (R383). -/
def State.faultBlock (s : State) (key code wid : Nat) (entry : DWord) : State :=
  match s.block? key with
  | none => s
  | some b =>
    if b.ended then s
    else if b.kind = .shadow then
      (s.orderDigest b 3 3 (s.digestOf b) b.expected b.subject s.chip).removeBlock key true
    else if b.kind = .rerun then ((s.orderFault b code wid entry).removeBlock key true).closeRerun b.rerunOf 0 0
    else (s.orderFault b code wid entry).removeBlock key true

/-- The expected digest of a block (R382): the table's entry, none where it cannot be read. -/
def State.expected (s : State) (b : Block) : Option DWord :=
  ((s.readVirt b.ctx ((recField b.record 0xA8 8 + 8 * b.bid) % 2 ^ 54) 8).1).map fun bs => BitVec.ofNat 64 (numOf bs)

/-- Orders a FINISH (R283). -/
def State.orderFinish (s : State) (b : Block) (status abandoned : Nat) : State :=
  s.originate 2 b.ctx (mkBody [(0, 2, b.grid), (2, 1, status), (4, 4, b.bid), (8, 8, (s.digestOf b).toNat), (0x10, 4, abandoned)])

/-! ## Exits (R153, R161) -/

/-- Lanes of a warp exit: their bits leave the mask registers and every parking place (R130, R153). -/
def Warp.exit (w : Warp) (W : Nat) (lanes : Lanes) : Warp :=
  let keep := fun (ps : List Park) => (ps.map fun p => { p with lanes := p.lanes &&& ~~~ lanes }).filter fun p => p.lanes != 0
  let w := { w with live := w.live &&& ~~~ lanes, pin := w.pin &&& ~~~ lanes, parks := keep w.parks, frame := w.frame.map fun f => { f with parks := keep f.parks, pin := f.pin &&& ~~~ lanes } }
  (List.range 12).foldl (fun w n => w.kset W n (w.kget n &&& ~~~ lanes)) w

/-- Whether every lane that is live and set in mask n is parked at a WAIT naming n (R154). -/
def Warp.waitDone (w : Warp) (n : Nat) : Bool :=
  let arrived := parkedOf (w.parks.filter fun p => p.place = .wait n)
  (w.live &&& w.kget n) &&& ~~~ arrived = 0

/-- The distinct PCs of a list of groups, ascending, with the lanes at each. -/
def pcGroups (ps : List Park) : Map Lanes :=
  ps.foldl (fun (m : Map Lanes) (p : Park) => m.set p.pc.toNat (m.get 0 p.pc.toNat ||| p.lanes)) []

/-- The lanes parked at WAITs on mask n leave, with `extra` lanes that stand at the WAIT at p: those of one WAIT go on as one
group (R155, R159). The rules give no order to the loop-end tests of several WAITs; the model takes them by ascending PC (assumption 57). -/
def Warp.releaseWaits (w : Warp) (W n : Nat) (extra : Lanes) (p : Addr54) : Warp :=
  let gs := pcGroups (w.parks.filter fun q => q.place = .wait n)
  let gs := if extra = 0 then gs else gs.set p.toNat (gs.get 0 p.toNat ||| extra)
  gs.foldl (fun (w : Warp) (g : Nat × Lanes) => w.complete W g.2 (BitVec.ofNat 54 g.1) 8) { w with parks := w.parks.filter fun q => q.place != .wait n }

/-- Releases the WAITs of a warp whose condition holds (R155). -/
def State.testWaits (s : State) (wid : Nat) : State :=
  (List.range 12).foldl (fun (s : State) (n : Nat) =>
    match s.warp? wid with
    | none => s
    | some w =>
      let ps := w.parks.filter fun p => p.place = .wait n
      if !ps.isEmpty && w.waitDone n then
        let top := ps.foldl (fun (m : DWord) (p : Park) => if m.ult p.clock then p.clock else m) 0
        let b := s.block w.blk
        s.updWarp wid fun w => { w.releaseWaits b.width n 0 0 with lclk := releaseClock (s.dmode b) w.lclk top }
      else s) s

/-! ## Fault records (R269 to R273) -/

/-- A fault record before it is written. -/
structure Rec where
  code    : Nat
  lane    : Nat := 0xFF
  width   : Nat := 0
  scope   : Nat := 0
  pc      : DWord := 0
  addr    : Option DWord := none
  space   : Nat := 0
  info    : Nat := 0
  members : Nat := 0
  lanes   : Lanes := 0
  body    : Option (List Byte) := none

/-- The 64 bytes of a record (R271). -/
def Rec.bytes (r : Rec) (b : Block) (wid index count : Nat) : List Byte :=
  let (spc, scc, sseq) := siteOf b.record
  bytesOf 1 r.code ++ bytesOf 1 r.lane ++ bytesOf 1 r.width ++ bytesOf 1 r.scope ++ bytesOf 2 index ++ bytesOf 2 count
    ++ bytesOf 8 r.pc.toNat ++ bytesOf 8 (r.addr.getD 0).toNat ++ bytesOf 4 b.bid ++ bytesOf 2 wid
    ++ bytesOf 1 (r.space + (if r.addr.isSome then 128 else 0)) ++ bytesOf 1 0
    ++ (match r.body with
      | some bs => (bs ++ bytesOf 32 0).take 32
      | none => bytesOf 4 r.info ++ bytesOf 4 r.members ++ bytesOf 8 r.lanes.toNat ++ bytesOf 4 sseq ++ bytesOf 4 scc ++ bytesOf 8 spc)

/-- The records of a group, from an index on. -/
def groupBytes (b : Block) (wid count : Nat) : Nat → List Rec → List Byte
  | _, [] => []
  | i, r :: q => r.bytes b wid i count ++ groupBytes b wid count (i + 1) q

/-- The kind number of a parking place (R139). -/
def Place.kind : Place → Nat
  | .rendezvous _ _ _ => 1 | .wait _ => 2 | .mbwait _ _ _ _ _ _ _ => 3 | .talloc _ => 4 | .ring _ => 5 | .evwait _ _ _ => 6 | .granule _ => 7

/-- The word of a lane in a frame image (R270). -/
def laneWord (live : Lanes) (parks : List Park) (pcs : Map Addr54) (i : Nat) : Nat :=
  if !inSet live i then 0
  else
    let p := (pcs.get 0 i).toNat
    match parks.find? fun k => inSet k.lanes i with
    | none => p
    | some k => k.place.kind * 2 ^ 60 + (match k.place with | .wait m => m * 2 ^ 56 | _ => 0) + p

/-- The 32 bytes of a loop stack as a frame image shows it (R269). -/
def loopBytes (loops : List LoopEntry) : List Byte :=
  (List.range 4).flatMap fun i => bytesOf 8 (match loops[i]? with | some e => (loopWord e).toNat | none => 0)

/-- The %wid table of a frame image (R269). -/
def State.widTable (s : State) (b : Block) : List Byte :=
  (List.range 32).flatMap fun i => bytesOf 2 (match b.wids[i]? with
    | some wid => match s.warp? wid with
      | some w => if w.live = 0 then 0xFFFF else wid
      | none => 0xFFFF
    | none => 0xFFFF)

/-- The frame image of a warp (R269). -/
def State.frameImage (s : State) (w : Warp) (b : Block) (faulting : Lanes) : List Byte :=
  bytesOf 8 w.live.toNat ++ bytesOf 8 (parkedOf w.parks).toNat ++ bytesOf 8 w.pin.toNat ++ bytesOf 8 faulting.toNat
    ++ loopBytes w.loops ++ bytesOf 1 w.loops.length ++ bytesOf 63 0 ++ s.widTable b
    ++ (List.range 64).flatMap fun i => bytesOf 8 (laneWord w.live w.parks w.pcs i)

/-- The lanes that have a record of their own. -/
def faultingLanes : List Rec → Lanes
  | [] => 0
  | r :: q => if r.lane < 64 then insSet (faultingLanes q) r.lane else faultingLanes q

/-- The address of a warp's fault area entry (R268). -/
def State.faultEntry (s : State) (b : Block) (wid : Nat) : Nat := (s.ctx b.ctx).faultBase + wid * 0x2000

/-- A warp with every result that has come delivered (R135, R164). -/
def Warp.flush (w : Warp) (W : Nat) : Warp :=
  let w := w.windows.foldl (fun w x => if x.ready && !x.done then w.writeAll W x.writes else w) w
  { w with windows := (w.windows.filter fun x => !x.ready).map fun x => { x with left := [], leftS := 0 } }

/-- Writes a warp's fault area entry and sets %fault (R268): none where it cannot be written. -/
def State.writeEntry (s : State) (wid : Nat) (recs : List Rec) : Option State :=
  match s.warp? wid with
  | none => some s
  | some w =>
    let b := s.block w.blk
    let at_ := s.faultEntry b wid
    match s.writeVirt b.ctx at_ (s.frameImage w b (faultingLanes recs)) with
    | none => none
    | some s1 => (s1.writeVirt b.ctx (at_ + 0x2C0) (groupBytes b wid recs.length 0 recs)).map fun s2 =>
        s2.updWarp wid fun w => { w with fault := BitVec.ofNat 64 (s.chip * 2 ^ 54 + at_ + 0x2C0), records := recs.length }

/-- What is due at a warp before a trap handler's first instruction (R135, R155): the results that have come are delivered, and the
WAITs whose mask they write are tested. -/
def State.flushWarp (s : State) (wid : Nat) : State :=
  (s.updWarp wid fun w => w.flush (s.block w.blk).width).testWaits wid

/-- Whether the fault area entry of a warp stands on a migrating page (R300). -/
def State.entryMigrating (s : State) (wid : Nat) : Bool :=
  match s.warp? wid with
  | none => false
  | some w => s.translateEngine (s.block w.blk).ctx (s.faultEntry (s.block w.blk) wid) .write = .migrating

/-- Steps 3 and 4 of a trap entry (R164): the frame takes the lanes' state, and every live lane starts at %tvec. -/
def Warp.startHandler (w : Warp) (W : Nat) : Warp :=
  let f : Frame := { pcs := w.pcs, parks := w.parks, pin := w.pin, loops := w.loops }
  { w with frame := some f, parks := [], pin := 0, loops := [] }.setPcs (BitVec.ofNat 54 w.tvec.toNat) (members W w.live)

/-- Whether a result is still owed to a parked group: its window belongs to what the group waits for. -/
def State.owedToPark (s : State) (blk wid id : Nat) : Place → Bool
  | .granule op => op.wins.contains (wid, id)
  | .ring r => r.wins.contains (wid, id)
  | .evwait _ _ n => n = id
  | .talloc n => (s.block blk).waiters.any fun e => e.2.any fun q => q.id = n && match q.who with
      | .talloc _ _ ms => ms.contains (wid, id)
      | .adrain _ x => x.wins.contains (wid, id)
      | .copy _ _ => false
  | _ => false

/-- Whether a warp has a long-latency result that has not come (R135, R164), other than those that its parked groups wait for. -/
def State.owed (s : State) (wid : Nat) : Bool :=
  (s.warp? wid).any fun w => w.windows.any fun x => !x.ready && !x.done && !w.parks.any fun p => s.owedToPark w.blk wid x.id p.place

/-- Why a trap entry in the warps of a list, the handler's first, has to wait: `some (some a)` for the migrating page of an entry at a
(R300, R315), `some none` for results that have not come (R164). A double fault waits for its own entry alone. -/
def State.trapHold (s : State) : List Nat → Option (Option Addr54)
  | [] => none
  | h :: r =>
    let at_ := fun (wid : Nat) => BitVec.ofNat 54 (s.faultEntry (s.block (s.warps.get {} wid).blk) wid)
    if (s.warp? h).any fun w => (s.block w.blk).kind = .shadow then none
    else if (s.warp? h).any fun w => w.frame.isSome then (if s.entryMigrating h then some (some (at_ h)) else none)
    else match (h :: r).find? s.entryMigrating with
      | some wid => some (some (at_ wid))
      | none => if (h :: r).any s.owed then some none else none

/-- A trap entry, or, where it has to wait, the state before the issue that raises it: stalled for a page until its migration has ended,
or to be tried again (R164, R300). -/
def State.unlessHeld (s back : State) (wids : List Nat) (t : State) : State :=
  match s.trapHold wids with
  | none => t
  | some none => back
  | some (some va) => wids.foldl (fun (s : State) (wid : Nat) => s.updWarp wid fun w => { w with migrating := some va }) back

/-- A double fault (R165, R274): the DOUBLE_FAULT record after the group's last, with the scope, members and lanes of the
faulting issue, and the block FAULTED. A record that cannot be written is left out, and the FAULT event still names the entry
(assumption 56). -/
def State.doubleFault (s : State) (wid : Nat) (pc : Addr54) (f : Rec) : State :=
  match s.warp? wid with
  | none => s
  | some w =>
    let b := s.block w.blk
    let r : Rec := { code := Code.doubleFault, pc := BitVec.ofNat 64 pc.toNat, info := f.code, scope := f.scope, members := f.members, lanes := f.lanes }
    let entry := s.faultEntry b wid
    let s := (s.writeVirt b.ctx (entry + 0x2C0 + 64 * w.records) (r.bytes b wid w.records (w.records + 1))).getD s
    s.faultBlock w.blk Code.doubleFault wid (BitVec.ofNat 64 (s.chip * 2 ^ 54 + entry))

/-- The code of the first record of a fault. -/
def firstCode (recs : List Rec) : Nat := (recs.head?.map (·.code)).getD 0

/-- Enters trap mode in one warp (R164, R300, R165); `code` is the fault's own where the warp holds no record of it. -/
def State.enterTrap (s : State) (wid : Nat) (pc : Addr54) (recs : List Rec) (code : Nat := firstCode recs) : State :=
  match s.warp? wid with
  | none => s
  | some w =>
    let W := (s.block w.blk).width
    if (s.block w.blk).kind = .shadow then s.faultBlock w.blk code wid 0
    else if w.frame.isSome then s.doubleFault wid pc (recs.headD { code := 0 })
    else
      let s := s.flushWarp wid
      match s.writeEntry wid recs with
      | none => s.faultBlock w.blk code wid 0
      | some s => (((s.updWarp wid fun w => w.startHandler W).countCore (coreOf wid) 60).addCore (coreOf wid) 61 recs.length)

/-- Writes the entries of the other members of a collective, and suspends them (R134, R272): none where one cannot be written. -/
def State.suspendMembers (s : State) (handler : Nat) : List (Nat × List Rec) → Option State
  | [] => some s
  | (wid, recs) :: r =>
    match (s.flushWarp wid).writeEntry wid recs with
    | none => none
    | some s => State.suspendMembers (s.updWarp wid fun w => { w with suspended := some handler }) handler r

/-- A fault of a collective (R134): the handler runs in the first warp of the list, the lowest-numbered member; the others
are suspended. An entry that cannot be written makes the block FAULTED (R300). -/
def State.enterTrapAll (s : State) (pc : Addr54) : List (Nat × List Rec) → State
  | [] => s
  | (wid, recs) :: r =>
    match s.warp? wid with
    | none => s
    | some w =>
      if w.frame.isSome then s.doubleFault wid pc (recs.headD { code := 0 })
      else
        let code := firstCode (recs ++ r.flatMap (·.2))
        if (s.block w.blk).kind = .shadow then s.enterTrap wid pc recs code
        else match s.suspendMembers wid r with
          | some s => s.enterTrap wid pc recs code
          | none => s.faultBlock w.blk code wid 0

/-! ## Asynchronous faults (R433) -/

/-- The record of an asynchronous fault (R272). -/
def AsyncFault.rec_ (f : AsyncFault) : Rec :=
  { code := f.code, info := f.info, pc := f.pc, addr := f.addr, space := f.space, body := f.body, scope := f.scope, width := f.width, lanes := f.lanes, members := f.members }

/-- The warp that takes a block's next asynchronous fault (R433): its lowest-numbered unexited warp that is neither in trap mode
nor suspended. -/
def State.asyncTarget (s : State) (b : Block) : Option Nat :=
  b.wids.find? fun wid => match s.warp? wid with
    | some w => w.live != 0 && w.frame.isNone && w.suspended.isNone
    | none => false

/-- Whether a warp stands at a boundary where a fault can be delivered. -/
def State.atBoundary (s : State) (wid : Nat) : Bool :=
  match s.warp? wid with
  | none => false
  | some w => (s.block w.blk).started && w.offcore.isNone && !w.halted && w.waits.isEmpty && w.fence.isNone && w.migrating.isNone

/-- Delivers the oldest fault that a block holds, to the warp chosen for it, at its boundary (R433). The warp waits there for results that
are owed to it (R164), and for a migrating page of its entry (R300). -/
def State.deliverAsync (s : State) (blk : Nat) : State :=
  let b := s.block blk
  match b.held, s.asyncTarget b with
  | f :: r, some wid =>
    if s.atBoundary wid then
      s.unlessHeld s [wid] ((s.updBlock blk fun b => { b with held := r }).enterTrap wid (((s.warp? wid).bind fun w => w.selectedPc b.width).getD 0) [f.rec_])
    else s
  | _, _ => s

/-! ## The end of a warp (R122, R161) -/

/-- The end of a re-execution (R383): DIGEST and FINISH where the new digest is the entry, otherwise a FAULT, or the request for a
witness. -/
def State.endRerun (s : State) (key wid status gone : Nat) (b : Block) : State :=
  let new := s.digestOf b
  let o := s.block b.rerunOf
  let abort := status = 1
  if abort then ((s.orderFinish b status gone).removeBlock key true).closeRerun b.rerunOf 0 0
  else if new = o.expected then
    ((((s.orderDigest b 1 0 new o.expected s.chip 0).orderFinish b status gone).removeBlock key false).closeRerun b.rerunOf 0 0)
  else if !b.flag 3 then
    ((s.orderFault b Code.digestMismatch wid (BitVec.ofNat 64 (s.chip * 2 ^ 54 + s.faultEntry b wid))).removeBlock key false).closeRerun b.rerunOf 0 0
  else
    let s := ((s.orderDigest b 2 0 new o.expected s.chip 0).removeBlock key false).closeRerun b.rerunOf 4 new
    s.updBlock b.rerunOf fun o => { o with folded := gone }

/-- The end of a shadow run (R386). -/
def State.endShadow (s : State) (key : Nat) (b : Block) : State :=
  let new := s.digestOf b
  let result := if new = b.expected then 0 else if new = b.observed then 1 else 2
  (s.orderDigest b 3 result new b.expected b.subject s.chip).removeBlock key false

/-- The digest check of a block whose last warp has exited (R382, R383): FINISH where it passes; a mismatch holds the FINISH back for
re-execution, a table entry on a migrating page holds the check back; what its end discards is discarded at once (R201). -/
def State.checkDigest (s : State) (key wid gone : Nat) (b : Block) : State :=
  let entry := BitVec.ofNat 64 (s.chip * 2 ^ 54 + s.faultEntry b wid)
  match s.expected b with
  | some x =>
    if s.virtError b.ctx ((recField b.record 0xA8 8 + 8 * b.bid) % 2 ^ 54) 8 then s.faultBlock key Code.machineCheck wid entry
    else if s.digestOf b = x then (s.orderFinish b 0 gone).removeBlock key false
    else
      let s := (s.writeEntry wid [{ code := Code.digestMismatch, pc := 0, info := 1 }]).getD s
      (s.updBlock key fun b => { b with expected := x, observed := s.digestOf b, rerun := 1 }).removeBlock key false
  | none =>
    let t := s.translateEngine b.ctx ((recField b.record 0xA8 8 + 8 * b.bid) % 2 ^ 54) .read
    if t = .migrating then s.updBlock key fun b => { b with rerun := 3, lastWid := wid, itinOff := true, alloc := none, waiters := [] }
    else s.faultBlock key (if t = .permission then Code.permission else Code.pageFault) wid entry

/-- Ends a block whose last warp has exited, or that an abort ends (R122, R381 to R383). -/
def State.endBlock (s : State) (key wid status : Nat) : State :=
  match s.block? key with
  | none => s
  | some b =>
    let gone := s.abandoned b
    let s := s.addCore b.core 52 gone
    let s := s.updBlock key fun b => { b with folded := gone }
    if b.kind = .shadow then s.endShadow key b
    else if b.kind = .rerun then s.endRerun key wid status gone b
    else if status = 0 && b.flag 2 then s.checkDigest key wid gone b
    else (s.orderFinish b status gone).removeBlock key (status = 1)

/-- Tries the digest checks of a context again whose table entry waits for a migrating page that a test picks (R315, R382). -/
def State.retryDigests (s : State) (ctx : Nat) (test : Addr54 → Bool) : State :=
  s.blocks.foldl (fun (s : State) (e : Nat × Block) =>
    if e.2.ctx = ctx && e.2.rerun = 3 && test (BitVec.ofNat 54 (recField e.2.record 0xA8 8 + 8 * e.2.bid)) then (s.updBlock e.1 fun b => { b with rerun := 0 }).checkDigest e.1 e.2.lastWid e.2.folded e.2 else s) s

/-- Lanes of a warp exit; a block whose last warp has exited ends (R122, R161). A TALLOC whose parked lanes exit (TRET.kill) stays in its
partition's waiter queue and is served in its turn (assumption 58). -/
def State.exitLanes (s : State) (wid : Nat) (lanes : Lanes) : State :=
  match s.warp? wid with
  | none => s
  | some w =>
    let b := s.block w.blk
    let s := s.updWarp wid fun w => (w.exit b.width lanes).trimPin
    let s := s.updBlock w.blk fun b => { b with exitClk := if b.exitClk.ult w.lclk then w.lclk else b.exitClk }
    let s := s.testWaits wid
    if b.wids.all fun v => match s.warp? v with | some w => w.live = 0 | none => true then s.endBlock w.blk wid 0 else s

/-! ## Return from an exception (R168) -/

/-- A warp back in its frame (R168 .all). -/
def Warp.resume (w : Warp) : Warp :=
  match w.frame with
  | none => w
  | some f => { w with frame := none, pcs := f.pcs, parks := f.parks, pin := f.pin, loops := f.loops }

/-- Resumes a handler's warp and the members that its fault suspended; under .kill each first loses the lanes of the
handler's mask (R134, R168). What was woken while it stood in the frame is then released (R164). -/
def State.trapReturn (s : State) (wid : Nat) (kill : Lanes) : State :=
  let others := (s.warps.filter fun e => e.2.suspended = some wid).map (·.1)
  let s := s.updWarp wid fun w => w.resume
  let s := others.foldl (fun s v => s.updWarp v fun w => { w with suspended := none }) s
  let s := (wid :: others).foldl (fun s v =>
    match s.warp? v with
    | none => s
    | some w => if kill &&& w.live = 0 then s.testWaits v else s.exitLanes v (kill &&& w.live)) s
  s.updWarp wid fun w => w.releaseWoken (s.shape w).1 (s.shape w).2

end Sys2Proof.Machine
end

