-- ==== Sys2Proof/Machine/Debug.lean ====
section
/-!
DEFINITION. Hits and stops of a debugger's claim (R403 to R416) and watchpoints (R408, R409).
-/

namespace Sys2Proof.Machine

/-- The 32 detail bytes of hit kinds 1, 2, 4 and 5: depth and remaining counts (R413). -/
def Warp.stopDetail (w : Warp) : List Byte :=
  bytesOf 4 w.loops.length ++ (List.range 4).flatMap (fun i => bytesOf 4 ((w.loops[i]?.map fun e => e.remaining.toNat).getD 0)) ++ bytesOf 12 0

/-- The name of a warp at a PC (R402). -/
def State.warpName (s : State) (wid lane : Nat) (pc : Addr54) : List Byte :=
  match s.warp? wid with
  | none => bytesOf 40 0
  | some w => nameBytes (s.block w.blk) s.chip wid w.index lane pc

/-- Writes a record to a claim's debug ring, which never waits (R413). -/
def State.debugRecord (s : State) (ctx kind status number core stopno skid : Nat) (name detail : List Byte) : State :=
  match (s.ctx ctx).claim with
  | none => s
  | some c => s.record ctx c.ring (bytesOf 1 kind ++ bytesOf 1 status ++ bytesOf 2 number ++ bytesOf 1 core ++ bytesOf 1 c.kind ++ bytesOf 2 0
      ++ bytesOf 8 s.clock.time ++ bytesOf 4 stopno ++ bytesOf 4 skid ++ name ++ detail)

/-- A block is marked halted by a stop (R410, R411); one that is halted keeps the number of its stop. -/
def Block.markHalted (b : Block) (stopno : Nat) (swap : Bool) : Block :=
  { b with halted := true, swap := b.swap || swap, stopno := if b.halted then b.stopno else stopno }

/-- Halts every warp of a block at its boundary (R410, R411): a fault that waits for that boundary enters trap mode first (R414). -/
def State.haltBlock (s : State) (key stopno : Nat) (swap : Bool) : State :=
  let s := (s.block key).wids.foldl (fun (s : State) _ => s.deliverAsync key) s
  let s := s.updBlock key fun b => b.markHalted stopno swap
  { s with warps := s.warps.map fun e => if e.2.blk = key then (e.1, { e.2 with halted := true }) else e }

/-- The cores of a cluster. -/
def clusterCores (c : Nat) : List Nat := (List.range 4).map fun i => 4 * c + i

/-- Starts the stop of a hit (R410, R411, R420): `blk` is the hit block, `others` are stopped with it under swap-out. A cluster-stop marks
the hit block at once, so that a save before the broadcast leaves it halted (R414). -/
def State.startStop (s : State) (ctx blk core kind stopno : Nat) (others : List Nat) : State :=
  match kind with
  | 0 => (blk :: others).foldl (fun s k => s.haltBlock k stopno true) s
  | 1 =>
    let s := { s with warps := s.warps.map fun (e : Nat × Warp) => if clusterOf (coreOf e.1) = clusterOf core then (e.1, { e.2 with skid := 0 }) else e }
    let s := s.updBlock blk fun b => b.markHalted stopno false
    s.updCtx ctx fun c => { c with stopping := c.stopping ++ [(stopno, clusterCores (clusterOf core))] }
  | _ => { s with platform := { s.platform with frozen := true } }

/-- The number of the stop of a block, or of its core's cluster, that is in progress (R414). -/
def State.stopInProgress (s : State) (ctx blk core : Nat) : Option Nat :=
  if (s.block blk).halted then some (s.block blk).stopno
  else ((s.ctx ctx).stopping.find? fun x => x.2.any fun c => clusterOf c = clusterOf core).map (·.1)

/-- A hit under a claim (R403, R413, R414): the hit record, with the core of its subject, then the stop unless one is in progress. -/
def State.hit (s : State) (ctx blk core kind number subject : Nat) (name detail : List Byte) (others : List Nat) : State :=
  match (s.ctx ctx).claim with
  | none => s
  | some c => match s.stopInProgress ctx blk core with
    | some n => s.debugRecord ctx kind 0 number subject n 0 name detail
    | none =>
      let n := c.stops + 1
      let s := s.updCtx ctx fun x => { x with claim := some { c with stops := n } }
      (s.debugRecord ctx kind 0 number subject n 0 name detail).startStop ctx blk core c.kind n others

/-- A warp's own hit under a claim: comparator, BKPT or HALT (R407). The warp stops where it stands; `pass` sets its pass flag for the PC of
the hit. -/
def State.warpHit (s : State) (wid kind number : Nat) (pc : Addr54) (pass : Bool) : State :=
  match s.warp? wid with
  | none => s
  | some w =>
    let b := s.block w.blk
    (s.updWarp wid fun w => { w with pass := if pass then some pc else none, halted := true, stopSt := 4 }).hit b.ctx w.blk (coreOf wid) kind number (coreOf wid)
      (s.warpName wid 0xFF pc) w.stopDetail []

/-- Who performs a watched access (R408): kind 0 a warp, 1 the matrix engine, 2 the copy unit, 3 the porter; for a warp, what a record takes
from its issue (R271). -/
structure Accessor where
  kind : Nat
  wid  : Nat := 0xFFFF
  pc   : Addr54 := 0
  core : Nat := 0
  scope : Nat := 0
  width : Nat := 0
  lanes : Lanes := 0
  members : Nat := 0

/-- How many distinct bytes ranges cover, given by rising start: `end_` is where the bytes counted so far end. -/
def coverLen (end_ : Nat) : List (Nat × Nat) → Nat
  | [] => 0
  | (lo, hi) :: r => (hi - max lo end_) + coverLen (max hi end_) r

/-- One watchpoint against the ranges (lane, absolute scratchpad offset, bytes) that one access touches; kind 1 read, 2
write, 3 atomic (R408, R409). The range that is watched is one of the block's partition, and ends with it. -/
def State.watchOne (s : State) (ctx num : Nat) (x : Watch) (core kind : Nat) (a : Accessor) (ts : List (Nat × Nat × Nat)) : State :=
  match s.blocks.find? fun e => e.2.ctx = ctx && e.2.grid = x.grid && e.2.bid = x.bid && e.2.core = core && !e.2.ended with
  | none => s
  | some (key, b) =>
    let base := b.pbase + x.lo
    let top := b.pbase + min (x.lo + x.len) b.psize
    let ts := ts.filter fun t => max t.2.1 base < min (t.2.1 + t.2.2) top
    match ts with
    | [] => s
    | (lane, _, _) :: _ =>
      if !(if kind = 1 then x.rd else if kind = 2 then x.wr else x.at_) then s
      else
        let s := s.countCore core 39
        let rs := sortBy (fun (p q : Nat × Nat) => p.1 < q.1) (ts.map fun t => (max t.2.1 base, min (t.2.1 + t.2.2) top))
        let off := (rs.head?.map (·.1)).getD base - b.pbase
        let n := coverLen 0 rs
        if (s.ctx ctx).claim.isSome then
          let name := if a.kind = 0 then s.warpName a.wid lane a.pc else nameBytes b s.chip 0xFFFF 0xFF 0xFF 0
          let detail := bytesOf 4 b.bid ++ bytesOf 2 b.grid ++ bytesOf 1 kind ++ bytesOf 1 a.kind ++ bytesOf 4 off ++ bytesOf 4 n ++ bytesOf 16 0
          let others := if a.kind = 0 then (match s.warp? a.wid with | some w => if w.blk = key then [] else [w.blk] | none => []) else []
          s.hit ctx key core 3 num a.core name detail others
        else
          s.hold key { code := Code.watchpoint, info := num + kind * 4 + a.core * 2 ^ 8 + a.wid * 2 ^ 16, pc := BitVec.ofNat 64 a.pc.toNat, addr := some (BitVec.ofNat 64 off), space := 1, scope := a.scope, width := a.width, lanes := a.lanes, members := a.members }

/-- The watchpoints of every context against an access of a core's scratchpad (R408). -/
def State.watchAccess (s : State) (core kind : Nat) (a : Accessor) (ts : List (Nat × Nat × Nat)) : State :=
  s.ctxs.foldl (fun (s : State) (c : Nat × Ctx) => c.2.watches.foldl (fun (s : State) (x : Nat × Watch) => s.watchOne c.1 x.1 x.2 core kind a ts) s) s

/-- The comparator that hits at a PC of a context (R406): the lowest number. -/
def State.comparatorAt (s : State) (ctx : Nat) (pc : Addr54) : Option Nat :=
  ((s.ctx ctx).comps.find? fun e => e.2.pc = pc).map (·.1)

end Sys2Proof.Machine
end

