-- ==== Sys2Proof/Machine/Ops.lean ====
section
/-!
DEFINITION. One issue of a fetched instruction: the faults before the effect in the order of R47 and R147, the rendezvous of
R130 to R134, the lookahead window of R135, then the effect, then completion with the loop-end test of R159.
-/

namespace Sys2Proof.Machine

/-- A member warp of an issue: its rank (R124), its participating lanes (R82), the lanes that complete the instruction
(R148), and its clock before the issue counts (R373). -/
structure Part where
  wid   : Nat
  rank  : Nat
  lanes : Lanes
  sel   : Lanes
  clock : DWord
  pass  : Bool := false

/-- An issue: the instruction's place, its member warps in ascending rank, and the block. -/
structure Cx where
  wid   : Nat
  blk   : Nat
  W     : Nat
  op    : Op
  e     : Enc
  pc    : Addr54
  len   : Nat
  parts : List Part
  dmode : Bool
  joint : Bool := false

/-- How an issue begins. -/
inductive Begin where
  | nobody
  | stop (s : State)
  | go (cx : Cx) (s : State) (back : State)

/-- How an effect ends: completed; completed with the PCs set by the effect; faults of lanes or of the whole issue; not yet
possible, to be tried again at any time, or once the migration of an address has ended (R315); or parked, with everything
done. -/
inductive Eff where
  | ok (s : State)
  | jumped (s : State)
  | faults (l : List (Nat × Rec))
  | fault (r : Rec)
  | stall
  | mig (va : Addr54)
  | held (s : State)

/-! ## Where a warp issues -/

/-- Where a warp's next issue is: its PC, and whether a complete collective issues there (R128, R132). -/
def State.nextPc (s : State) (wid : Nat) : Option (Addr54 × Bool) :=
  match s.warp? wid with
  | none => none
  | some w =>
    match s.readyPark wid w with
    | some p => some (p.pc, true)
    | none => (w.selectedPc (s.block w.blk).width).map fun p => (p, false)

/-! ## Registers that an instruction names (R84, R135) -/

/-- A run of registers: vector, scalar or mask, with the field value that named it. -/
inductive Use where
  | v (n count field : Nat)
  | s (n count field : Nat)
  | k (n field : Nat)
deriving DecidableEq, Repr

/-- The registers of one operand field. -/
def usesOf (kind : Kind) (f : Nat) : List Use :=
  match kind with
  | .v n => [.v f n f]
  | .vp => [.v f 2 f]
  | .v4 => [.v f 4 f]
  | .s n => [.s f n f]
  | .k => [.k f f]
  | _ => []

/-- ceil(a / b). -/
def ceilDiv (a b : Nat) : Nat := (a + b - 1) / max b 1

/-- Registers that one operand's scales span (R217). -/
def scaleRegs (rows k E : Nat) : Nat := ceilDiv (rows * k) E

/-- Rows and columns of a shape code (R214). -/
def shapeM (m : Nat) : Nat := if m / 32 % 2 = 1 then 64 else 128

/-- Columns of a shape code (R214). -/
def shapeN (m : Nat) : Nat := if m / 16 % 2 = 1 then 64 else 128

/-- E of R217 and R226: warps of the scope times W. -/
def State.scopeE (_s : State) (b : Block) (e : Enc) (wid : Nat) : Nat := (declared b e.scope e.sel.toNat wid).length * b.width

/-- Registers of ADRAIN .vreg's range (R226). -/
def drainRegs (e : Enc) (sb : Nat) (E : Nat) : Nat :=
  let rows := sb / 2 ^ 8 % 2 ^ 7 + 1
  if e.modi.toNat % 16 = 0 then ceilDiv (rows * 128) E else ceilDiv (rows * 64) E

/-- The registers that an instruction names beyond its fields: s63, s62, the selector's mask (R23, R152, R358). -/
def namedUses (op : Op) (e : Enc) : List Use :=
  (if (e.scope = .lane || e.scope = .warp) && 1 ≤ e.sel.toNat && e.sel.toNat ≤ 12 then [Use.k (e.sel.toNat - 1) (e.sel.toNat - 1)] else [])
    ++ match op with
      | .call | .ret => [.s 63 1 63]
      | .svc => [.s 62 1 62]
      | _ => []

/-- The vector register ranges of a class 12 instruction: the scales of MMAS, the fragment map of ADRAIN .vreg, whose rows the sb
register of the lowest-numbered member, `wid`, names (R82, R217, R226). -/
def State.rangeUses (s : State) (b : Block) (wid : Nat) (op : Op) (e : Enc) : List Use :=
  match op with
  | .mmas =>
    let l := (e.lit.getD 0).toNat
    let E := s.scopeE b e wid
    let k := e.c.toNat + 1
    [.v (l % 512) (scaleRegs (shapeM e.modi.toNat) k E) (l % 512), .v (l / 512 % 512) (scaleRegs (shapeN e.modi.toNat) k E) (l / 512 % 512)]
  | .adrain => if e.modi.toNat / 16 = 0 then [.v e.dst.toNat (drainRegs e ((s.warps.get {} wid).sget e.b.toNat).toNat (s.scopeE b e wid)) e.dst.toNat] else []
  | _ => []

/-- The profile of an instruction with its literal applied, the empty one where it has none. -/
def profileOf (op : Op) (e : Enc) : Profile := ((profile op e.scope e.modi.toNat).getD {}).withLit e.lit.isSome

/-- The registers that an instruction's fields name, and those of `namedUses`: a vector field that is not read names a register (PUT .tag's B),
but for a C that its op does not read (ATOM's): the model's reading of R15 (assumption 73). -/
def fieldUses (op : Op) (e : Enc) : List Use :=
  let p := profileOf op e
  usesOf p.dst e.dst.toNat ++ usesOf p.a e.a.toNat ++ usesOf p.b e.b.toNat ++ (if p.cRead then usesOf p.c e.c.toNat else [])
    ++ namedUses op e

/-- Every register that an instruction's fields make it read or write (R135): what they name, but for a field that is not read (R345). -/
def touched (op : Op) (e : Enc) : List Use :=
  let p := profileOf op e
  usesOf p.dst e.dst.toNat ++ usesOf p.a e.a.toNat ++ (if p.bRead then usesOf p.b e.b.toNat else []) ++ (if p.cRead then usesOf p.c e.c.toNat else [])
    ++ namedUses op e

/-- The registers that an instruction writes as its results; `wid` is the lowest-numbered member. -/
def State.dests (s : State) (b : Block) (wid : Nat) (op : Op) (e : Enc) : List Use :=
  let p := profileOf op e
  (if p.dstWrite then usesOf p.dst e.dst.toNat else []) ++ (if p.bWrite then usesOf p.b e.b.toNat else [])
    ++ (if op = .adrain then s.rangeUses b wid op e else [])

/-- The first register of a list that is not legal for a warp (R15, R84): its field value. -/
def badReg (N j : Nat) : List Use → Option Nat
  | [] => none
  | .v n count f :: r => if (List.range count).all fun i => legalV N j (n + i) then badReg N j r else some f
  | _ :: r => badReg N j r

/-- Whether a run of registers meets a window's registers. -/
def Use.hits (x : Window) : Use → Bool
  | .v n count _ => x.vregs.any fun r => n ≤ r && r < n + count
  | .s n count _ => x.sregs.any fun r => n ≤ r && r < n + count
  | .k n _ => x.kregs.contains n

/-- The field value of a run. -/
def Use.field : Use → Nat
  | .v _ _ f => f | .s _ _ f => f | .k _ f => f

/-- What a window says to an instruction (R135): the field of a register it must not touch yet, or that it must wait. -/
inductive Verdict where
  | free | wait | bad (field : Nat)
deriving DecidableEq, Repr

/-- The stronger verdict. -/
def Verdict.join : Verdict → Verdict → Verdict
  | .bad f, _ => .bad f
  | _, .bad f => .bad f
  | .wait, _ => .wait
  | _, v => v

/-- One window against the registers of an instruction on lanes (R135), which also reads lanes `more`; a marker of MSYNC holds
everything once its count has run out (R227). -/
def Window.verdict (x : Window) (W : Nat) (lanes more : Lanes) (us : List Use) : Verdict :=
  if x.vregs.isEmpty && x.sregs.isEmpty && x.kregs.isEmpty then
    if !x.done && x.leftS = 0 then .wait else .free
  else
    let inside := fun (u : Use) => match u with
      | .v _ _ _ => (members W (lanes &&& x.lanes)).any fun i => x.left.get 0 i != 0
      | _ => x.leftS != 0
    match us.find? fun u => u.hits x && inside u with
    | some u => .bad u.field
    | none =>
      if !x.done && us.any (fun u => u.hits x && match u with | .v _ _ _ => (lanes ||| more) &&& x.lanes != 0 | _ => true) then .wait
      else .free

/-- Every window of a warp against an instruction. -/
def Warp.verdict (w : Warp) (W : Nat) (lanes more : Lanes) (us : List Use) : Verdict :=
  w.windows.foldl (fun v x => v.join (x.verdict W lanes more us)) .free

/-- A window after an instruction on lanes (R135). -/
def Window.tick (x : Window) (W : Nat) (lanes : Lanes) : Window :=
  { x with leftS := x.leftS - 1, left := (members W lanes).foldl (fun m i => m.put 0 i (m.get 0 i - 1)) x.left }

/-- Whether a window still matters. -/
def Window.open_ (x : Window) : Bool := !x.done || x.leftS != 0 || !x.left.isEmpty

/-- A warp's windows after an instruction on lanes. -/
def Warp.tickWindows (w : Warp) (W : Nat) (lanes : Lanes) : Warp :=
  { w with windows := (w.windows.map fun x => x.tick W lanes).filter Window.open_ }

/-- The numbers of the vector registers of a list of runs. -/
def vregsOf : List Use → List Nat
  | [] => []
  | .v n count _ :: r => (List.range count).map (n + ·) ++ vregsOf r
  | _ :: r => vregsOf r

/-- The numbers of the scalar registers. -/
def sregsOf : List Use → List Nat
  | [] => []
  | .s n count _ :: r => (List.range count).map (n + ·) ++ sregsOf r
  | _ :: r => sregsOf r

/-- The numbers of the mask registers. -/
def kregsOf : List Use → List Nat
  | [] => []
  | .k n _ :: r => n :: kregsOf r
  | _ :: r => kregsOf r

/-! ## Faults of an issue -/

/-- The scope byte of a record: a scope, and a set's number (R271). -/
def scopeByteOf (sc : Scope) (sel : Nat) : Nat := sc.code + (if sc = .set then sel * 4 else 0)

/-- The scope byte of an instruction's records (R271). -/
def scopeByte (e : Enc) : Nat := scopeByteOf e.scope e.sel.toNat

/-- The member mask of a record: 0 at lane scope (R271). -/
def State.memberMask (s : State) (cx : Cx) : Nat :=
  if cx.e.scope = .lane then 0
  else cx.parts.foldl (fun m p => m + (match s.warp? p.wid with | some w => 2 ^ w.index | none => 0)) 0

/-- A FAULT event beside a MACHINE_CHECK (R427). -/
def State.orderMachineCheck (s : State) (blk wid : Nat) : State :=
  let b := s.block blk
  s.orderFault b Code.machineCheck wid (BitVec.ofNat 64 (s.chip * 2 ^ 54 + s.faultEntry b wid))

/-- Takes the faults of an issue (R134, R147, R164, R272): an issue record stands in every member's entry, a lane's record
in its own warp's. The lanes stay at the instruction. An uncorrectable error is also told to the scheduler (R427). An entry that has to
wait leaves `back`. -/
def State.faultIssue (s back : State) (cx : Cx) (lanes : List (Nat × Rec)) (whole : Option Rec) : State :=
  let mm := s.memberMask cx
  let check : Bool := (lanes.map (·.2) ++ whole.toList).any fun r => r.code = Code.machineCheck
  s.unlessHeld back (cx.parts.map (·.wid)) <| (fun t => if check then t.orderMachineCheck cx.blk cx.wid else t) <| s.enterTrapAll cx.pc (cx.parts.map fun p =>
    let fill := fun (r : Rec) => { r with pc := BitVec.ofNat 64 cx.pc.toNat, scope := scopeByte cx.e, lanes := p.lanes, members := mm }
    (p.wid, match whole with
      | some r => [fill r]
      | none => (lanes.filter fun e => e.1 = p.wid).map fun e => fill e.2))

/-- A precise fault of one warp before any rendezvous; it counts as an issue (R373). -/
def State.faultWarp (s : State) (wid : Nat) (pc : Addr54) (e : Enc) (lanes : Lanes) (code info : Nat) (lane : Nat := 0xFF) : State :=
  let t := s.updWarp wid fun w => { w with lclk := w.lclk + 1, pass := none }
  t.unlessHeld s [wid] ((fun t => if code = Code.machineCheck then t.orderMachineCheck (((s.warp? wid).map (·.blk)).getD 0) wid else t) <| t.enterTrap wid pc [{ code := code, lane := lane, pc := BitVec.ofNat 64 pc.toNat, scope := scopeByte e, info := info, lanes := lanes, members := if e.scope = .lane then 0 else match s.warp? wid with | some w => 2 ^ w.index | none => 0 }])

/-! ## Rendezvous (R131 to R133) -/

/-- The groups of a warp parked at collectives of one scope instance (R132): of any selector but for a set's number. -/
def Warp.parkedIn (w : Warp) (sc : Scope) (sel : Nat) : List Park :=
  w.parks.filter fun p => match p.place with
    | .rendezvous c x _ => c = sc && (sc != .set || x = sel)
    | _ => false

/-- The member lanes of the collectives of a scope instance at which a warp has lanes parked (R130): at warp scope the memberships that
were read, otherwise its live lanes. -/
def Warp.memberUnion (w : Warp) (sc : Scope) (sel : Nat) : Lanes :=
  if sc != .warp then w.live
  else w.live &&& (w.parkedIn sc sel).foldl (fun (m : Lanes) p => match p.place with
    | .rendezvous _ x k => m ||| (if x = 0 then w.live else k)
    | _ => m) 0

/-- Whether every live member lane is parked at a collective of the scope instance, at two or more PCs, and none of them can issue
(R132). -/
def State.split (s : State) (b : Block) (sc : Scope) (sel wid : Nat) : Bool :=
  let ms := s.membersOf b sc sel wid
  let parks := fun (w : Warp) => w.parkedIn sc sel
  let pcs := ms.flatMap fun m => match s.warp? m.2 with | some w => (parks w).map (·.pc) | none => []
  (ms.all fun m => match s.warp? m.2 with
    | some w => w.offcore.isNone && w.suspended.isNone && w.memberUnion sc sel &&& ~~~ (parkedOf (parks w)) = 0
    | none => true)
    && (match pcs with | [] => false | p :: r => r.any (· != p))
    && !ms.any (fun m => match s.warp? m.2 with
      | some w => (parks w).any fun p => match p.place with
        | .rendezvous c x _ => s.allArrived b c x m.2 p.pc
        | _ => false
      | none => false)

/-- The member warps of a scope, by warp index; 0 at lane scope (R271). -/
def State.scopeMask (s : State) (b : Block) (sc : Scope) (sel wid : Nat) : Nat :=
  if sc = .lane then 0
  else (s.membersOf b sc sel wid).foldl (fun m x => m + (match s.warp? x.2 with | some w => 2 ^ w.index | none => 0)) 0

/-- SCOPE_SPLIT (R133): every member is suspended, the handler in the lowest-numbered one. An entry that has to wait leaves `back`. -/
def State.splitFault (s back : State) (b : Block) (sc : Scope) (sel wid : Nat) (pc : Addr54) : State :=
  let ms := s.membersOf b sc sel wid
  let mm := s.scopeMask b sc sel wid
  s.unlessHeld back (ms.map (·.2)) (s.enterTrapAll pc (ms.map fun m =>
    (m.2, match s.warp? m.2 with
      | none => []
      | some w => (pcGroups (w.parkedIn sc sel)).map fun g =>
          { code := Code.scopeSplit, pc := BitVec.ofNat 64 g.1, scope := scopeByteOf sc sel, lanes := g.2, members := mm })))

/-- Takes the SCOPE_SPLIT of a warp whose lanes stand parked in a split scope instance (R132, R133): one that an exit or the return of a
warp has made. -/
def State.splitWarp (s : State) (e : Nat × Warp) : State :=
  match s.warp? e.1 with
  | none => s
  | some w =>
    let b := s.block w.blk
    match w.parks.find? fun p => match p.place with | .rendezvous sc sel _ => s.split b sc sel e.1 | _ => false with
    | some p => match p.place with | .rendezvous sc sel _ => s.splitFault s b sc sel e.1 p.pc | _ => s
    | none => s

/-- Every such split. -/
def State.splitFaults (s : State) : State := s.warps.foldl State.splitWarp s

/-- Counts an issue by its group of classes (R419). -/
def groupCounter (op : Op) : Nat :=
  match op.code / 64 with
  | 0 | 1 => 16 | 2 | 3 => 17 | 4 => 18 | 5 => 19 | 6 | 7 => 20 | 8 => 21 | 9 | 10 | 11 => 22 | _ => 23

/-- Whether an issue is a window instruction (R135): some member has a window that still counts. -/
def State.inWindow (s : State) (cx : Cx) : Bool :=
  cx.parts.any fun p => (s.warp? p.wid).any fun w => w.windows.any fun x => x.leftS != 0 || x.left.any fun e => inSet p.sel e.1

/-- The registers that an instruction reads (R82, R85): its source fields, the mask of its selector, and s63 of RET. -/
def sourceRegs (op : Op) (e : Enc) : List Use :=
  let p := profileOf op e
  usesOf p.a e.a.toNat ++ (if p.bRead && !p.bWrite then usesOf p.b e.b.toNat else []) ++ (if p.cRead then usesOf p.c e.c.toNat else [])
    ++ (if p.dstRead then usesOf p.dst e.dst.toNat else []) ++ (namedUses op e).filter fun u => match u with
      | .k _ _ => true
      | .s _ _ _ => op = .ret
      | .v _ _ _ => false

/-- The vector registers that an issue reads in lane l of a member: V2S reads one lane of one warp, BCAST takes its index from the first
participating lane, every other instruction reads its sources in each participating lane (R82, R112, R118). -/
def Cx.laneReads (cx : Cx) (p : Part) (l : Nat) : List Nat :=
  let here : Bool := l < cx.W && inSet p.lanes l
  let first : Bool := p.wid = cx.wid && (members cx.W p.lanes).head? = some l
  match cx.op with
  | .v2s => if p.wid = cx.wid && l = cx.e.b.toNat then [cx.e.a.toNat] else []
  | .bcast =>
    (if here then vregsOf (usesOf (profileOf cx.op cx.e).a cx.e.a.toNat) else [])
      ++ (if here && first then vregsOf (usesOf (profileOf cx.op cx.e).b cx.e.b.toNat) else [])
  | _ => if here then vregsOf (sourceRegs cx.op cx.e) else []

/-- Whether any lane participates (R82). -/
def Cx.some_ (cx : Cx) : Bool := cx.parts.any fun p => p.lanes != 0

/-- Whether lane l of a member meets an error in a source register (R85, R426, R427). A scalar source is read once, in the
lowest-numbered member, a mask in each member; the lowest participating lane records either (R82, R272). The mask of a collective's
selector has been read at its first arrival (R130), and an issue without a participating lane reads nothing. -/
def Cx.laneMeets (cx : Cx) (p : Part) (l : Nat) (x : Locus) : Bool :=
  let rs := sourceRegs cx.op (if cx.joint then { cx.e with sel := 0 } else cx.e)
  let low : Bool := l = (members cx.W p.lanes).headD 0
  cx.some_ && match x with
    | .sreg wid r => low && wid = p.wid && p.wid = cx.wid && (sregsOf rs).contains r
    | .kreg wid r => low && wid = p.wid && (kregsOf rs).contains r
    | .vreg wid r i => wid = p.wid && i = l / 2 && (cx.laneReads p l).contains r
    | _ => false

/-- Whether an issue reads a register word in some lane. -/
def State.issueMeets (_s : State) (cx : Cx) (x : Locus) : Bool := cx.parts.any fun p => (List.range cx.W).any fun l => cx.laneMeets p l x

/-- The warps of an issue: their windows (R135), and their place in the order of R136; the members of a collective also issued
when they arrived (assumption 59). -/
def State.countIssue (s : State) (cx : Cx) : State :=
  let s := s.correct (s.issueMeets cx)
  let s := ((s.countCore (coreOf cx.wid) (Config.issueSlot s.issues % 4)).countCore (coreOf cx.wid) (groupCounter cx.op)).addCore (coreOf cx.wid) 58 (if s.inWindow cx then 1 else 0)
  let s := { s with issues := s.issues + 1 }
  cx.parts.foldl (fun s p => s.updWarp p.wid fun w =>
    let w := { w.tickWindows cx.W p.sel with lastPc := cx.pc, pass := none }
    { w with last := some s.issues, skid := if cx.joint then w.skid else w.skid + 1 }) s

/-- The lanes whose source registers meet an uncorrectable error (R85, R427). -/
def State.regErrors (s : State) (cx : Cx) : List (Nat × Rec) :=
  if s.platform.errors.isEmpty then []
  else cx.parts.flatMap fun p =>
    ((List.range cx.W).filter fun l => s.platform.errors.any (cx.laneMeets p l)).map fun l => (p.wid, { code := Code.machineCheck, lane := l })

/-- A 64-bit register word that a write replaces whole is good again (R427): two lanes of a vector register, a scalar, every bit of a mask
register that a warp of the width has. -/
def State.cleanRegs (s : State) (wid : Nat) (ws : List RegWrite) : State :=
  s.clearErrors fun x => match x with
    | .vreg w r i => w = wid && ws.any fun y => match y with | .vec n ls => n = r && ls.any (fun l => l.1 = 2 * i) && ls.any (fun l => l.1 = 2 * i + 1) | _ => false
    | .sreg w r => w = wid && ws.any fun y => match y with | .scal n _ => n = r | _ => false
    | .kreg w r => w = wid && ws.any fun y => match y with | .mask n bits _ => n = r && ~~~ bits &&& allSet (s.block (((s.warp? w).map (·.blk)).getD 0)).width = 0 | _ => false
    | _ => false

/-- The registers of slots that a block takes are good again (R427): they are written as a whole. -/
def State.cleanSlots (s : State) (wids : List Nat) : State :=
  s.clearErrors fun x => match x with
    | .vreg w _ _ | .sreg w _ | .kreg w _ => wids.contains w
    | _ => false

/-- The legal-register check of vector ranges in every declared warp of a scope (R217, R226). -/
def State.rangeBad (s : State) (b : Block) (sc : Scope) (sel wid : Nat) (us : List Use) : Option Nat :=
  (declared b sc sel wid).findSome? fun m =>
    badReg (budgetOf b.record (match s.warp? m.2 with | some w => w.index | none => b.wids.idxOf m.2)) b.xcount us

/-- Whether an instruction moves PCs in a way that may not stand at a loop end (R160). -/
def transfers (op : Op) : Bool :=
  match op with
  | .bra | .jmp | .call | .ret | .loop | .trap | .tret => true
  | _ => false

/-- Whether a transfer of control stands at a loop end of a member (R160). -/
def State.atLoopEnd (s : State) (cx : Cx) : Bool :=
  transfers cx.op && cx.parts.any fun p => (s.warp? p.wid).any fun w => w.loops.any fun x => x.stop = cx.pc

/-- The registers of a member that an issue reads or writes (R82, R135): a scalar source is one of the lowest-numbered member alone. -/
def Cx.memberUses (cx : Cx) (s : State) (p : Part) (us : List Use) : List Use :=
  if p.wid = cx.wid then us
  else
    let written := s.dests (s.block cx.blk) cx.wid cx.op cx.e ++ namedUses cx.op cx.e
    us.filter fun u => match u with
      | .s _ _ _ => written.contains u
      | _ => true

/-- The lanes of a member whose vector registers an issue reads beside those of its participating lanes: V2S reads one lane of one warp
(R118), MMAS every lane of its warps (R217). -/
def Cx.alsoReads (cx : Cx) (p : Part) : Lanes :=
  match cx.op with
  | .v2s => if p.wid = cx.wid then (1 : Lanes) <<< cx.e.b.toNat else 0
  | .mmas => allSet cx.W
  | _ => 0

/-- What the members' windows say of registers that an issue reads or writes (R135). -/
def State.windowVerdict (s : State) (cx : Cx) (us : List Use) : Verdict :=
  cx.parts.foldl (fun (v : Verdict) p => match s.warp? p.wid with
    | none => v
    | some w => v.join (w.verdict cx.W p.lanes (cx.alsoReads p) (cx.memberUses s p us))) .free

/-- What they say of an issue: of the registers that its fields name, then of the ranges that these registers' contents name (R217,
R226). -/
def State.lookahead (s : State) (cx : Cx) : Verdict :=
  match s.windowVerdict cx (touched cx.op cx.e) with
  | .free => s.windowVerdict cx (s.rangeUses (s.block cx.blk) cx.wid cx.op cx.e)
  | v => v

/-- The issue once its members are known: LOOP_FORM, the lookahead check, the source registers, then the effect may act (R135, R147,
R427). -/
def State.goWith (s : State) (cx : Cx) (back : State) : Begin :=
  let stop := fun (code info : Nat) => Begin.stop ((s.countIssue cx).faultIssue back cx [] (some { code := code, info := info }))
  if s.atLoopEnd cx then stop Code.loopForm 0
  else
    match s.lookahead cx with
    | .bad f => stop Code.lookahead f
    | .wait => .stop back
    | .free => match s.regErrors cx with
      | [] => .go cx (s.countIssue cx) back
      | l => .stop ((s.countIssue cx).faultIssue back cx l none)

/-- A collective whose members have all arrived issues (R131): the groups leave the rendezvous, with the clocks of R374; a group that
completed it alone by its own arrival was never released (assumption 12). -/
def State.fire (s : State) (op : Op) (e : Enc) (len wid : Nat) (pc : Addr54) : Begin :=
  match s.warp? wid with
  | none => .nobody
  | some w0 =>
    let b := s.block w0.blk
    let d := s.dmode b
    let ms := s.membersOf b e.scope e.sel.toNat wid
    let groups := fun (w : Warp) => w.arrivals e.scope e.sel.toNat pc
    let all := ms.flatMap fun m => match s.warp? m.2 with | some w => groups w | none => []
    let top := all.foldl (fun m p => if m.ult p.clock then p.clock else m) 0
    let alone := all.length = 1 && all.all (·.lone)
    let parts := ms.filterMap fun m => (s.warp? m.2).map fun w =>
      let x := parkedOf (groups w) &&& w.live
      ({ wid := m.2, rank := m.1, lanes := x, sel := x, clock := (groups w).foldl (fun c p => if c.ult p.clock then p.clock else c) 0, pass := w.pass = some pc } : Part)
    let parts := parts.filter fun p => p.lanes != 0
    let s' := parts.foldl (fun s p => s.updWarp p.wid fun w => { w with parks := w.parks.filter (fun q => !(groups w).contains q), lclk := if alone then w.lclk else releaseClock d w.lclk top }) s
    let s' := s'.countCore (coreOf wid) 59
    s'.goWith { wid := (parts.head?.map (·.wid)).getD wid, blk := w0.blk, W := b.width, op := op, e := e, pc := pc, len := len, parts := parts, dmode := d, joint := true } s

/-- What a lookahead window says of the mask register that the first group to arrive at a collective under ?kn reads (R130, R135). -/
def Warp.maskVerdict (w : Warp) (e : Enc) (W : Nat) (pc : Addr54) (lanes : Lanes) : Verdict :=
  if e.scope = .warp && e.sel != 0 && (w.arrivals e.scope e.sel.toNat pc).isEmpty then
    ({ w with windows := w.windows.filter fun x => !x.kregs.isEmpty } : Warp).verdict W lanes 0 [.k (e.sel.toNat - 1) (e.sel.toNat - 1)]
  else .free

/-- A group arrives at a collective (R131, R132). An arrival counts in no lookahead window: it has no effect but to park; the issue of
the collective counts, once in each member (assumption 59). A mask that is pending in a window is judged before its members
(assumption 71). -/
def State.arrive (s : State) (op : Op) (e : Enc) (len wid : Nat) (w : Warp) (b : Block) (pc : Addr54) (lanes : Lanes) : Begin :=
  let sel := e.sel.toNat
  let mem := if e.scope = .warp && sel != 0 then
      match w.arrivals e.scope sel pc with
      | _ :: _ => w.memberLanes e.scope sel pc
      | [] => w.kget (sel - 1) &&& w.live
    else w.live
  let v := w.maskVerdict e b.width pc lanes
  let bad : Bool := e.scope = .warp && sel != 0 && (w.arrivals e.scope sel pc).isEmpty && s.platform.errors.contains (.kreg wid (sel - 1))
  if v = .wait then .stop s
  else if e.scope = .set && (setMask b.record sel = 0 || !inScope b e.scope sel w.index) then
    .stop (s.faultWarp wid pc e lanes Code.scopeMember 0)
  else if v != .free then .stop (s.faultWarp wid pc e lanes Code.lookahead (sel - 1))
  else if bad then .stop (s.faultWarp wid pc e lanes Code.machineCheck 0 ((members b.width lanes).headD 0))
  else if e.scope = .warp && lanes &&& ~~~ mem != 0 then .stop (s.faultWarp wid pc e lanes Code.scopeMember 0)
  else
    let back := s
    let park : Park := { lanes := lanes, pc := pc, len := len, place := .rendezvous e.scope sel mem, clock := w.lclk }
    let s := { s with issues := s.issues + 1 }
    let s := s.updWarp wid fun w => { w with parks := w.parks ++ [park], lclk := w.lclk + 1, last := some s.issues, lastPc := pc, skid := w.skid + 1, pass := none }.trimPin
    if s.allArrived b e.scope sel wid pc then
      (s.updWarp wid fun w => { w with parks := w.parks.map fun q => if q = park then { q with lone := true } else q }).fire op e len wid pc
    else if s.split b e.scope sel wid then .stop (s.splitFault back b e.scope sel wid pc)
    else .stop s

/-- Whether an instruction of `len` bytes lies in the control profile (R45, R247, R341): of class 5 only the long forms of KMOV. -/
def inControlProfile (op : Op) (e : Enc) (len : Nat) : Bool :=
  let S := e.modi.toNat / 32 = 1
  let p := profileOf op e
  let noV := fun (x : Kind) => match x with | .v _ | .vp | .v4 | .a | .p => false | _ => true
  (match op.code / 64 with
    | 0 | 1 => S
    | 5 => op = .kmov && len != 4
    | 6 => (op = .mov || op = .movi || op = .movsr || op = .movsw) && S
    | 7 | 13 | 14 => op != .svc
    | 10 => (op != .atom && op != .mred) || e.modi.toNat / 8 = 0
    | _ => false)
    && noV p.dst && noV p.a && noV p.b && noV p.c && e.scope != .set && e.scope != .block

/-- Begins an issue of an instruction by the warp whose turn it is (R47, R147). -/
def State.begin (s : State) (op : Op) (e : Enc) (len : Nat) : Begin :=
  match s.cur with
  | none => .nobody
  | some wid =>
    match s.warp? wid, s.nextPc wid with
    | some w, some (pc, ready) =>
      let b := s.block w.blk
      let W := b.width
      if ready then s.fire op e len wid pc
      else
        let lanes := w.selected W
        let alone := e.scope = .lane || b.onControl || (e.scope = .warp && e.sel = 13)
        let part := if !alone || e.sel = 0 then lanes else if e.sel = 13 then lowest W lanes else lanes &&& w.kget (e.sel.toNat - 1)
        if op = .v2s && W ≤ e.b.toNat then .stop (s.faultWarp wid pc e part Code.illegal 0)
        else if b.onControl && !inControlProfile op e len then .stop (s.faultWarp wid pc e part Code.profile 0)
        else match badReg (budgetOf b.record w.index) b.xcount (fieldUses op e) with
          | some f => .stop (s.faultWarp wid pc e part Code.regRange f)
          | none =>
            if transfers op && w.loops.any (fun x => x.stop = pc) then .stop (s.faultWarp wid pc e part Code.loopForm 0)
            else if !alone then
              if w.frame.isSome && (e.scope = .set || e.scope = .block) then
                .stop (s.unlessHeld s [wid] (s.doubleFault wid pc { code := 0x3E, scope := scopeByte e, lanes := lanes, members := s.scopeMask b e.scope e.sel.toNat wid }))
              else s.arrive op e len wid w b pc lanes
            else
              let cx : Cx := { wid := wid, blk := w.blk, W := W, op := op, e := e, pc := pc, len := len, dmode := s.dmode b, parts := [{ wid := wid, rank := 0, lanes := part, sel := lanes, clock := w.lclk, pass := w.pass = some pc }] }
              (s.updWarp wid fun w => { w with lclk := w.lclk + 1 }).goWith cx s
    | _, _ => .nobody

/-! ## Completion -/

/-- The lanes of each member complete the instruction (R159). -/
def State.advance (s : State) (cx : Cx) : State :=
  cx.parts.foldl (fun s p => s.updWarp p.wid fun w => w.complete cx.W p.sel cx.pc cx.len) s

/-- What follows every issue: the pin (R128) and the WAITs whose mask was written (R155). -/
def State.settleIssue (s : State) (cx : Cx) : State :=
  cx.parts.foldl (fun s p => (s.updWarp p.wid Warp.trimPin).testWaits p.wid) s

/-- The state with a control core changed. -/
def State.updControl (s : State) (cc : Nat) (f : Control → Control) : State :=
  { s with controls := s.controls.set cc (f (s.controls.get {} cc)) }

/-- The command counter of a control core that itself issues an instruction of class 13 (R297). -/
def State.chargeNet (s : State) (cx : Cx) : State :=
  if cx.op.code / 64 = 13 && 4096 ≤ cx.wid then s.updControl ((cx.wid - 4096) / 16) fun c => { c with commands := c.commands + 1 } else s

/-- The end of an issue from its effect. -/
def State.finish (s back : State) (cx : Cx) : Eff → State
  | .ok t => ((t.chargeNet cx).advance cx).settleIssue cx
  | .jumped t => t.settleIssue cx
  | .held t => (t.chargeNet cx).settleIssue cx
  | .stall => back
  | .mig va => cx.parts.foldl (fun (s : State) (p : Part) => s.updWarp p.wid fun w => { w with migrating := some va }) back
  | .fault r => s.faultIssue back cx [] (some r)
  | .faults l => s.faultIssue back cx l none

/-- One issue with an effect; an issue without a participating lane only advances (R82, R148). -/
def State.run (s : State) (op : Op) (e : Enc) (len : Nat) (eff : Cx → State → Eff) : Host.Outcome State Fault Refusal :=
  match s.begin op e len with
  | .nobody => .fault .noIssuer
  | .stop t => .next t
  | .go cx t back => .next (t.finish back cx (if cx.some_ then eff cx t else .ok t))

/-- Length of an F64 or F96 instruction (R18). -/
def encLen (e : Enc) : Nat := if e.lit.isSome then 12 else 8

/-- An F64 or F96 instruction's issue. -/
def State.runLong (s : State) (op : Op) (e : Enc) (eff : Cx → State → Eff) : Host.Outcome State Fault Refusal :=
  s.run op e (encLen e) eff

/-- Whether the issuing warp runs on a control core. -/
def State.curControl (s : State) : Bool :=
  match s.cur with
  | none => false
  | some wid => 4096 ≤ wid

/-- An F32 instruction's issue: the F64 form with selector, lookahead and modifier 0; scalar in classes 0 and 1 on a
control core (R21, R45). -/
def State.runShort (s : State) (op : Op) (f : Short) (eff : Cx → State → Eff) : Host.Outcome State Fault Refusal :=
  s.run op (f.toEnc (s.curControl && op.code < 128)) 4 eff

end Sys2Proof.Machine
end

