-- ==== Sys2Proof/Machine/Operands.lean ====
section
/-!
DEFINITION. Operands and results: reading sources once for the issue (R82, R83), writing destinations of the participating
lanes, results that wait in a lookahead window (R135), draws (R69, R70).
-/

namespace Sys2Proof.Machine

/-- The modifier as a number. -/
def Cx.m (cx : Cx) : Nat := cx.e.modi.toNat

/-- The S bit (R25). -/
def Cx.S (cx : Cx) : Bool := cx.m / 32 = 1

/-- The participating lanes of a member, ascending. -/
def Cx.lanesOf (cx : Cx) (p : Part) : List Nat := members cx.W p.lanes

/-- The element number of a lane (R110). -/
def Cx.elem (cx : Cx) (p : Part) (lane : Nat) : Nat := p.rank * cx.W + lane

/-- A warp as the issue found it. -/
def State.warpD (s : State) (wid : Nat) : Warp := (s.warp? wid).getD {}

/-- A scalar source, read from the lowest-numbered member warp (R82). -/
def Cx.sval (cx : Cx) (s : State) (field : Nat) : DWord := (s.warpD cx.wid).sget field

/-- The literal, none in F64. -/
def Cx.lit (cx : Cx) : Option Word := cx.e.lit

/-- The block of the issue. -/
def Cx.block (cx : Cx) (s : State) : Block := s.block cx.blk

/-- The low half of a scalar. -/
def lo32 (x : DWord) : Word := x.truncate 32

/-- The high half of a scalar. -/
def hi32 (x : DWord) : Word := (x >>> 32).truncate 32

/-- The numbers of lanes with a value, as a register write. -/
def Cx.lanesWrite (cx : Cx) (p : Part) (reg : Nat) (f : Nat → Word) : RegWrite :=
  .vec reg ((cx.lanesOf p).map fun l => (l, f l))

/-- Writes of consecutive registers from a per-lane list of words. -/
def Cx.rangeWrite (cx : Cx) (p : Part) (reg n : Nat) (f : Nat → List Word) : List RegWrite :=
  (List.range n).map fun i => cx.lanesWrite p (reg + i) fun l => (f l).getD i 0

/-- Writes of a per-lane pair. -/
def Cx.pairWrite (cx : Cx) (p : Part) (reg : Nat) (f : Nat → DWord) : List RegWrite :=
  [cx.lanesWrite p reg fun l => lo32 (f l), cx.lanesWrite p (reg + 1) fun l => hi32 (f l)]

/-- Bits of a mask register for the participating lanes. -/
def Cx.maskWrite (cx : Cx) (p : Part) (reg : Nat) (f : Nat → Bool) : RegWrite :=
  .mask reg p.lanes (setOf ((cx.lanesOf p).filter f))

/-- Advances %draw of the participating lanes (R69). -/
def Warp.drawn (w : Warp) (n : Nat) : List Nat → Warp
  | [] => w
  | i :: r => Warp.drawn { w with draw := w.draw.put 0 i (w.draw.get 0 i + BitVec.ofNat 32 n) } n r

/-- The lookahead count of an issue: an ordered atomic of a D-mode warp acts as 0 (R373). -/
def Cx.look (cx : Cx) : Nat := if cx.dmode && (cx.op = .atom || cx.op = .mred) then 0 else cx.e.look.toNat

/-- A new lookahead window of a member (R135) with what is to be written, where the instruction has a destination. -/
def Cx.window (cx : Cx) (s : State) (p : Part) (id : Nat) (ready : Bool) (ws : List RegWrite) : Window :=
  let ds := s.dests (s.block cx.blk) cx.wid cx.op cx.e
  let vs := vregsOf ds
  let n := cx.look
  { id := id, vregs := vs, lanes := p.lanes, sregs := sregsOf ds, kregs := kregsOf ds, ready := ready, writes := ws, left := if vs.isEmpty then [] else (cx.lanesOf p).foldl (fun m i => m.put 0 i n) [], leftS := if (sregsOf ds ++ kregsOf ds).isEmpty then 0 else n }

/-- Opens a window in one member: its number and the state. -/
def Cx.openWindow (cx : Cx) (s : State) (p : Part) (ready : Bool) (ws : List RegWrite) : Nat × State :=
  let (id, s) := s.draw
  let x := cx.window s p id ready ws
  (id, s.updWarp p.wid fun w => { w with windows := w.windows ++ [x] })

/-- Opens a window that waits for its result in every member: (%wid, window). -/
def Cx.openAll (cx : Cx) (s : State) : List Part → List (Nat × Nat) × State
  | [] => ([], s)
  | p :: r =>
    let (id, s) := cx.openWindow s p false []
    let (l, s) := Cx.openAll cx s r
    ((p.wid, id) :: l, s)

/-- Writes the results of one member: at once, or into a window when the instruction is long-latency (R24, R135). -/
def Cx.deliver (cx : Cx) (s : State) (p : Part) (ws : List RegWrite) : State :=
  if longLatency cx.op then (cx.openWindow s p true ws).2
  else (s.updWarp p.wid fun w => w.writeAll cx.W ws).cleanRegs p.wid ws

/-- The results of every member, all sources read before anything is written (R83); then the draws. -/
def Cx.emit (cx : Cx) (s : State) (draws : Nat) (f : Part → Warp → List RegWrite) : State :=
  cx.parts.foldl (fun t p =>
    let t := cx.deliver t p (f p (s.warpD p.wid))
    if draws = 0 then t else t.updWarp p.wid fun w => w.drawn draws (cx.lanesOf p)) s

/-- One scalar result for every member warp (R82). -/
def Cx.emitScalar (cx : Cx) (s : State) (reg : Nat) (x : DWord) : State := cx.emit s 0 fun _ _ => [.scal reg x]

/-- A value per participating lane, from operands of the lane. -/
def Cx.emitLanes (cx : Cx) (s : State) (f : Warp → Nat → Word) : State :=
  cx.emit s 0 fun p w => [cx.lanesWrite p cx.e.dst.toNat (f w)]

/-! ## The v/s operands of classes 0 and 1 (R86) -/

/-- Operand B of a vector form: the literal, or the register's lane. -/
def Cx.vB (cx : Cx) (w : Warp) (l : Nat) : Word :=
  match cx.lit with
  | some x => x
  | none => w.vget cx.e.b.toNat l

/-- Operand B of a scalar form: the literal sign-extended, or the register. -/
def Cx.sB (cx : Cx) (s : State) : DWord :=
  match cx.lit with
  | some x => x.signExtend 64
  | none => cx.sval s cx.e.b.toNat

/-- Operand C of a vector form of IMAD and FFMA. -/
def Cx.vC (cx : Cx) (w : Warp) (l : Nat) : Word :=
  match cx.lit with
  | some x => x
  | none => w.vget cx.e.c.toNat l

/-- Operand C of a scalar form of IMAD. -/
def Cx.sC (cx : Cx) (s : State) : DWord :=
  match cx.lit with
  | some x => x.signExtend 64
  | none => cx.sval s cx.e.c.toNat

/-- A one-source instruction of classes 0 and 1 (R86): `f` at width 32 per lane, or at width 64 once. -/
def eff1 (f : (w : Nat) → BitVec w → BitVec w) (cx : Cx) (s : State) : Eff :=
  if cx.S then .ok (cx.emitScalar s cx.e.dst.toNat (f 64 (cx.sval s cx.e.a.toNat)))
  else .ok (cx.emitLanes s fun w l => f 32 (w.vget cx.e.a.toNat l))

/-- A two-source instruction of classes 0 and 1 (R86). -/
def eff2 (f : (w : Nat) → BitVec w → BitVec w → BitVec w) (cx : Cx) (s : State) : Eff :=
  if cx.S then .ok (cx.emitScalar s cx.e.dst.toNat (f 64 (cx.sval s cx.e.a.toNat) (cx.sB s)))
  else .ok (cx.emitLanes s fun w l => f 32 (w.vget cx.e.a.toNat l) (cx.vB w l))

/-- A two-source instruction with a third that the literal replaces: IMAD (R28, R86). -/
def eff3 (f : (w : Nat) → BitVec w → BitVec w → BitVec w → BitVec w) (cx : Cx) (s : State) : Eff :=
  if cx.S then .ok (cx.emitScalar s cx.e.dst.toNat (f 64 (cx.sval s cx.e.a.toNat) (cx.sval s cx.e.b.toNat) (cx.sC s)))
  else .ok (cx.emitLanes s fun w l => f 32 (w.vget cx.e.a.toNat l) (w.vget cx.e.b.toNat l) (cx.vC w l))

end Sys2Proof.Machine
end

