-- ==== Sys2Proof/Machine/Fetch.lean ====
section
/-!
DEFINITION. Fetching an instruction's bytes (R18, R47, R312), through the TLB and the instruction cache (R313, R405).
-/

namespace Sys2Proof.Machine

/-- How a fetch ends: the bytes; INSTR_FETCH at an address (R47, R312); or a wait on a migrating page (R315). -/
inductive Fetched where
  | ok (bytes : List Byte) (s : State)
  | fault (addr : Addr54)
  | wait (addr : Addr54)

/-- One word of instruction bytes (R312). -/
def State.fetchWord (s : State) (core ctx : Nat) (va : Addr54) : Fetched :=
  match s.translate core ctx va.toNat .fetch with
  | .ok pa =>
    let (bs, s) := (s.tlbFill core ctx va.toNat).loadGlb pa 4
    .ok bs s
  | .migrating => .wait va
  | _ => .fault va

/-- n words of instruction bytes from an address on. -/
def State.fetchWords (s : State) (core ctx : Nat) (va : Addr54) : Nat → Fetched
  | 0 => .ok [] s
  | n + 1 =>
    match s.fetchWord core ctx va with
    | .ok bs s => match State.fetchWords s core ctx (va + 4) n with
      | .ok r s => .ok (bs ++ r) s
      | x => x
    | x => x

/-- The key of an instruction in an instruction cache. -/
def icacheKey (ctx : Nat) (pc : Addr54) : Nat := ctx * 2 ^ 54 + pc.toNat

/-- Makes room in an instruction cache of 128 KiB beside the instruction at a key (R4): at most n others leave (assumption 60). -/
def State.icacheFit (s : State) (core key : Nat) : Nat → State
  | 0 => s
  | n + 1 =>
    let m := (s.core core).icache
    if m.foldl (fun (k : Nat) (e : Nat × List Byte) => k + e.2.length) 0 ≤ 131072 then s
    else match s.victim (m.del key) with
      | (some (k, _), s) => State.icacheFit (s.updCore core fun c => { c with icache := c.icache.del k }) core key n
      | (none, s) => s

/-- What an instruction cache returns where memory holds `bs`: those bytes, or older ones that it still holds, one whole
instruction at a time (R405). -/
def State.throughCache (s : State) (core ctx : Nat) (pc : Addr54) (bs : List Byte) : List Byte × State :=
  let key := icacheKey ctx pc
  let keep := fun (s : State) => (s.updCore core fun c => { c with icache := c.icache.set key bs }).icacheFit core key 3
  match (s.core core).icache.find key with
  | none => (bs, keep s)
  | some old =>
    if old = bs then (bs, s)
    else
      let (n, s) := s.draw
      if Config.freeChoice n % 2 = 0 then (bs, keep s) else (old, s)

/-- The bytes of the instruction at a PC (R18, R47). -/
def State.fetch (s : State) (core ctx : Nat) (pc : Addr54) : Fetched :=
  match s.fetchWord core ctx pc with
  | .ok bs s =>
    match s.fetchWords core ctx (pc + 4) (((lengthOf (numOf bs)).getD 4) / 4 - 1) with
    | .ok r s =>
      let (x, s) := s.throughCache core ctx pc (bs ++ r)
      .ok x s
    | x => x
  | x => x

end Sys2Proof.Machine
end

