-- ==== Sys2Proof/Machine/Place.lean ====
section
/-!
DEFINITION. Where the next step fetches, and a smallest context, block and warp that fetch a placed instruction (assumption
20). A program comes to run from reset only through the host: it loads the program, opens a context and submits a grid; this
placing stands for that.
-/

namespace Sys2Proof.Machine

/-- Where the warp whose turn comes next fetches: core, context, PC and physical address, where its 12 bytes lie on one
page that it may fetch. -/
def State.fetchPlace (s : State) : Option (Nat × Nat × Addr54 × Nat) :=
  match s.agenda with
  | .issue wid :: _ =>
    match s.warp? wid, s.nextPc wid with
    | some w, some (pc, _) =>
      let ctx := (s.block w.blk).ctx
      match s.translate (coreOf wid) ctx pc.toNat .fetch with
      | .ok pa => if pc.toNat % 65536 ≤ 65524 then some (coreOf wid, ctx, pc, pa) else none
      | _ => none
    | _, _ => none
  | _ => none

/-- Bytes stored at a fetch address, and no older copy of them left in the core's instruction cache. -/
def State.placeAt (s : State) (core ctx : Nat) (pc : Addr54) (pa : Nat) (bs : List Byte) : State :=
  let s := s.storeGlb pa bs
  s.updCore core fun c => { c with icache := c.icache.del (icacheKey ctx pc) }

/-- The PC of a freshly placed instruction. -/
def placePc : Addr54 := 0x100000

/-- The launch record of the placed warp: version 1, W = 16, one warp, 64 registers, one block, no edges. -/
def placeRecord : Attach :=
  BitVec.ofNat 4096 (1 + 2 ^ (8 * 0x20) + 2 ^ (8 * 0x24) + 2 ^ (8 * 0x28) + 2 ^ (8 * 0x2D) + 64 * 2 ^ (8 * 0x30) + 0x100000 * 2 ^ (8 * 8) + 0xFFFFFFFF * 2 ^ (8 * 0xA4))

/-- A context 0 whose tables map the first 512 MiB onto themselves, a block of one warp on core 0, and the instruction at its
PC; the warp's turn comes next. -/
def State.placeFresh (s : State) (bs : List Byte) : State :=
  let mem := writeMem (writeMem (writeMem s.mem 0x10000 (bytesOf 8 0x20001)) 0x20000 (bytesOf 8 0x1F)) 0x100000 bs
  let ctx : Ctx := { gen := 1, usable := true, root := 0x10000, faultBase := 0x1000000 }
  let w : Warp := { blk := 0, index := 0, live := allSet 16, pcs := (List.range 16).map fun i => (i, placePc) }
  let b : Block := { ctx := 0, record := placeRecord, width := 16, core := 0, wids := [0], started := true }
  { s with mem := mem, ctxs := s.ctxs.set 0 ctx, warps := s.warps.set 0 w, blocks := s.blocks.set 0 b, agenda := .issue 0 :: s.agenda }

end Sys2Proof.Machine
end

