-- ==== Sys2Proof/Machine/Control.lean ====
section
/-!
DEFINITION. Control flow, reconvergence and traps: class 7 (R148 to R168).
-/

namespace Sys2Proof.Machine

/-- A tgt or end literal's address (R149). -/
def litTarget (pc : Addr54) (l : Word) : Addr54 := pc + BitVec.ofInt 54 (4 * l.toInt)

/-- The target of a JMP, CALL or RET, none where a register target is not aligned (R149, R152). -/
def Cx.target (cx : Cx) (s : State) (reg : Nat) : Option Addr54 :=
  match cx.lit with
  | some l => some (litTarget cx.pc l)
  | none =>
    let x := cx.sval s reg
    if x.toNat % 4 = 0 then some (BitVec.ofNat 54 x.toNat) else none

/-- The state after lanes of a warp move to an address (R151, R152). -/
def State.moveTo (s : State) (W wid : Nat) (lanes : Lanes) (t : Addr54) : State :=
  s.updWarp wid fun w => w.setPcs t (members W (lanes &&& w.live))

/-- The selected lanes that do not take part go to the next instruction (R148). -/
def State.othersOn (s : State) (cx : Cx) : State :=
  cx.parts.foldl (fun (s : State) (p : Part) =>
    let x := p.sel &&& ~~~ p.lanes
    if x = 0 then s else s.updWarp p.wid fun w => w.complete cx.W x cx.pc cx.len) s

/-- The next instruction's address. -/
def Cx.next (cx : Cx) : Addr54 := cx.pc + BitVec.ofNat 54 cx.len

/-- BRA's effect (R128, R129, R151). -/
def effBra (cx : Cx) (s : State) : Eff :=
  match cx.parts with
  | [] => .ok s
  | p :: _ =>
    let w := s.warpD p.wid
    let bits := if cx.m / 4 % 2 = 1 then ~~~ (w.kget cx.e.a.toNat) else w.kget cx.e.a.toNat
    let taken := p.lanes &&& bits
    let rest := p.sel &&& ~~~ taken
    let t := litTarget cx.pc (cx.lit.getD 0)
    let split := taken != 0 && rest != 0
    let hint := cx.m % 4
    if split && hint = 3 then .fault { code := Code.divergent }
    else
      let s := (s.moveTo cx.W p.wid taken t).moveTo cx.W p.wid rest cx.next
      .jumped (if split then s.updWarp p.wid fun w => { w with pin := if hint = 1 then taken else if hint = 2 then rest else 0 } else s)

/-- Whether moving lanes to an address separates the lanes of a pinned group (R128). -/
def separates (w : Warp) (p : Part) (cx : Cx) (t : Addr54) : Bool :=
  w.pin &&& p.lanes != 0 && w.pin &&& p.sel &&& ~~~ p.lanes != 0 && t != cx.next

/-- The pins that moving the participating lanes to an address ends (R128). -/
def Cx.unpin (cx : Cx) (s : State) (t : Addr54) : State :=
  cx.parts.foldl (fun (s : State) (p : Part) => s.updWarp p.wid fun w => if separates w p cx t then { w with pin := 0 } else w) s

/-- The move of a JMP, CALL or RET (R128, R148, R152). -/
def Cx.jump (cx : Cx) (s : State) (t : Addr54) : State :=
  cx.parts.foldl (fun (s : State) (p : Part) => s.moveTo cx.W p.wid p.lanes t) (cx.unpin (s.othersOn cx) t)

/-- The effect of JMP and RET on a target register (R152). -/
def effJump (reg : Cx → Nat) (cx : Cx) (s : State) : Eff :=
  match cx.target s (reg cx) with
  | none => .fault { code := Code.pcAlign }
  | some t => .jumped (cx.jump s t)

/-- CALL's effect: s63 is written after the target register is read (R152). -/
def effCall (cx : Cx) (s : State) : Eff :=
  match cx.target s cx.e.a.toNat with
  | none => .fault { code := Code.pcAlign }
  | some t => .jumped (cx.jump (cx.emitScalar s 63 (BitVec.ofNat 64 cx.next.toNat)) t)

/-- JOIN's effect (R153). -/
def effJoin (cx : Cx) (s : State) : Eff := .ok (cx.emit s 0 fun p _ => [.mask cx.e.dst.toNat p.lanes p.lanes])

/-- LEAVE's effect (R153). -/
def effLeave (cx : Cx) (s : State) : Eff := .ok (cx.emit s 0 fun p _ => [.mask cx.e.dst.toNat p.lanes 0])

/-- WAIT's effect (R154, R155): lanes outside the mask pass; where the condition holds with the arriving lanes nothing
parks, and every earlier waiter is released. -/
def effWait (cx : Cx) (s : State) : Eff :=
  match cx.parts with
  | [] => .ok s
  | p :: _ =>
    let w := s.warpD p.wid
    let n := cx.e.a.toNat
    let arr := p.lanes &&& w.kget n
    let earlier := w.parks.filter fun q => q.place = .wait n
    if arr = 0 then .ok s
    else if (w.live &&& w.kget n) &&& ~~~ (arr ||| parkedOf earlier) = 0 then
      .jumped (s.updWarp p.wid fun w =>
        { w.releaseWaits cx.W n p.sel cx.pc with lclk := if earlier.isEmpty then w.lclk else releaseClock cx.dmode w.lclk w.lclk })
    else
      let s := s.updWarp p.wid fun w => { w with parks := w.parks ++ [{ lanes := arr, pc := cx.pc, len := cx.len, place := .wait n, clock := w.lclk }] }
      let x := p.sel &&& ~~~ arr
      .jumped (if x = 0 then s else s.updWarp p.wid fun w => w.complete cx.W x cx.pc cx.len)

/-- LOOP's effect (R156): the depth test, then the length of the instruction at end, then the entry or the skip. -/
def effLoop (cx : Cx) (s : State) : Eff :=
  match cx.parts with
  | [] => .ok s
  | p :: _ =>
    let w := s.warpD p.wid
    let c : Word := if cx.m % 2 = 1 then BitVec.ofNat 32 cx.e.a.toNat else lo32 (cx.sval s cx.e.a.toNat)
    let t := litTarget cx.pc (cx.lit.getD 0)
    if 4 ≤ w.loops.length then .fault { code := Code.loopDepth }
    else match s.fetchWord (coreOf p.wid) (cx.block s).ctx t with
      | .fault a => .fault { code := Code.instrFetch, addr := some (BitVec.ofNat 64 (s.chip * 2 ^ 54 + a.toNat)) }
      | .wait a => .mig a
      | .ok bs s =>
        match lengthOf (numOf bs) with
        | none => .fault { code := Code.illegal }
        | some n =>
          let s := s.othersOn cx
          if c = 0 then .jumped (s.moveTo cx.W p.wid p.lanes (t + BitVec.ofNat 54 n))
          else .jumped ((s.updWarp p.wid fun w => { w with loops := w.loops ++ [{ start := cx.next, stop := t, remaining := c - 1 }] }).moveTo cx.W p.wid p.lanes cx.next)

/-- Whether an EXIT would exit its block's last live lanes (R201). -/
def Cx.exitsLast (cx : Cx) (s : State) : Bool :=
  (cx.block s).wids.all fun v => match s.warp? v with
    | none => true
    | some w => w.live &&& ~~~ (((cx.parts.find? fun p => p.wid = v).map (·.lanes)).getD 0) = 0

/-- Abandoned tiles of strict pools (R201). -/
def State.strictAbandoned (s : State) (b : Block) : Bool :=
  b.tiles.any fun e => (poolOf b.record (e.1 / 2048)).strict && !e.2.free
    && (e.2.count != 0 || e.2.pend != 0 || s.tileBusy b (e.1 / 2048) (e.1 % 2048))

/-- EXIT's effect (R161, R201); in a re-execution TILE_ABANDON faults the grid (R387). A group whose selected lanes all exit completes
nothing at a loop end: it makes no loop-end test and uses no count (assumption 57). -/
def effExit (cx : Cx) (s : State) : Eff :=
  let b := cx.block s
  if cx.exitsLast s && s.strictAbandoned b then
    if b.kind = .rerun then .jumped (s.faultBlock cx.blk Code.tileAbandon cx.wid (BitVec.ofNat 64 (s.chip * 2 ^ 54 + s.faultEntry b cx.wid)))
    else .fault { code := Code.tileAbandon, info := s.abandoned b }
  else if cx.exitsLast s && s.originFull then .stall
  else .jumped (cx.parts.foldl (fun (s : State) (p : Part) => s.exitLanes p.wid p.lanes) (s.othersOn cx))

/-- Raises a trap whose frame resumes after the instruction (R164); an entry that has to wait leaves the lanes at the instruction
(R135, R300). -/
def Cx.raise (cx : Cx) (s : State) (code info : Nat) : Eff :=
  match s.trapHold (cx.parts.map (·.wid)) with
  | some (some va) => .mig va
  | some none => .stall
  | none => .jumped ((s.advance cx).faultIssue s cx [] (some { code := code, info := info }))

/-- TRAP's effect (R166). -/
def effTrap (cx : Cx) (s : State) : Eff := cx.raise s Code.trap cx.e.b.toNat

/-- BKPT's effect (R167, R403, R407): with the pass flag set for its PC it only advances, claim or no claim. Under a claim it stops the block in trap mode too, and is no double fault: R403 lets no handler
run, R165 would end the block (assumption 56). -/
def effBkpt (cx : Cx) (s : State) : Eff :=
  match cx.parts with
  | [] => .ok s
  | p :: _ =>
    if p.pass then .ok s
    else if (s.ctx (cx.block s).ctx).claim.isSome then .jumped (s.warpHit p.wid 2 cx.e.b.toNat cx.pc true)
    else cx.raise s Code.breakpoint cx.e.b.toNat

/-- TRET's effect (R168). -/
def effTret (cx : Cx) (s : State) : Eff :=
  match cx.parts with
  | [] => .ok s
  | p :: _ =>
    let w := s.warpD p.wid
    if w.frame.isNone then .fault { code := Code.illegal }
    else match cx.m % 4 with
      | 0 => .jumped (s.trapReturn p.wid 0)
      | 1 => .jumped (s.trapReturn p.wid (w.kget cx.e.a.toNat))
      | _ => .jumped (s.endBlock cx.blk p.wid 1)

/-- YIELD's effect: the warp is no candidate in the next cycle (R163). -/
def effYield (cx : Cx) (s : State) : Eff :=
  .ok (cx.parts.foldl (fun (s : State) (p : Part) => s.updWarp p.wid fun w => { w with skip := true }) s)

/-- NOP's effect: PCs only (R162). -/
def effNop (_cx : Cx) (s : State) : Eff := .ok s

/-- BRA (R151). -/
def execBra (e : Enc) (s : State) : Host.Outcome State Fault Refusal := s.runLong .bra e effBra
/-- JMP (R152). -/
def execJmp (e : Enc) (s : State) : Host.Outcome State Fault Refusal := s.runLong .jmp e (effJump fun cx => cx.e.a.toNat)
/-- CALL (R152). -/
def execCall (e : Enc) (s : State) : Host.Outcome State Fault Refusal := s.runLong .call e effCall
/-- RET (R152). -/
def execRet (e : Enc) (s : State) : Host.Outcome State Fault Refusal := s.runLong .ret e (effJump fun _ => 63)
/-- JOIN (R153). -/
def execJoin (e : Enc) (s : State) : Host.Outcome State Fault Refusal := s.runLong .join e effJoin
/-- LEAVE (R153). -/
def execLeave (e : Enc) (s : State) : Host.Outcome State Fault Refusal := s.runLong .leave e effLeave
/-- WAIT (R154, R155). -/
def execWait (e : Enc) (s : State) : Host.Outcome State Fault Refusal := s.runLong .wait e effWait
/-- LOOP (R156). -/
def execLoop (e : Enc) (s : State) : Host.Outcome State Fault Refusal := s.runLong .loop e effLoop
/-- EXIT (R161). -/
def execExit (e : Enc) (s : State) : Host.Outcome State Fault Refusal := s.runLong .exit e effExit
/-- NOP (R162). -/
def execNop (e : Enc) (s : State) : Host.Outcome State Fault Refusal := s.runLong .nop e effNop
/-- The short form of NOP (R36, R162). -/
def execNopF32 (s : State) : Host.Outcome State Fault Refusal :=
  s.runShort .nop { scope := .lane, dst := 0, a := 0, b := 0 } effNop
/-- TRAP (R166). -/
def execTrap (e : Enc) (s : State) : Host.Outcome State Fault Refusal := s.runLong .trap e effTrap
/-- TRET (R168). -/
def execTret (e : Enc) (s : State) : Host.Outcome State Fault Refusal := s.runLong .tret e effTret
/-- BKPT (R167). -/
def execBkpt (e : Enc) (s : State) : Host.Outcome State Fault Refusal := s.runLong .bkpt e effBkpt
/-- YIELD (R163). -/
def execYield (e : Enc) (s : State) : Host.Outcome State Fault Refusal := s.runLong .yield e effYield

end Sys2Proof.Machine
end

