-- ==== Sys2Proof/Machine/Access.lean ====
section
/-!
DEFINITION. A memory access from its address to its performance: where it lands and what faults (R169 to R176, R229, R230),
waiting for presence (R178, R231), performing in element order, and what a performed access leaves behind (R265 to R267, R380,
R408).
-/

namespace Sys2Proof.Machine

/-! ## Words and places -/

/-- Words as one number, the first least significant (R9). -/
def wordsNum : List Word → Nat
  | [] => 0
  | w :: r => w.toNat + 2 ^ 32 * wordsNum r

/-- The k words of a number. -/
def toWords (n : Nat) : Nat → List Word
  | 0 => []
  | k + 1 => BitVec.ofNat 32 n :: toWords (n / 2 ^ 32) k

/-- The bytes of words (R9). -/
def wordBytes (ws : List Word) : List Byte := ws.flatMap fun w => bytesOf 4 w.toNat

/-- The 4-byte words of n contiguous bytes. -/
def wordsFrom (o n : Nat) : List Nat := (List.range (n / 4)).map fun i => o + 4 * i

/-- The pool and tile of a partition offset (R188); `shared` asks for pools declared cluster (R202). -/
def Block.tileAt (b : Block) (r : Nat) (shared : Bool) : Option (Nat × Nat) :=
  ((List.range 8).find? fun p =>
    let e := poolOf b.record p
    e.valid && (!shared || e.cluster) && e.offset ≤ r && r < e.offset + e.count * e.size).map fun p =>
      (p, (r - (poolOf b.record p).offset) / (poolOf b.record p).size)

/-- Whether an absolute offset of a block is visible through the cluster window (R174). -/
def Block.shown (b : Block) (o : Nat) : Bool := o - b.pbase < b.plain || (b.tileAt (o - b.pbase) true).isSome

/-- The owner of a byte that the cluster window shows to a context (R174). -/
def State.ownerOf (s : State) (ctx core o : Nat) : Option (Nat × Block) :=
  s.blocks.find? fun (e : Nat × Block) => e.2.ctx = ctx && e.2.core = core && !e.2.ended && e.2.holds o && e.2.shown o

/-- The effective address of an address value with an offset (R169), and whether the value breaks R170. -/
def effAddr (space x width : Nat) (off : Int) : Int × Bool :=
  if space = 2 then
    let o := ((x % 2 ^ 21 : Nat) : Int) + off
    (((x / 2 ^ 21 * 2 ^ 21 : Nat) : Int) + o, 2 ^ 23 ≤ x || o < 0 || 2 ^ 21 < o + width)
  else ((x : Int) + off, space != 0 && 2 ^ 32 ≤ x)

/-- What checking one lane's access gives (R230, R315). -/
inductive Checked where
  | ok (l : Loc)
  | bad (code : Nat)
  | mig (va : Addr54)

/-- The right that an access needs (R230, R312). -/
def AccKind.access : AccKind → Access
  | .load _ _ _ => .read
  | .store _ _ _ => .write
  | _ => .atom

/-- Whether an access is an ATOM or an MRED. -/
def AccKind.atomic : AccKind → Bool
  | .atom _ | .mred _ => true
  | _ => false

/-- A .glb access (R171, R230): the chip field, alignment, translation, FORMAT_ATOMIC. -/
def State.checkGlb (s : State) (core ctx width : Nat) (acc : Access) (atomic : Bool) (x : Int) : Checked :=
  if x < 0 || 2 ^ 64 ≤ x then .bad Code.spaceRange
  else
    let n := x.toNat
    if n / 2 ^ 54 != s.chip then .bad Code.remoteDirect
    else if n % width != 0 then .bad Code.misaligned
    else match s.translate core ctx (n % 2 ^ 54) acc with
      | .pageFault => .bad Code.pageFault
      | .permission => .bad Code.permission
      | .migrating => .mig (BitVec.ofNat 54 n)
      | .ok pa => if atomic && inAperture pa then .bad Code.formatAtomic else .ok (.glb pa)

/-- A .glb address as a block's accesses use it: in a shadow run its bits [53:0] on the witness's own partition (R386). -/
def State.shadowAddr (s : State) (b : Block) (x : Int) : Int :=
  if b.kind = .shadow && 0 ≤ x && x < 2 ^ 64 then ((s.chip * 2 ^ 54 + x.toNat % 2 ^ 54 : Nat) : Int) else x

/-- A lane's access against R230, in the order of its causes. -/
def State.checkLane (s : State) (op : MemOp) (a : LaneAcc) : Checked :=
  let b := s.block op.blk
  let n := a.addr.toNat
  let core := coreOf a.wid
  let within := fun (size : Nat) => !a.bad && 0 ≤ a.addr && a.addr + op.width ≤ size
  if op.space = 0 then s.checkGlb core b.ctx op.width op.kind.access op.kind.atomic (s.shadowAddr b a.addr)
  else if a.addr % op.width != 0 then .bad Code.misaligned
  else match op.space with
    | 1 => if within b.psize then .ok (.spad b.core (wordsFrom (b.pbase + n) op.width)) else .bad Code.spaceRange
    | 2 =>
      let c := 4 * clusterOf core + n / 2 ^ 21
      let o := n % 2 ^ 21
      if !a.bad && 0 ≤ a.addr && (List.range op.width).all fun i => (s.ownerOf b.ctx c (o + i)).isSome then .ok (.spad c (wordsFrom o op.width))
      else .bad Code.spaceRange
    | 3 =>
      let (base, size) := (s.ctx b.ctx).diewin.getD (dieOf core) (0, 0)
      if within (size * 65536) then .ok (.die (dieOf core * 2 ^ 25 + base * 65536 + n)) else .bad Code.spaceRange
    | _ =>
      if within b.lanepriv then
        let i := (match s.warp? a.wid with | some w => w.index | none => 0) * b.width + a.lane
        .ok (.spad b.core ((wordsFrom n op.width).map fun o => b.pbase + b.plain + (o / 4 * b.lanes + i) * 4))
      else .bad Code.spaceRange

/-- The record of a lane's fault (R271). -/
def MemOp.laneRec (op : MemOp) (code : Nat) (a : LaneAcc) : Rec :=
  { code := code, lane := a.lane, width := op.width, addr := some (BitVec.ofInt 64 a.addr), space := op.space }

/-- A record of the whole issue that names the first lane's address (R272, R273). -/
def MemOp.issueRec (op : MemOp) (code : Nat) : Rec :=
  match op.lanes with
  | a :: _ => { op.laneRec code a with lane := 0xFF }
  | [] => { code := code }

/-- The faulting lanes of an issue with their records. -/
def State.laneFaults (s : State) (op : MemOp) : List (Nat × Rec) :=
  op.lanes.filterMap fun a => match s.checkLane op a with
    | .bad c => some (a.wid, op.laneRec c a)
    | _ => none

/-- The first address of an issue on a migrating page (R315). -/
def State.laneMig (s : State) (op : MemOp) : Option Addr54 :=
  op.lanes.findSome? fun a => match s.checkLane op a with
    | .mig va => some va
    | _ => none

/-- The blocks whose bytes a .cls access reaches (R174). -/
def State.ownersOf (s : State) (op : MemOp) : List Nat :=
  if op.space != 2 then []
  else (op.lanes.flatMap fun a => (List.range op.width).filterMap fun i =>
    (s.ownerOf (s.block op.blk).ctx (4 * clusterOf (coreOf a.wid) + a.addr.toNat / 2 ^ 21) (a.addr.toNat % 2 ^ 21 + i)).map (·.1)).eraseDups

/-- The issue with every lane's place. -/
def State.located (s : State) (op : MemOp) : MemOp :=
  { op with owners := s.ownersOf op, lanes := op.lanes.map fun a => match s.checkLane op a with
    | .ok l => { a with loc := l }
    | _ => a }

/-! ## Presence and tiles (R178, R234) -/

/-- Whether every granule that a place touches is present. -/
def State.locPresent (s : State) : Loc → Bool
  | .spad c ws => ws.all fun o => (s.core c).present o
  | _ => true

/-- Whether every granule that an issue touches is present (R178). -/
def State.opPresent (s : State) (op : MemOp) : Bool := op.lanes.all fun a => s.locPresent a.loc

/-- The block and tile that a word of a core's scratchpad lies in, for a consuming load (R234). -/
def State.tileOf (s : State) (op : MemOp) : Loc → Option (Nat × Nat × Nat)
  | .spad c (o :: _) =>
    (s.blocks.find? fun (e : Nat × Block) => (e.1 = op.blk || op.space = 2) && e.2.ctx = (s.block op.blk).ctx && e.2.core = c && !e.2.ended && e.2.holds o).bind fun e =>
      (e.2.tileAt (o - e.2.pbase) (op.space = 2)).map fun t => (e.1, t.1, t.2)
  | _ => none

/-- The one tile that every lane of a consuming load addresses, none where there is no such tile (R194, R234). -/
def State.consumed (s : State) (op : MemOp) : Option (Nat × Nat × Nat) :=
  match op.lanes with
  | [] => none
  | a :: _ => match s.tileOf op a.loc with
    | none => none
    | some t => if op.lanes.all fun x => match x.loc with
        | .spad c ws => ws.all fun o => s.tileOf op (.spad c [o]) = some t
        | _ => false
      then some t else none

/-! ## Reading and writing a place -/

/-- The n bytes at a place. -/
def State.readLoc (s : State) (n : Nat) : Loc → List Byte × State
  | .glb pa => s.loadGlb pa n
  | .spad c ws => (ws.flatMap fun o => (s.core c).readSpad o 4, s.correct (s.meets none n (.spad c ws)))
  | .die a => (s.readDie a n, s.correct (s.meets none n (.die a)))

/-- Words of a core's scratchpad written, four bytes each. -/
def State.writeWords (s : State) (core : Nat) : List Nat → List Byte → State
  | [], _ => s
  | o :: r, bs => State.writeWords (s.writeSpad core o (bs.take 4)) core r (bs.drop 4)

/-- A store to a place (R231): in a scratchpad, words in use as barrier objects are tested (R241). -/
def State.writeLoc (s : State) (bs : List Byte) (clock : DWord) : Loc → State
  | .glb pa => s.storeGlb pa bs
  | .spad c ws => ((ws.map fun o => o / 8 * 8).eraseDups).foldl (fun (s : State) o => s.storedBar c o clock)
      ((s.writeWords c ws bs).clearErrors fun x => match x with
        | .spad d w => c = d && ws.contains (8 * w) && ws.contains (8 * w + 4)
        | _ => false)
  | .die a => s.writeDie a bs

/-! ## What an access leaves behind -/

/-- Whether an access reads its place. -/
def AccKind.reads : AccKind → Bool
  | .store _ _ _ => false
  | _ => true

/-- The lanes whose reads meet an uncorrectable error (R231, R427). -/
def State.opErrors (s : State) (op : MemOp) : List (Nat × Rec) :=
  if s.platform.errors.isEmpty || !op.kind.reads then []
  else (op.lanes.filter fun a => s.locError (some (coreOf a.wid)) op.width a.loc).map fun a => (a.wid, op.laneRec Code.machineCheck a)

/-- Whether an issue reads a stored word (R426). -/
def State.opMeets (s : State) (op : MemOp) (x : Locus) : Bool := op.kind.reads && op.lanes.any fun a => s.meets (some (coreOf a.wid)) op.width a.loc x

/-- Whether an issue's store replaces the whole word or sector that an error marks, its lanes taken together (R231, R427). -/
def MemOp.replaces (op : MemOp) (x : Locus) : Bool :=
  let glb := fun (b n : Nat) => (List.range n).all fun i => op.lanes.any fun a => match a.loc with
    | .glb pa => pa ≤ b + i && b + i < pa + op.width
    | _ => false
  match x with
  | .dram k => glb (64 * k) 64
  | .l1 _ w | .l2 w => glb (8 * w) 8
  | .spad c w => (List.range 8).all fun i => op.lanes.any fun a => match a.loc with
    | .spad d ws => c = d && ws.any fun o => o ≤ 8 * w + i && 8 * w + i < o + 4
    | _ => false
  | .die w => (List.range 8).all fun i => op.lanes.any fun a => match a.loc with
    | .die d => d ≤ 8 * w + i && 8 * w + i < d + op.width
    | _ => false
  | _ => false

/-- Whether a physical address lies in a format window that is off (R319). -/
def State.windowOff (s : State) (pa : Nat) : Bool := inAperture pa && (s.windowAt pa).any fun y => !y.2.on

/-- Holds a FORMAT_WINDOW fault where a place lies in a window that is off (R319). -/
def State.holdWindow (s : State) (blk : Nat) (addr : DWord) (write : Bool) (pa : Nat) : State :=
  if !inAperture pa then s
  else match s.windowAt pa with
    | some (_, w) => if w.on then s else s.hold blk { code := Code.formatWindow, info := w.entry + (if write then 256 else 0), addr := some addr }
    | none => s

/-- The window fault of an issue: one, for its first access to a window that is off (R319). -/
def State.opWindow (s : State) (op : MemOp) (write : Bool) : State :=
  match op.lanes.find? fun a => match a.loc with
    | .glb pa => s.windowOff pa
    | _ => false with
  | some a => match a.loc with
    | .glb pa => s.holdWindow op.blk (BitVec.ofInt 64 a.addr) write pa
    | _ => s
  | none => s

/-- TLB entries and L1 tags after one lane's access (R180, R182, R313); what is performed at the home agent leaves no L1 copy. -/
def State.laneTags (s : State) (op : MemOp) (a : LaneAcc) : State :=
  match a.loc with
  | .glb pa =>
    let s := s.tlbFill (coreOf a.wid) (s.block op.blk).ctx (a.addr.toNat % 2 ^ 54)
    match op.kind with
    | .load _ _ _ => s.touch (coreOf a.wid) pa false
    | .store _ _ _ => if inAperture pa then s else s.touch (coreOf a.wid) pa true
    | .mred o => if o = 6 then s.dropOthers 4096 (pa / 128) true else s.joinU (coreOf a.wid) pa o
    | .atom _ => (s.combineLine (pa / 128)).dropOthers 4096 (pa / 128) true
    | _ => s
  | _ => s

/-- TLB entries and L1 tags after an issue. -/
def State.opTags (s : State) (op : MemOp) : State := op.lanes.foldl (fun (s : State) (a : LaneAcc) => s.laneTags op a) s

/-- Watchpoints against an issue's scratchpad accesses, warp by warp; accesses of a warp in trap mode never hit (R408). -/
def State.opWatch (s : State) (op : MemOp) : State :=
  if op.trap || s.ctxs.all fun c => c.2.watches.isEmpty then s
  else
    let kind := match op.kind with | .load _ _ _ => 1 | .store _ _ _ => 2 | _ => 3
    op.warps.foldl (fun (s : State) (m : Nat × Lanes) =>
      let ls := op.lanes.filter fun a => a.wid = m.1
      let cores := (ls.filterMap fun a => match a.loc with | .spad c _ => some c | _ => none).eraseDups
      cores.foldl (fun (s : State) c =>
        let ts := ls.flatMap fun a => match a.loc with
          | .spad d ws => if d = c then ws.map fun o => (a.lane, o, 4) else []
          | _ => []
        s.watchAccess c kind { kind := 0, wid := m.1, pc := op.pc, core := coreOf m.1, scope := op.scope, width := op.width, lanes := m.2, members := op.members } ts) s) s

/-- The terms of one lane's store (R380). -/
def storeTerms (lid clock : DWord) (addr width : Nat) : Nat → List Word → DWord
  | _, [] => 0
  | i, w :: r => foldWords [lid, clock, BitVec.ofNat 64 ((addr + 4 * i) % 2 ^ 54), BitVec.ofNat 64 (width * 2 ^ 32) ^^^ w.zeroExtend 64]
      + storeTerms lid clock addr width (i + 1) r

/-- The store digest after an issue's .glb stores (R380). -/
def State.opDigest (s : State) (op : MemOp) : State :=
  if op.space != 0 || !(s.block op.blk).folds then s
  else s.updBlock op.blk fun b =>
    { b with digest := op.lanes.foldl (fun d a =>
      let index := match s.warp? a.wid with | some w => w.index | none => 0
      d + storeTerms (b.lid index a.lane) a.clock a.addr.toNat op.width 0 a.data) b.digest }

/-- The report of the ordering-dependence detector (R267). -/
def reportBytes (kind grid first line block wid lane : Nat) (pc : Addr54) : List Byte :=
  bytesOf 2 kind ++ bytesOf 2 grid ++ bytesOf 4 first ++ bytesOf 8 line ++ bytesOf 4 block ++ bytesOf 2 wid ++ bytesOf 1 lane
    ++ bytesOf 1 0 ++ bytesOf 8 pc.toNat

/-- A report: a record in the report ring, and in D-mode ORDER_DEPENDENCE for a second writer (R267). -/
def State.report (s : State) (op : MemOp) (a : LaneAcc) (kind first line : Nat) : State :=
  let b := s.block op.blk
  let lane := (op.lanes.filter fun x => x.wid = a.wid).foldl (fun m x => min m x.lane) a.lane
  let r := reportBytes kind b.grid first line b.bid a.wid lane op.pc
  let s := s.record b.ctx (s.ctx b.ctx).rring r
  if kind = 1 && s.dmode b then
    s.hold op.blk { code := Code.orderDependence, pc := BitVec.ofNat 64 op.pc.toNat, addr := some (BitVec.ofNat 64 line), body := some r, scope := op.scope, width := op.width }
  else s

/-- One watched store against its home agent's detector table (R266). -/
def State.detect (s : State) (op : MemOp) (a : LaneAcc) (pa : Nat) : State :=
  let b := s.block op.blk
  let line := pa / 128 * 128
  let h := homeOf pa
  let t := s.home h
  match t.detector.find line with
  | none =>
    if t.untracked.any fun x => x / 65536 = line then s
    else if t.detector.length < 16384 then
      s.updHome h fun t => { t with detector := t.detector.set line (b.grid, b.bid, false) }
    else (s.updHome h fun t => { t with untracked := (line * 65536 + b.grid) :: t.untracked }).report op a 2 0 line
  | some (g, i, many) =>
    if many || (g = b.grid && i = b.bid) then s
    else (s.updHome h fun t => { t with detector := t.detector.set line (g, i, true) }).report op a 1 i line

/-- The detector on an issue's .glb stores (R265). -/
def State.opDetect (s : State) (op : MemOp) : State :=
  let c := s.ctx (s.block op.blk).ctx
  if !(c.dmode || c.detect) then s
  else op.lanes.foldl (fun (s : State) (a : LaneAcc) => match a.loc with
    | .glb pa => s.detect op a pa
    | _ => s) s

/-- Two requests to one sector as one, the later bytes on top (R318). -/
def mergeReq (x y : AliasReq) : AliasReq := { x with mask := x.mask ||| y.mask, data := mergeMask y.mask 0 x.data y.data }

/-- A request added to those of its issue, one per sector (R318). -/
def addReq (r : AliasReq) : List AliasReq → List AliasReq
  | [] => [r]
  | q :: l => if q.window = r.window && q.sector = r.sector then mergeReq q r :: l else q :: addReq r l

/-- The requests from the n-th on, which one issue made, merged by sector (R318). -/
def State.mergeAlias (s : State) (n : Nat) : State :=
  { s with aliasQ := s.aliasQ.take n ++ (s.aliasQ.drop n).foldl (fun l r => addReq r l) [] }

/-! ## Performing -/

/-- Whether an issue writes nothing because its block is run by a witness (R386). -/
def State.dry (s : State) (op : MemOp) : Bool := (s.block op.blk).kind = .shadow && op.space = 0

/-- The value an ATOM leaves (R248). -/
def atomNew (op lane : Nat) (pc : Addr54) (old b c : Nat) : Nat :=
  match op with
  | 0 => (old + b) % 2 ^ 32
  | 5 => (old + b) % 2 ^ 64
  | 1 | 6 => b
  | 2 | 7 => if old = b then c else old
  | _ => (fadd32 lane pc (BitVec.ofNat 32 old) (BitVec.ofNat 32 b)).toNat

/-- The value an MRED leaves (R248). -/
def mredNew (op lane : Nat) (pc : Addr54) (old b : Word) : Word :=
  match op with
  | 0 => old + b
  | 1 => old &&& b
  | 2 => old ||| b
  | 3 => old ^^^ b
  | 4 => if b.toInt < old.toInt then b else old
  | 5 => if old.toInt < b.toInt then b else old
  | _ => fadd32 lane pc old b

/-- One exact contribution of an MRED at a place, from a core (R79, R183). -/
def State.exactAdd (s : State) (core : Nat) (b : Word) : Loc → State
  | .glb pa => s.contribute core pa b
  | _ => s

/-- One exact contribution of an ATOM, at the home agent (R79, R183). -/
def State.exactHome (s : State) (b : Word) : Loc → State
  | .glb pa => s.aliasDone.mergeHome pa (ExactSum.empty.add (decodeVal .fp32 b.toNat))
  | _ => s

/-- One lane of an ATOM (R248): the old value's words. -/
def State.atomLane (s : State) (op : MemOp) (code : Nat) (a : LaneAcc) : List Word × State :=
  let (bs, s) := s.readLoc op.width a.loc
  let old := numOf bs
  let s := if s.dry op then s
    else if code = 4 then s.exactHome (a.data.getD 0 0) a.loc
    else s.writeLoc (bytesOf op.width (atomNew code a.lane op.pc old (wordsNum a.data) (wordsNum a.cmp))) a.clock a.loc
  (toWords old (op.width / 4), s)

/-- One lane of an MRED (R248). -/
def State.mredLane (s : State) (op : MemOp) (code : Nat) (a : LaneAcc) : State :=
  if s.dry op then s
  else if code = 7 then s.exactAdd (coreOf a.wid) (a.data.getD 0 0) a.loc
  else
    let new := fun (old : Word) => mredNew code a.lane op.pc old (a.data.getD 0 0)
    match a.loc with
    | .glb pa =>
      if code < 6 then s.updateWord pa new
      else
        let (bs, s) := s.loadGlb pa 4
        s.storeGlb pa (bytesOf 4 (new (BitVec.ofNat 32 (numOf bs))).toNat)
    | l =>
      let (bs, s) := s.readLoc 4 l
      s.writeLoc (bytesOf 4 (new (BitVec.ofNat 32 (numOf bs))).toNat) a.clock l

/-- Whether an issue makes exact contributions (R183, R248). -/
def AccKind.exact : AccKind → Bool
  | .atom o => o = 4
  | .mred o => o = 7
  | _ => false

/-- Whether the exact contribution of each lane finds a slot when its turn comes (R183): in the L1 of its core, or at the home agent. -/
def State.exactFits (s : State) (op : MemOp) : List LaneAcc → Bool
  | [] => true
  | a :: r => match a.loc, op.kind with
    | .glb pa, .mred o =>
      let s := s.laneTags op a
      let c := s.core (coreOf a.wid)
      (c.exact.any (fun e => e.1 = pa) || c.exact.length < 32 || (s.home (homeOf pa)).canTake pa) && State.exactFits (s.mredLane op o a) op r
    | .glb pa, .atom o =>
      ((s.readLoc op.width a.loc).2.home (homeOf pa)).canTake pa && State.exactFits (s.atomLane op o a).2 op r
    | _, _ => State.exactFits s op r

/-- Whether every exact contribution of an issue finds a slot (R183). -/
def State.opSlots (s : State) (op : MemOp) : Bool :=
  !op.kind.exact || s.dry op || (match op.kind with | .atom _ => s.opTags op | _ => s).exactFits op op.lanes

/-- Whether an issue can be performed now (R178, R183). -/
def State.opReady (s : State) (op : MemOp) : Bool := s.opPresent op && s.opSlots op

/-- The absent granules that an issue touches, as core and granule (R178). -/
def State.absentOf (s : State) (op : MemOp) : List (Nat × Nat) :=
  (op.lanes.flatMap fun a => match a.loc with
    | .spad c ws => (ws.filter fun o => !(s.core c).present o).map fun o => (c, o / 64)
    | _ => []).eraseDups

/-- The lanes of a load, in ascending e: what each read. -/
def State.loadLanes (s : State) (op : MemOp) : List LaneAcc → List (LaneAcc × List Word) × State
  | [] => ([], s)
  | a :: r =>
    let (bs, s) := s.readLoc op.width a.loc
    let (l, s) := State.loadLanes s op r
    ((a, toWords (numOf bs) (op.width / 4)) :: l, s)

/-- The lanes of an ATOM, in ascending e. -/
def State.atomLanes (s : State) (op : MemOp) (code : Nat) : List LaneAcc → List (LaneAcc × List Word) × State
  | [] => ([], s)
  | a :: r =>
    let (ws, s) := s.atomLane op code a
    let (l, s) := State.atomLanes s op code r
    ((a, ws) :: l, s)

/-- Gives an issue's results to its members' windows (R135): the scalar one to every member (R82), the lanes' words to the
lanes' own warps. -/
def State.fillResults (s : State) (op : MemOp) (scalar : Bool) (out : List (LaneAcc × List Word)) : State :=
  if scalar then s.fillScalars op.dst (BitVec.ofNat 64 (wordsNum (match out with | x :: _ => x.2 | [] => []))) op.wins
  else op.wins.foldl (fun (s : State) (m : Nat × Nat) =>
    let own := out.filter fun x => x.1.wid = m.1
    s.updWarp m.1 fun w => w.fillWindow m.2 ((List.range (op.width / 4)).map fun i => .vec (op.dst + i) (own.map fun x => (x.1.lane, x.2.getD i 0)))) s

/-- The largest clock of an issue's members before it counted. -/
def MemOp.clock (op : MemOp) : DWord := op.lanes.foldl (fun m a => if m.ult a.clock then a.clock else m) 0

/-- Whether a place lies in the alias aperture (R317). -/
def Loc.isAlias : Loc → Bool
  | .glb pa => inAperture pa
  | _ => false

/-- The stores of an issue, in ascending e (R231), with the detector (R265), the digest (R380) and the clock of a release
store (R374). Before a release store the alias writes that wait are performed (R235). What goes to one alias sector is one request, and is
queued behind the issue's other stores, which come after the alias writes that wait (R263, R318). -/
def State.storeLanes (s : State) (op : MemOp) (rel : Bool) : State :=
  let s := s.opDigest op
  if s.dry op then s
  else
    let s := if rel then s.aliasDone else s
    let s := ((s.opWindow op true).opDetect op).clearErrors op.replaces
    let put := fun (s : State) (as_ : List LaneAcc) => as_.foldl (fun (s : State) (a : LaneAcc) => s.writeLoc (wordBytes a.data) a.clock a.loc) s
    let s := put s (op.lanes.filter fun a => !a.loc.isAlias)
    let s := (put s (op.lanes.filter fun a => a.loc.isAlias)).mergeAlias s.aliasQ.length
    if rel then op.lanes.foldl (fun (s : State) (a : LaneAcc) => match a.loc with
      | .glb pa => { s with ringClock := s.ringClock.set (pa / 8) a.clock }
      | _ => s) s
    else s

/-- The core and offset of the word that a scalar scratchpad access lands at. -/
def MemOp.object (op : MemOp) : Nat × Nat :=
  match op.lanes with
  | a :: _ => match a.loc with
    | .spad c (o :: _) => (c, o)
    | _ => (0, 0)
  | [] => (0, 0)

/-- A word comes into use as a barrier object (R241). -/
def State.mark (s : State) (core o : Nat) : State :=
  s.updCore core fun c => { c with marks := if c.marks.contains o then c.marks else o :: c.marks }

/-- How performing an issue ends. -/
inductive Perf where
  | done (s : State)
  | lanes (l : List (Nat × Rec))
  | whole (r : Rec)

/-- The cycles of a bank conflict (R172): those behind the first that the fullest of some banks takes for the cells of one issue. -/
def conflictCycles (banks : Nat) (cells : List Nat) : Nat :=
  let at_ := cells.map fun c => c % banks
  at_.foldl (fun (n : Nat) b => max n (at_.filter fun x => x = b).length) 0 - 1

/-- The counters of an issue's cells (R172, R176, R419): cells read and written and conflicts in each scratchpad and die scratchpad, and what
goes through the cluster windows in units of 64 bytes. -/
def State.opCells (s : State) (op : MemOp) : State :=
  let reads : Bool := match op.kind with | .store _ _ _ => false | _ => true
  let writes : Bool := match op.kind with | .load _ _ _ => false | _ => true
  let words := op.lanes.flatMap fun a => match a.loc with | .spad c ws => ws.map fun o => (c, coreOf a.wid, o) | _ => []
  let s := (words.map (·.1)).eraseDups.foldl (fun (s : State) c =>
    let cells := ((words.filter fun x => x.1 = c).map fun x => x.2.2 / 16).eraseDups
    ((s.addCore c 32 (if reads then cells.length else 0)).addCore c 33 (if writes then cells.length else 0)).addCore c 34 (conflictCycles 256 cells)) s
  let far := ((words.filter fun x => x.1 != x.2.1).map fun x => (x.1, x.2.1, x.2.2 / 64)).eraseDups
  let s := far.foldl (fun (s : State) x =>
    let s := if reads then (s.addCore x.1 36 1).addCore x.2.1 35 1 else s
    if writes then (s.addCore x.1 35 1).addCore x.2.1 36 1 else s) s
  let dies := (op.lanes.filterMap fun a => match a.loc with | .die x => some (x / 16) | _ => none).eraseDups
  (dies.map fun x => x / 2 ^ 21).eraseDups.foldl (fun (s : State) d =>
    let cells := dies.filter fun x => x / 2 ^ 21 = d
    ((s.addDie d 16 (if reads then cells.length else 0)).addDie d 17 (if writes then cells.length else 0)).addDie d 18 (conflictCycles 512 cells)) s

/-- Whether an access is an MRED: each of its lanes joins the line just before it contributes (R182). -/
def AccKind.reduces : AccKind → Bool
  | .mred _ => true
  | _ => false

/-- Performs an issue for all its lanes together (R231). -/
def State.perform (s : State) (op : MemOp) : Perf :=
  match s.opErrors op with
  | e :: l => .lanes (e :: l)
  | [] =>
    let s := ((if op.kind.reduces then s else s.opTags op).opCells op).opWatch op
    let s := s.correct (s.opMeets op)
    let (c, o) := op.object
    match op.kind with
    | .load _ scalar cons =>
      let read := fun (s : State) =>
        let (out, s) := (s.opWindow op false).loadLanes op op.lanes
        s.fillResults op scalar out
      if cons then
        match s.consumed op with
        | none => .whole (op.issueRec Code.tileHandle)
        | some (key, p, t) =>
          if (s.block key).overread p t none then .whole (op.issueRec Code.tileOverread)
          else
            let s := (s.beginRead key p t op.clock).2
            .done (read (s.countCore (s.block key).core 51))
      else .done (read s)
    | .store _ _ rel => .done (s.storeLanes op rel)
    | .atom code =>
      let (out, s) := s.atomLanes op code op.lanes
      .done (s.fillResults op (5 ≤ code) out)
    | .mred code => .done (op.lanes.foldl (fun (s : State) (a : LaneAcc) => (s.laneTags op a).mredLane op code a) s)
    | .mbinit n => .done (s.changeBar c o { epoch := 0, need := n, left := n, due := 0 } op.clock)
    | .mbarr => .done (s.changeBar c o (let x := s.barObj c o; { x with left := x.left - 1 }) op.clock)
    | .mbexp n => .done (s.changeBar c o (let x := s.barObj c o; { x with due := (x.due + n) % 2 ^ 26 }) op.clock)
    | .mbwait _ => .done (s.mark c o)
    | .mbtest t scalar =>
      let s := s.mark c o
      let hit := reached (s.barObj c o).epoch t
      .done (if scalar then s.fillScalars op.dst (if hit then 1 else 0) op.wins
        else op.wins.foldl (fun (s : State) (m : Nat × Nat) =>
          let ls := ((op.warps.find? fun (x : Nat × Lanes) => x.1 = m.1).map (·.2)).getD 0
          s.updWarp m.1 fun w => w.fillWindow m.2 [.mask op.dst ls (if hit then ls else 0)]) s)

/-! ## Ordered operations (R376) -/

/-- Whether an issue's lanes are ordered operations of a D-mode warp (R249). -/
def State.opOrdered (s : State) (op : MemOp) : Bool :=
  s.dmode (s.block op.blk) && (match op.kind with | .atom _ => true | .mred o => o = 6 | _ => false)

/-- The performing point of a place (R249). -/
def pointOf (wid : Nat) : Loc → PerfPoint
  | .glb pa => .home (homeOf pa)
  | .spad c _ => .bank c
  | .die _ => .die (dieOf (coreOf wid))

/-- The lanes of an ordered issue reach their performing points, and its warps issue nothing until the result has returned
(R373, R376): an ATOM's warps wait for the delivery of their windows, an MRED's for its performance. `stay` are the lanes that
complete the instruction then; until then they stand at it, so that a withdrawal (R378) finds them there. -/
def State.addOrdered (s : State) (op : MemOp) (stay : List (Nat × Lanes)) : State :=
  let b := s.block op.blk
  let s := s.opTags op
  let s := { s with ordered := s.ordered ++ op.lanes.map fun a =>
    { point := pointOf a.wid a.loc, blk := op.blk, bid := b.bid, index := (match s.warp? a.wid with | some w => w.index | none => 0),
      clock := op.clock, op := op, acc := a } }
  stay.foldl (fun (s : State) (m : Nat × Lanes) =>
    let id := ((op.wins.find? fun (x : Nat × Nat) => x.1 = m.1).map (·.2)).getD op.id
    s.updWarp m.1 fun w => { w with waits := id :: w.waits, fence := some { pc := op.pc, len := op.len, lanes := m.2, clock := ((op.lanes.find? fun (a : LaneAcc) => a.wid = m.1).map (·.clock)).getD op.clock } }) s

/-! ## Issue -/

/-- Parks the participating lanes of every member (R127). -/
def Cx.parkOnly (cx : Cx) (s : State) (place : Place) : State :=
  cx.parts.foldl (fun (s : State) (p : Part) =>
    if p.lanes = 0 then s
    else s.updWarp p.wid fun w => { w with parks := w.parks ++ [{ lanes := p.lanes, pc := cx.pc, len := cx.len, place := place, clock := p.clock }] }) s

/-- Parks the participating lanes of every member; the other selected lanes go on (R148). -/
def Cx.parkAll (cx : Cx) (s : State) (place : Place) : State := cx.parkOnly (s.othersOn cx) place

/-- The end of an MBWAIT at its object (R245): passed where the target is reached, otherwise parked there. -/
def Cx.endWait (cx : Cx) (s : State) (op : MemOp) (t : Nat) : Eff :=
  let (c, o) := op.object
  if reached (s.barObj c o).epoch t then .ok s
  else
    let owner := (s.blocks.find? fun (e : Nat × Block) => e.2.core = c && !e.2.ended && e.2.holds o).map (·.1)
    .held (cx.parkAll s (.mbwait c o t (owner.getD cx.blk) op.scope op.members op.warps))

/-- A memory issue after its lanes have passed R230 (R231, R249). -/
def Cx.place (cx : Cx) (s : State) (op : MemOp) : Eff :=
  if !s.opReady op then .held (cx.parkAll (s.countCore (coreOf cx.wid) 37) (.granule { op with absent := s.absentOf op }))
  else if s.opOrdered op then
    match s.opErrors op with
    | e :: l => .faults (e :: l)
    | [] => .held (s.addOrdered op (cx.parts.map fun p => (p.wid, p.sel)))
  else match s.perform op with
    | .lanes l => .faults l
    | .whole r => .fault r
    | .done t => match op.kind with
      | .mbwait n => cx.endWait t op n
      | _ => .ok t

/-- A memory issue (R229 to R231): the lanes' checks, the tile of a consuming load, the lookahead windows of its
destinations. -/
def Cx.access (cx : Cx) (s : State) (op : MemOp) (dest : Bool) : Eff :=
  match s.laneFaults op with
  | e :: l => .faults (e :: l)
  | [] =>
    match s.laneMig op with
    | some va => .mig va
    | none =>
      let op := s.located op
      let cons := match op.kind with | .load _ _ c => c | _ => false
      if cons && (s.consumed op).isNone then .fault (op.issueRec Code.tileHandle)
      else
        let (id, s) := s.draw
        let (wins, s) := if dest then cx.openAll s cx.parts else ([], s)
        cx.place s { op with id := id, wins := wins }

/-! ## Parked accesses (R178, R183) -/

/-- The order in which accesses that come to be possible in one cycle reach their unit (R195): a core's own warps by %wid, then the
cluster window by core. -/
def MemOp.before (a b : MemOp) : Bool :=
  let key := fun (x : MemOp) => [if x.space = 2 then 1 else 0, ((x.warps.head?.map (·.1)).getD 0), x.id]
  key a < key b

/-- The parked accesses, in that order. -/
def State.parkedOps (s : State) : List MemOp :=
  sortBy MemOp.before <| ((s.warps.flatMap fun (e : Nat × Warp) => e.2.allParks.filterMap fun p => match p.place with
    | .granule op => some op
    | _ => none).foldl (fun (m : Map MemOp) (op : MemOp) => m.set op.id op) []).map (·.2)

/-- Whether a parking place is that of an access. -/
def Park.isOp (id : Nat) (p : Park) : Bool :=
  match p.place with
  | .granule op => op.id = id
  | _ => false

/-- The clock at which the granules that an access found absent came to be present (R374). -/
def State.opClock (s : State) (op : MemOp) : DWord :=
  op.absent.foldl (fun (m : DWord) g => let t := (s.core g.1).grantime.get 0 g.2; if m.ult t then t else m) 0

/-- A parked access of a warp changed in place. -/
def Warp.rePark (w : Warp) (id : Nat) (f : Park → Park) : Warp :=
  let g := fun (p : Park) => if p.isOp id then f p else p
  { w with parks := w.parks.map g, frame := w.frame.map fun x => { x with parks := x.parks.map g } }

/-- A parked access that finds further granules absent waits for them too. -/
def State.noteAbsent (s : State) (op : MemOp) : State :=
  let new := (s.absentOf op).filter fun g => !op.absent.contains g
  if new.isEmpty then s
  else { s with warps := s.warps.map fun (e : Nat × Warp) => (e.1, e.2.rePark op.id fun p => { p with place := .granule { op with absent := op.absent ++ new } }) }

/-- The entry of the warps of an access whose lanes, or which as a whole, are to fault (R134, R164, R272); one that has to wait leaves
`back`. -/
def State.enterAccess (s back : State) (warps : List (Nat × Lanes)) (pc : Addr54) (scope members : Nat) (lanes : List (Nat × Rec)) (whole : Option Rec) : State :=
  s.unlessHeld back (warps.map (·.1)) <| s.enterTrapAll pc (warps.map fun m =>
    let fill := fun (r : Rec) => { r with pc := BitVec.ofNat 64 pc.toNat, scope := scope, lanes := m.2, members := members }
    (m.1, match whole with
      | some r => [fill r]
      | none => (lanes.filter fun e => e.1 = m.1).map fun e => fill e.2))

/-- Takes the fault of lanes that were parked (R175, R231, R234, R351): they stand at their instruction again, their windows are
gone. It waits while a member is in trap mode or off-core, and while an entry has to wait (R164, R300, R359). -/
def State.failPark (s : State) (mine : Park → Bool) (warps : List (Nat × Lanes)) (wins : List (Nat × Nat)) (pc : Addr54)
    (scope members : Nat) (lanes : List (Nat × Rec)) (whole : Option Rec) : State :=
  if warps.any fun m => match s.warp? m.1 with | some w => w.offcore.isSome || (w.frame.isSome && !w.parks.any mine) | none => false then s
  else
    let t := warps.foldl (fun (s : State) (m : Nat × Lanes) => s.updWarp m.1 fun w =>
      { w with
        parks := w.parks.filter fun p => !mine p
        windows := w.windows.filter fun x => !wins.any fun y => y.2 = x.id }) s
    t.enterAccess s warps pc scope members lanes whole

/-- Takes the fault of an access that was parked. -/
def State.failOp (s : State) (op : MemOp) (lanes : List (Nat × Rec)) (whole : Option Rec) : State :=
  let t := s.failPark (Park.isOp op.id) op.warps op.wins op.pc op.scope op.members lanes whole
  if lanes.any (fun x => x.2.code = Code.machineCheck) && !t.warps.any (fun (e : Nat × Warp) => e.2.allParks.any (Park.isOp op.id)) then t.orderMachineCheck op.blk ((op.warps.head?.map (·.1)).getD 0) else t

/-- Whether a member of a parked issue is off-core, so that the issue waits for its return (R359). -/
def State.awayMember (s : State) (warps : List (Nat × Lanes)) : Bool := warps.any fun m => (s.warp? m.1).any fun w => w.offcore.isSome

/-- A parked access tried again: performed for all lanes together when it can be (R178). -/
def State.retryOp (s : State) (op : MemOp) : State :=
  if !(s.warps.any fun (e : Nat × Warp) => e.2.allParks.any (Park.isOp op.id)) || s.awayMember op.warps then s
  else if !s.opReady op then s.noteAbsent op
  else
    let clock := s.opClock op
    let free := fun (s : State) => s.releaseWhere clock fun _ _ p => p.isOp op.id
    if s.opOrdered op && !(s.opErrors op).isEmpty then s.failOp op (s.opErrors op) none
    else if s.opOrdered op then
      let here := op.warps.filter fun m => match s.warp? m.1 with | some w => w.parks.any (Park.isOp op.id) | none => false
      let s := here.foldl (fun (s : State) (m : Nat × Lanes) => s.updWarp m.1 fun w =>
        { w with parks := w.parks.filter fun p => !p.isOp op.id, lclk := releaseClock true w.lclk clock }) s
      free (s.addOrdered op here)
    else match s.perform op with
      | .lanes l => s.failOp op l none
      | .whole r => s.failOp op [] (some r)
      | .done t => match op.kind with
        | .mbwait n =>
          let (c, o) := op.object
          if reached (t.barObj c o).epoch n then free t
          else
            let owner := ((t.blocks.find? fun (e : Nat × Block) => e.2.core = c && !e.2.ended && e.2.holds o).map (·.1)).getD op.blk
            { t with warps := t.warps.map fun (e : Nat × Warp) => (e.1, e.2.rePark op.id fun p => { p with place := .mbwait c o n owner op.scope op.members op.warps }) }
        | _ => free t

/-- Whether an access waits on bytes whose owner has ended (R175). -/
def State.ownerGone (s : State) (op : MemOp) : Bool :=
  s.late.any fun x => match x.2.1.place with | .granule o => o.id = op.id | _ => false

/-- Every parked access tried again, but for those that are to fault. -/
def State.retryParked (s : State) : State := (s.parkedOps.filter fun op => !s.ownerGone op).foldl State.retryOp s

end Sys2Proof.Machine
end

