-- ==== Sys2Proof/Machine/Load.lean ====
section
/-!
DEFINITION. Loads, stores and cache instructions: class 8 (R229 to R236).
-/

namespace Sys2Proof.Machine

/-- The offset literal (R28, R169). -/
def Cx.off (cx : Cx) : Int := match cx.lit with | some x => x.toInt | none => 0

/-- The space code of a class 8 to 10 modifier (R25). -/
def Cx.space (cx : Cx) : Nat := cx.m / 8 % 8

/-- The address value of a lane: a pair in .glb, otherwise one register (R229). -/
def laneAddrVal (space : Nat) (w : Warp) (reg l : Nat) : Nat :=
  if space = 0 then (w.vpair reg l).toNat else (w.vget reg l).toNat

/-- The per-lane accesses of an issue (R229), in ascending e. -/
def Cx.laneAccs (cx : Cx) (s : State) (space width reg : Nat) (data cmp : Warp → Nat → List Word) : List LaneAcc :=
  cx.parts.flatMap fun p =>
    let w := s.warpD p.wid
    (cx.lanesOf p).map fun l =>
      let (x, bad) := effAddr space (laneAddrVal space w reg l) width cx.off
      { wid := p.wid, lane := l, e := cx.elem p l, addr := x, bad := bad, data := data w l, cmp := cmp w l, clock := p.clock }

/-- The one access of a scalar form (R229); its lane is the lowest participating one (R272). -/
def Cx.scalarAcc (cx : Cx) (s : State) (space width reg : Nat) (data cmp : List Word) : List LaneAcc :=
  match cx.parts with
  | [] => []
  | p :: _ =>
    let (x, bad) := effAddr space (cx.sval s reg).toNat width cx.off
    let l := (cx.lanesOf p).head?.getD 0
    [{ wid := p.wid, lane := l, e := cx.elem p l, addr := x, bad := bad, data := data, cmp := cmp, clock := p.clock }]

/-- A memory issue from its lanes' accesses. -/
def Cx.memOp (cx : Cx) (s : State) (kind : AccKind) (space width : Nat) (lanes : List LaneAcc) : MemOp :=
  { blk := cx.blk, kind := kind, space := space, width := width, dst := cx.e.dst.toNat, lanes := lanes, warps := cx.parts.map fun p => (p.wid, p.lanes), pc := cx.pc, len := cx.len, scope := scopeByte cx.e, members := s.memberMask cx, trap := (s.warpD cx.wid).frame.isSome }

/-- No data words. -/
def noWords (_ : Warp) (_ : Nat) : List Word := []

/-- n consecutive vector registers of a lane. -/
def vecWords (reg n : Nat) (w : Warp) (l : Nat) : List Word := (List.range n).map fun i => w.vget (reg + i) l

/-- LD's effect (R232 to R235): every access is performed whole at its issue or at the end of its wait, so an acquire load
needs nothing more. -/
def effLd (cx : Cx) (s : State) : Eff :=
  let form := cx.m % 8
  let n := 2 ^ (form % 4)
  let sp := cx.space
  if form % 4 = 3 then cx.access s (cx.memOp s (.load 2 true false) sp 8 (cx.scalarAcc s sp 8 cx.e.a.toNat [] [])) true
  else cx.access s (cx.memOp s (.load n false (4 ≤ form)) sp (4 * n) (cx.laneAccs s sp (4 * n) cx.e.a.toNat noWords noWords)) true

/-- ST's effect (R232, R233, R235). -/
def effSt (cx : Cx) (s : State) : Eff :=
  let form := cx.m % 8
  let n := 2 ^ (form % 4)
  let sp := cx.space
  if form % 4 = 3 then
    let x := cx.sval s cx.e.b.toNat
    cx.access s (cx.memOp s (.store 2 true (form = 7)) sp 8 (cx.scalarAcc s sp 8 cx.e.a.toNat [lo32 x, hi32 x] [])) false
  else cx.access s (cx.memOp s (.store n false false) sp (4 * n) (cx.laneAccs s sp (4 * n) cx.e.a.toNat (vecWords cx.e.b.toNat n) noWords)) false

/-- The addresses of PRF, CFL and CINV as accesses without alignment that read (R236). -/
def Cx.lineOp (cx : Cx) (s : State) : MemOp :=
  cx.memOp s (.load 0 false false) 0 1 (if cx.m % 4 = 3 then cx.scalarAcc s 0 1 cx.e.a.toNat [] [] else cx.laneAccs s 0 1 cx.e.a.toNat noWords noWords)

/-- PRF's effect (R236): lines that would fault are not fetched; tags only. -/
def effPrf (cx : Cx) (s : State) : Eff :=
  .ok ((s.located (cx.lineOp s)).lanes.foldl (fun (s : State) (a : LaneAcc) => match a.loc with
    | .glb pa =>
      let s := s.tlbFill (coreOf a.wid) (cx.block s).ctx (a.addr.toNat % 2 ^ 54)
      if cx.m / 4 % 2 = 1 then (s.l2Fill (pa / 128 * 128) false).l2Fill (pa / 128 * 128 + 64) false
      else (s.touch (coreOf a.wid) (pa / 128 * 128) false).touch (coreOf a.wid) (pa / 128 * 128 + 64) false
    | _ => s) s)

/-- The lines of a CFL or CINV whose addresses have passed R230, or its faults (R236). -/
def Cx.lines (cx : Cx) (s : State) (f : State → LaneAcc → Nat → State) : Eff :=
  let op := cx.lineOp s
  match s.laneFaults op with
  | e :: l => .faults ((e :: l).map fun x => (x.1, { x.2 with width := 0 }))
  | [] => match s.laneMig op with
    | some va => .mig va
    | none => .ok ((s.located op).lanes.foldl (fun (s : State) (a : LaneAcc) => match a.loc with
      | .glb pa => (f (s.tlbFill (coreOf a.wid) (cx.block s).ctx (a.addr.toNat % 2 ^ 54)) a pa).countCore (coreOf a.wid) 47
      | _ => s) s)

/-- Every copy of a line on the chip is clean (R236): update-only copies are combined, the others stay. -/
def State.cleanLine (s : State) (line : Nat) : State :=
  let s := s.combineLine line
  { s with
    cores := s.cores.map fun e => (e.1, { e.2 with l1 := e.2.l1.modify line fun x => { x with dirty := 0 } })
    l2 := s.l2.modify line fun x => (x.1, 0) }

/-- CFL's effect (R236): values are in memory already (R181). -/
def effCfl (cx : Cx) (s : State) : Eff := cx.lines s fun s _ pa => s.cleanLine (pa / 128)

/-- CINV's effect (R236): the line leaves the issuing core's L1; its dirty sectors pass to the L2. -/
def effCinv (cx : Cx) (s : State) : Eff := cx.lines s fun s a pa => s.l1Drop (coreOf a.wid) (pa / 128)

/-- LD (R233). -/
def execLd (e : Enc) (s : State) : Host.Outcome State Fault Refusal := s.runLong .ld e effLd
/-- ST (R233). -/
def execSt (e : Enc) (s : State) : Host.Outcome State Fault Refusal := s.runLong .st e effSt
/-- PRF (R236). -/
def execPrf (e : Enc) (s : State) : Host.Outcome State Fault Refusal := s.runLong .prf e effPrf
/-- CFL (R236). -/
def execCfl (e : Enc) (s : State) : Host.Outcome State Fault Refusal := s.runLong .cfl e effCfl
/-- CINV (R236). -/
def execCinv (e : Enc) (s : State) : Host.Outcome State Fault Refusal := s.runLong .cinv e effCinv

end Sys2Proof.Machine
end

