-- ==== Sys2Proof/Machine/Atomic.lean ====
section
/-!
DEFINITION. Atomics and fences: class 10 (R247 to R252).
-/

namespace Sys2Proof.Machine

/-- ATOM's effect (R247 to R249). -/
def effAtom (cx : Cx) (s : State) : Eff :=
  let o := cx.m % 8
  let sp := cx.space
  if 5 ≤ o then
    let b := cx.sval s cx.e.b.toNat
    let c := if o = 7 then cx.sval s cx.e.c.toNat else 0
    cx.access s (cx.memOp s (.atom o) sp 8 (cx.scalarAcc s sp 8 cx.e.a.toNat [lo32 b, hi32 b] [lo32 c, hi32 c])) true
  else cx.access s (cx.memOp s (.atom o) sp 4 (cx.laneAccs s sp 4 cx.e.a.toNat (vecWords cx.e.b.toNat 1)
    (if o = 2 then vecWords cx.e.c.toNat 1 else noWords))) true

/-- MRED's effect (R247 to R249). -/
def effMred (cx : Cx) (s : State) : Eff :=
  cx.access s (cx.memOp s (.mred (cx.m % 8)) cx.space 4 (cx.laneAccs s cx.space 4 cx.e.a.toNat (vecWords cx.e.b.toNat 1) noWords)) false

/-- FENCE's effect (R251): of the lanes' earlier accesses only writes to format windows can still wait, and a full or .rel FENCE has them
performed. -/
def effFence (cx : Cx) (s : State) : Eff := .ok (if cx.m / 8 % 4 = 1 then s else s.aliasDone)

/-- The operations that a QFENCE's modifier names and that stand in their queues (R252). -/
def State.queueOps (s : State) (blk m : Nat) (wids : List Nat) : List Nat :=
  let b := s.block blk
  let c := s.core b.core
  (if m % 2 = 1 then ((c.mq ++ c.mwait).filter fun e => e.blk = blk).map (·.id) else [])
    ++ (if m / 2 % 2 = 1 then b.copies.map (·.id) else [])
    ++ (if m / 4 % 2 = 1 then (b.acp.filter fun x => wids.contains x.wid).map (·.id) else [])
    ++ (if m / 8 % 2 = 1 then s.queues.flatMap fun (q : Nat × Queue) =>
          (q.2.cmds.filter fun x => x.blk = some blk && x.issuers.any wids.contains).map (·.id) else [])

/-- QFENCE's effect (R252): its members complete it when every operation that stands has been performed. -/
def effQfence (cx : Cx) (s : State) : Eff :=
  match s.queueOps cx.blk cx.m (cx.parts.map (·.wid)) with
  | [] => .ok s
  | ids => .held (cx.parts.foldl (fun (s : State) (p : Part) => s.updWarp p.wid fun w =>
      { w with waits := ids ++ w.waits, fence := some { pc := cx.pc, len := cx.len, lanes := p.sel, clock := p.clock } }) s)

/-- ATOM (R248). -/
def execAtom (e : Enc) (s : State) : Host.Outcome State Fault Refusal := s.runLong .atom e effAtom
/-- MRED (R248). -/
def execMred (e : Enc) (s : State) : Host.Outcome State Fault Refusal := s.runLong .mred e effMred
/-- FENCE (R251). -/
def execFence (e : Enc) (s : State) : Host.Outcome State Fault Refusal := s.runLong .fence e effFence
/-- QFENCE (R252). -/
def execQfence (e : Enc) (s : State) : Host.Outcome State Fault Refusal := s.runLong .qfence e effQfence

end Sys2Proof.Machine
end

