-- ==== Sys2Proof/Machine/Copy.lean ====
section
/-!
DEFINITION. ACP copies, STAGE and barrier objects: class 9 (R237 to R246), and the landing of an ACP copy.
-/

namespace Sys2Proof.Machine

/-! ## ACP (R237 to R239) -/

/-- Bytes of one piece. -/
def acpSize (m : Nat) : Nat := if m / 2 % 4 = 3 then 64 else 4 * 2 ^ (m / 2 % 4)

/-- The first cause of R230 that a lane's source and destination meet (R237): the record, a wait, or the source's place and
the destination's absolute offset. -/
inductive AcpCheck where
  | ok (src : Loc) (dst : Nat)
  | bad (r : Rec)
  | mig (va : Addr54)

/-- A lane's source and destination addresses checked in the order of R230. -/
def State.checkAcp (s : State) (op : MemOp) (dst : Nat) (a : LaneAcc) : AcpCheck :=
  let b := s.block op.blk
  let dstRec := fun (code : Nat) => ({ op.laneRec code a with addr := some (BitVec.ofNat 64 dst), space := 1 } : Rec)
  let outside := b.psize < dst + op.width
  match s.checkLane op a with
  | .bad c =>
    if c = Code.remoteDirect || c = Code.misaligned then .bad (op.laneRec c a)
    else if dst % op.width != 0 then .bad (dstRec Code.misaligned)
    else if c = Code.spaceRange then .bad (op.laneRec c a)
    else if outside then .bad (dstRec Code.spaceRange)
    else .bad (op.laneRec c a)
  | .mig va => if dst % op.width != 0 then .bad (dstRec Code.misaligned) else if outside then .bad (dstRec Code.spaceRange) else .mig va
  | .ok l => if dst % op.width != 0 then .bad (dstRec Code.misaligned) else if outside then .bad (dstRec Code.spaceRange) else .ok l (b.pbase + dst)

/-- The fault of ACP's barrier object, where it has one (R237). -/
def Cx.objectFault (cx : Cx) (s : State) (op : MemOp) : Option (Nat × Rec) :=
  if cx.m % 2 = 0 then none
  else
    let o := (cx.sval s cx.e.c.toNat).toNat
    match op.lanes with
    | [] => none
    | a :: _ =>
      let r : Rec := { code := Code.misaligned, lane := a.lane, width := 8, addr := some (BitVec.ofNat 64 o), space := 1 }
      if o % 8 != 0 then some (a.wid, r)
      else if (cx.block s).psize < o + 8 then some (a.wid, { r with code := Code.spaceRange })
      else none

/-- ACP's effect (R237, R238). -/
def effAcp (cx : Cx) (s : State) : Eff :=
  let b := cx.block s
  let size := acpSize cx.m
  let op := cx.memOp s (.load 0 false false) cx.space size (cx.laneAccs s cx.space size cx.e.b.toNat noWords noWords)
  let dst := fun (a : LaneAcc) => ((s.warpD a.wid).vget cx.e.a.toNat a.lane).toNat
  let checks := op.lanes.map fun a => (a, s.checkAcp op (dst a) a)
  match (checks.filterMap fun x => match x.2 with | .bad r => some (x.1.wid, r) | _ => none) with
  | e :: l => .faults (e :: l)
  | [] => match cx.objectFault s op with
    | some r => .faults [r]
    | none => match (checks.findSome? fun x => match x.2 with | .mig va => some va | _ => none) with
      | some va => .mig va
      | none =>
        let pieces := checks.filterMap fun x => match x.2 with
          | .ok (.glb pa) d => some (pa, d)
          | .ok (.die a) d => some (a, d)
          | _ => none
        let gs := (pieces.map fun p => p.2 / 64).eraseDups
        if gs.any fun g => 15 ≤ (s.core b.core).inflight.get 0 g then .stall
        else
          let (id, s) := s.draw
          let s := op.lanes.foldl (fun (s : State) (a : LaneAcc) => if cx.space = 0 then s.tlbFill (coreOf a.wid) b.ctx (a.addr.toNat % 2 ^ 54) else s) s
          let s := (s.raiseGranules b.core gs).countCore b.core 54
          let object := if cx.m % 2 = 1 then some (b.pbase + (cx.sval s cx.e.c.toNat).toNat) else none
          let s := match object with | some o => s.mark b.core o | none => s
          .ok (s.updBlock cx.blk fun b => { b with acp := b.acp ++ [{ id := id, wid := cx.wid, die := cx.space = 3, size := size, pieces := pieces, granules := ascending gs, chunks := if cx.space = 3 then [] else op.lanes.map fun a => a.addr.toNat / 65536, object := object, pc := cx.pc, clock := op.clock, srcs := op.lanes.map fun a => BitVec.ofInt 64 (if cx.space = 0 then s.shadowAddr b a.addr else a.addr), scope := op.scope, lanes := ((op.warps.find? fun (m : Nat × Lanes) => m.1 = cx.wid).map (·.2)).getD 0, members := op.members }] })

/-- The tiles of a block that lie in a granule of its core's scratchpad. -/
def Block.tilesIn (b : Block) (g : Nat) : List (Nat × Nat) :=
  (List.range 8).filterMap fun p =>
    let e := poolOf b.record p
    let lo := b.pbase + e.offset
    if e.valid && lo ≤ 64 * g && 64 * g < lo + e.count * e.size then some (p, (64 * g - lo) / e.size) else none

/-- A copy's last byte lands in a granule (R177, R193, R374). -/
def State.landGranule (s : State) (key core g : Nat) (clock : DWord) : State :=
  let s := ((s.lowerGranule core g clock).countCore core 38).addCore core 33 4
  ((s.block key).tilesIn g).foldl (fun (s : State) (t : Nat × Nat) => s.returnTest key t.1 t.2 clock) s

/-- Lands the pieces of an ACP copy from a list on, each with its source address; after an uncorrectable error the rest is written as
zero (R179, R239). The answer names the source address of the error. -/
def State.landPieces (s : State) (core : Nat) (x : AcpCopy) (blk : Nat) (failed : Option DWord) : List ((Nat × Nat) × DWord) → State × Option DWord
  | [] => (s, failed)
  | ((src, dst), a) :: r =>
    match failed with
    | some _ => State.landPieces (s.writeSpad core dst (bytesOf x.size 0)) core x blk failed r
    | none =>
      let l := if x.die then Loc.die src else Loc.glb src
      if s.locError none x.size l then State.landPieces (s.writeSpad core dst (bytesOf x.size 0)) core x blk (some a) r
      else
        let s := if x.die then s else s.holdWindow blk a false src
        let (bs, s) := s.readLoc x.size l
        State.landPieces (s.writeSpad core dst bs) core x blk none r

/-- A block's oldest ACP copy of a warp. -/
def State.oldestAcp (s : State) (wid : Nat) : Option (Nat × AcpCopy) :=
  s.blocks.foldl (fun (m : Option (Nat × AcpCopy)) (e : Nat × Block) =>
    match e.2.acp.find? (fun x => x.wid = wid), m with
    | some x, none => some (e.1, x)
    | some x, some y => if x.id < y.2.id then some (e.1, x) else some y
    | none, _ => m) none

/-- ACP_COPY_LANDING (R238, R239): the oldest copy of a warp's queue lands; its granules, its barrier object, and whatever waits
for them. -/
def execAcpCopyLanding (wid : Nat) (s : State) : Host.Outcome State Fault Refusal :=
  match s.oldestAcp wid with
  | none => .next s
  | some (key, x) =>
    let b := s.block key
    let s := if x.die then s
      else (x.pieces.map fun p => p.1 / 64).eraseDups.foldl (fun (s : State) (n : Nat) => s.crossLinks (l2Place (n / 2)).1 (dieOf b.core) 1) s
    let (s, failed) := s.landPieces b.core x key none (x.pieces.zip x.srcs)
    let s := s.watchAccess b.core 2 { kind := 2, core := b.core } (x.pieces.map fun p => (0xFF, p.2, x.size))
    let s := s.updBlock key fun b => { b with acp := b.acp.filter fun y => y.id != x.id }
    let s := match failed with
      | some a => (s.hold key { code := Code.machineCheck, pc := BitVec.ofNat 64 x.pc.toNat, addr := some a, space := if x.die then 3 else 0, scope := x.scope, width := x.size, lanes := x.lanes, members := x.members }).orderMachineCheck key wid
      | none => s
    let s := x.granules.foldl (fun (s : State) g => s.landGranule key b.core g x.clock) s
    let s := match x.object with
      | some o => s.changeBar b.core o (let y := s.barObj b.core o; { y with due := (y.due + 2 ^ 26 - 1) % 2 ^ 26 }) x.clock
      | none => s
    .next (((s.finishWait x.id).retryParked).retire key)

/-! ## STAGE (R240) -/

/-- STAGE's effect: the counter saturates; a count of 0 changes nothing. -/
def effStage (cx : Cx) (s : State) : Eff :=
  let n := if cx.m % 2 = 1 then cx.e.a.toNat else (lo32 (cx.sval s cx.e.a.toNat)).toNat
  let clock := cx.parts.foldl (fun (m : DWord) (p : Part) => if m.ult p.clock then p.clock else m) 0
  .ok (if n = 0 then s
    else s.updBlock cx.blk fun b =>
      let k := min (b.stage + n) (2 ^ 32 - 1)
      { b with stage := k, stages := b.stages ++ [(k, clock)] })

/-! ## Barrier objects (R241 to R246) -/

/-- A barrier instruction: one access of the object's word (R242). -/
def Cx.barrier (cx : Cx) (s : State) (kind : AccKind) (dest : Bool) : Eff :=
  cx.access s (cx.memOp s kind cx.space 8 (cx.scalarAcc s cx.space 8 cx.e.a.toNat [] [])) dest

/-- MBINIT's effect (R243). -/
def effMbinit (cx : Cx) (s : State) : Eff := cx.barrier s (.mbinit (BarObj.needed ((cx.sval s cx.e.b.toNat).toNat % 2 ^ 13))) false
/-- MBARR's effect (R243). -/
def effMbarr (cx : Cx) (s : State) : Eff := cx.barrier s .mbarr false
/-- MBEXP's effect (R243). -/
def effMbexp (cx : Cx) (s : State) : Eff := cx.barrier s (.mbexp ((cx.sval s cx.e.b.toNat).toNat % 2 ^ 26)) false
/-- MBWAIT's effect (R245). -/
def effMbwait (cx : Cx) (s : State) : Eff := cx.barrier s (.mbwait ((cx.sval s cx.e.b.toNat).toNat % 2 ^ 12)) false
/-- MBTEST's effect (R245). -/
def effMbtest (cx : Cx) (s : State) : Eff := cx.barrier s (.mbtest ((cx.sval s cx.e.b.toNat).toNat % 2 ^ 12) (cx.m % 2 = 1)) true

/-- ACP (R237). -/
def execAcp (e : Enc) (s : State) : Host.Outcome State Fault Refusal := s.runLong .acp e effAcp
/-- STAGE (R240). -/
def execStage (e : Enc) (s : State) : Host.Outcome State Fault Refusal := s.runLong .stage e effStage
/-- MBINIT (R243). -/
def execMbinit (e : Enc) (s : State) : Host.Outcome State Fault Refusal := s.runLong .mbinit e effMbinit
/-- MBARR (R243). -/
def execMbarr (e : Enc) (s : State) : Host.Outcome State Fault Refusal := s.runLong .mbarr e effMbarr
/-- MBEXP (R243). -/
def execMbexp (e : Enc) (s : State) : Host.Outcome State Fault Refusal := s.runLong .mbexp e effMbexp
/-- MBWAIT (R245). -/
def execMbwait (e : Enc) (s : State) : Host.Outcome State Fault Refusal := s.runLong .mbwait e effMbwait
/-- MBTEST (R245). -/
def execMbtest (e : Enc) (s : State) : Host.Outcome State Fault Refusal := s.runLong .mbtest e effMbtest

end Sys2Proof.Machine
end

