-- ==== Sys2Proof/Machine/Pool.lean ====
section
/-!
DEFINITION. Tile instructions: class 11 (R196 to R199), and the end of a consuming read (R193).
-/

namespace Sys2Proof.Machine

/-- A tile fault: the record names the handle operand (R273). -/
def tileFault (code : Nat) (h : DWord) : Eff := .fault { code := code, info := h.toNat % 2 ^ 32 }

/-- The warp index of the lowest-numbered member (R190). -/
def Cx.index (cx : Cx) (s : State) : Nat := (s.warpD cx.wid).index

/-- The clock of an issue: the largest arrival clock among its members (R374, R376). The rule's "%lclk at issue" is one clock for a collective
too, and the arrival that completes it is the latest that the floor can have waited for (assumption 62). -/
def Cx.clock (cx : Cx) : DWord := cx.parts.foldl (fun (m : DWord) (p : Part) => if m.ult p.clock then p.clock else m) 0

/-- TALLOC's effect (R190, R197): the scope parks, and the request joins its partition's waiter queue. It has no handle operand: its TILE_HANDLE
has info 0 (R273, assumption 75), as that of TQUERY.pool. -/
def effTalloc (cx : Cx) (s : State) : Eff :=
  let b := cx.block s
  let pool := cx.e.a.toNat
  let part := allocPart b pool (cx.index s) (cx.m % 2 = 1)
  if !(poolOf b.record pool).valid || ((poolOf b.record pool).part part).2 = 0 then tileFault Code.tileHandle 0
  else
    let (id, s) := s.draw
    let (wins, s) := cx.openAll s cx.parts
    let s := cx.parkAll s (.talloc id)
    .held (s.joinWaiters cx.blk (pool * 8 + part)
      { id := id, who := .talloc pool cx.e.dst.toNat wins, reads := cx.e.b.toNat, clock := cx.clock, index := cx.index s })

/-- TDROP's effect (R193, R198). -/
def effTdrop (cx : Cx) (s : State) : Eff :=
  let b := cx.block s
  let h := cx.sval s cx.e.a.toNat
  match b.handle? h with
  | none => tileFault Code.tileHandle h
  | some (p, t, g) =>
    if b.overread p t (some g) then tileFault Code.tileOverread h
    else
      let s := s.updBlock cx.blk fun b =>
        { b with tiles := b.tiles.modify (tileKey p t) fun x => { x with count := if cx.m % 2 = 1 then 0 else x.count - 1 } }
      .ok ((s.countCore b.core 51).returnTest cx.blk p t cx.clock)

/-- TEXTEND's effect (R193, R198). -/
def effTextend (cx : Cx) (s : State) : Eff :=
  let b := cx.block s
  let h := cx.sval s cx.e.a.toNat
  match b.handle? h with
  | none => tileFault Code.tileHandle h
  | some (p, t, g) =>
    if b.overread p t (some g) then tileFault Code.tileDead h
    else if 65535 < (b.tile (tileKey p t)).count + cx.e.b.toNat then tileFault Code.tileHandle h
    else .ok (s.updBlock cx.blk fun b =>
      { b with tiles := b.tiles.modify (tileKey p t) fun x => { x with count := x.count + cx.e.b.toNat } })

/-- TQUERY's effect (R199). -/
def effTquery (cx : Cx) (s : State) : Eff :=
  let b := cx.block s
  let put := fun (s : State) (n : Nat) => Eff.ok (cx.emitScalar s cx.e.dst.toNat (BitVec.ofNat 64 n))
  match cx.m % 4 with
  | 2 =>
    let pool := cx.e.a.toNat
    if !(poolOf b.record pool).valid then tileFault Code.tileHandle 0
    else put s (b.free.get [] (pool * 8 + allocPart b pool (cx.index s) false)).length
  | 3 =>
    match b.handles with
    | [] => put s 0xFFF
    | x :: r => put (s.updBlock cx.blk fun b => { b with handles := r }) x.toNat
  | m =>
    let h := cx.sval s cx.e.a.toNat
    match b.handle? h with
    | none => tileFault Code.tileHandle h
    | some (p, t, g) =>
      if m = 1 then put s (b.tileOffset p t)
      else put s (if (b.tile (tileKey p t)).gen = g then (b.tile (tileKey p t)).count else 0)

/-- Whether a matrix entry of a core still holds a read (R213). -/
def Core.holdsRead (c : Core) (id : Nat) : Bool := (c.mq ++ c.mwait).any fun e => e.readA = some id || e.readB = some id

/-- CONSUMING_READ_COMPLETE (R193): a load's read completes; a matrix operand's completes with its entry (R213). -/
def execConsumingReadComplete (blk id : Nat) (s : State) : Host.Outcome State Fault Refusal :=
  if (s.core (s.block blk).core).holdsRead id then .next s
  else .next (((s.endRead blk id).retryParked).retire blk)

/-- TALLOC (R197). -/
def execTalloc (e : Enc) (s : State) : Host.Outcome State Fault Refusal := s.runLong .talloc e effTalloc
/-- TDROP (R198). -/
def execTdrop (e : Enc) (s : State) : Host.Outcome State Fault Refusal := s.runLong .tdrop e effTdrop
/-- TQUERY (R199). -/
def execTquery (e : Enc) (s : State) : Host.Outcome State Fault Refusal := s.runLong .tquery e effTquery
/-- TEXTEND (R198). -/
def execTextend (e : Enc) (s : State) : Host.Outcome State Fault Refusal := s.runLong .textend e effTextend

end Sys2Proof.Machine
end

