-- ==== Sys2Proof/Machine/Matrix.lean ====
section
/-!
DEFINITION. The matrix engine: class 12 at issue (R211 to R228), and an entry's start and completion (R205 to R210, R214 to
R227). An entry reads its operands and writes its results when it completes.
-/

namespace Sys2Proof.Machine

/-! ## Types (R214) -/

/-- Element width of a type code in bits. -/
def mtxWidth (type : Nat) : Nat :=
  match type with
  | 0 => 32
  | 1 | 2 => 16
  | 8 | 9 => 6
  | 10 | 11 | 13 => 4
  | _ => 8

/-- The format of operand A, or of operand B, of a type code. -/
def mtxFmt (scaled bSide : Bool) (type : Nat) : Fmt :=
  match type with
  | 0 => .fp32
  | 1 => .bf16
  | 2 => .fp16
  | 3 => .e4m3
  | 4 => if bSide then .e5m2 else .e4m3
  | 5 => if bSide then .e4m3 else .e5m2
  | 6 => .e5m2
  | 7 => .i8
  | 8 => .e3m2
  | 9 => .e2m3
  | 10 => .e2m1
  | 11 => .i4
  | 12 => if scaled then .mxi8 else .i8
  | _ => .i4x

/-- Whether a type accumulates in INT32. -/
def mtxInt (type : Nat) : Bool := type = 7 || type = 11

/-! ## Operand descriptors (R211 to R213) -/

/-- A checked operand: partition offset, row step in bytes, half, and the consuming read it makes. -/
structure MtxOperand where
  start : Nat
  step  : Nat
  half  : Nat
  len   : Nat
  cons  : Option (Nat × Nat × Nat)

/-- What checking an operand gives. -/
inductive MtxCheck where
  | ok (o : MtxOperand)
  | handle
  | operand

/-- A descriptor against R211 and R212: `rows` rows of `rowBytes`; `full` says that the dimension is 128; a halo operand
(`halo`) is a tile without a pitch whose rows are not checked (R220). -/
def Block.checkOperand (b : Block) (x : DWord) (rows rowBytes : Nat) (full halo : Bool) : MtxCheck :=
  let n := x.toNat
  let h := n / 2 ^ 63 = 1
  let cons := n / 2 ^ 62 % 2 = 1
  let pitch := n / 2 ^ 40 % 2 ^ 16 * 8
  let half := n / 2 ^ 32 % 2
  let base := n % 2 ^ 32
  let reserved := n / 2 ^ 56 % 64 != 0 || n / 2 ^ 33 % 128 != 0 || (!h && 2 ^ 21 ≤ base)
  match (if h then (b.handle? (BitVec.ofNat 64 base)).map fun t => some t else some none) with
  | none => .handle
  | some t =>
    let start := match t with | some (p, i, _) => b.tileOffset p i | none => base
    let len := match t with | some (p, _, _) => (poolOf b.record p).size | none => b.psize
    let step := if pitch = 0 then rowBytes else pitch
    let top := match t with | some _ => start + len | none => b.psize
    if reserved || (cons && !h) || start % 64 != 0 || (pitch != 0 && pitch < rowBytes) || (half = 1 && full)
        || (halo && (!h || pitch != 0)) || (!halo && top < start + (rows - 1) * step + rowBytes) then .operand
    else .ok { start := start, step := step, half := half, len := len, cons := if cons then t else none }

/-- Counts an operand's consuming read, where it makes one (R213): none where the count is exhausted. -/
def State.takeRead (s : State) (key : Nat) (o : MtxOperand) (clock : DWord) : Option (Option Nat × State) :=
  match o.cons with
  | none => some (none, s)
  | some (p, t, g) =>
    if (s.block key).overread p t (some g) then none
    else
      let (id, s) := s.beginRead key p t clock
      some (some id, s.countCore (s.block key).core 51)

/-- An instruction that finds the matrix queue full waits at issue (R206); otherwise its entry joins. -/
def Cx.enqueue (cx : Cx) (s : State) (e : MEntry) : Eff :=
  let c := s.core (cx.block s).core
  if 16 ≤ c.mq.length || !c.mwait.isEmpty then .stall else .ok (s.joinQueue (cx.block s).core e)

/-- A matrix entry of an issue with nothing set yet. -/
def Cx.entry (cx : Cx) (id : Nat) : MEntry :=
  { id := id, blk := cx.blk, op := cx.op.code % 64, ranks := cx.parts.map fun p => (p.wid, p.rank, p.lanes), clock := cx.clock }

/-! ## MMA, MMAS, MMAW -/

/-- The legal-register check of a vector range in every declared warp of the scope (R217, R226). -/
def Cx.rangeBad (cx : Cx) (s : State) (us : List Use) : Option Nat := s.rangeBad (cx.block s) cx.e.scope cx.e.sel.toNat cx.wid us

/-- Whether a warp that a scale map of n scales needs has exited (R217). -/
def Cx.scaleExited (cx : Cx) (s : State) (n : Nat) : Bool :=
  (declared (cx.block s) cx.e.scope cx.e.sel.toNat cx.wid).any fun m =>
    m.1 * cx.W < n && (match s.warp? m.2 with | some w => w.live = 0 | none => true)

/-- The scale bytes of an operand in map order (R217): byte i of the list is scale i. -/
def Cx.scales (cx : Cx) (s : State) (reg group n : Nat) : List Byte :=
  let ws := declared (cx.block s) cx.e.scope cx.e.sel.toNat cx.wid
  let E := ws.length * cx.W
  (List.range n).map fun i =>
    let el := i % max E 1
    let w := match ws.getD (el / cx.W) (0, 0) with | (_, wid) => s.warpD wid
    BitVec.ofNat 8 ((w.vget (reg + i / max E 1) (el % cx.W)).toNat / 2 ^ (8 * group))

/-- Filter height times width, and the other fields of MMAW's literal (R219). -/
structure Window2 where
  fw  : Nat
  fh  : Nat
  st  : Nat
  dl  : Nat
  pad : Nat
  ow  : Nat
  hw  : Nat

/-- The fields of MMAW's ext literal (R219). -/
def Window2.of (n : Nat) : Window2 :=
  { fw := n % 8 + 1, fh := n / 8 % 8 + 1, st := n / 64 % 4 + 1, dl := n / 256 % 4 + 1, pad := n / 1024 % 8, ow := n / 2 ^ 13 % 128 + 1, hw := n / 2 ^ 20 % 256 + 1 }

/-- Whether MMAW's derived values break R220. -/
def Window2.bad (x : Window2) (k width tile : Nat) : Bool :=
  let taps := x.fw * x.fh
  let C := k / taps
  k % taps != 0 || C % 32 != 0 || tile / (x.hw * (C * width / 8)) = 0

/-- The effect of MMA, MMAS and MMAW at issue (R213 to R220, R228). -/
def effMma (cx : Cx) (s : State) : Eff :=
  let b := cx.block s
  let m := cx.m
  let scaled := cx.op = .mmas
  let halo := cx.op = .mmaw
  let M := shapeM m
  let N := shapeN m
  let type := m % 16
  let chunks := cx.e.c.toNat + 1
  let ext := (cx.e.lit.getD 0).toNat
  let row := 4 * chunks * mtxWidth type
  let xa := cx.sval s cx.e.a.toNat
  let xb := cx.sval s cx.e.b.toNat
  match (if scaled then cx.rangeBad s (s.rangeUses b cx.wid cx.op cx.e) else none) with
  | some f => .fault { code := Code.regRange, info := f }
  | none =>
    match b.checkOperand xa M row (M = 128) false, b.checkOperand xb N row (N = 128) halo with
    | .handle, _ => tileFault Code.tileHandle (xa &&& 0xFFFFFFFF#64)
    | _, .handle => tileFault Code.tileHandle (xb &&& 0xFFFFFFFF#64)
    | .operand, _ => .fault { code := Code.mtxOperand }
    | _, .operand => .fault { code := Code.mtxOperand }
    | .ok oa, .ok ob =>
      if (scaled && (cx.scaleExited s (M * chunks) || cx.scaleExited s (N * chunks)))
          || (halo && (Window2.of ext).bad (32 * chunks) (mtxWidth type) ob.len) then .fault { code := Code.mtxOperand }
      else match s.takeRead cx.blk oa cx.clock with
        | none => tileFault Code.tileOverread (xa &&& 0xFFFFFFFF#64)
        | some (ra, s1) => match s1.takeRead cx.blk ob cx.clock with
          | none => tileFault Code.tileOverread (xb &&& 0xFFFFFFFF#64)
          | some (rb, s2) =>
            let (id, s3) := s2.draw
            cx.enqueue s3 { cx.entry id with
              type := type, shape := m / 16, tile := cx.e.dst.toNat, k := chunks, ext := ext
              a := oa.start, pitchA := oa.step, halfA := oa.half, readA := ra
              b := ob.start, pitchB := ob.step, halfB := ob.half, readB := rb, tileLen := ob.len
              scalesA := if scaled then cx.scales s (ext % 512) (ext / 2 ^ 20 % 4) (M * chunks) else []
              scalesB := if scaled then cx.scales s (ext / 512 % 512) (ext / 2 ^ 22 % 4) (N * chunks) else [] }

/-- ACLR's effect (R221). -/
def effAclr (cx : Cx) (s : State) : Eff :=
  let (id, s) := s.draw
  cx.enqueue s { cx.entry id with tile := cx.e.dst.toNat }

/-- ALD's effect (R222). -/
def effAld (cx : Cx) (s : State) : Eff :=
  let xa := cx.sval s cx.e.a.toNat
  match (cx.block s).checkOperand xa 128 (if cx.m % 4 = 0 then 512 else 256) true false with
  | .handle => tileFault Code.tileHandle (xa &&& 0xFFFFFFFF#64)
  | .operand => .fault { code := Code.mtxOperand }
  | .ok o => match s.takeRead cx.blk o cx.clock with
    | none => tileFault Code.tileOverread (xa &&& 0xFFFFFFFF#64)
    | some (r, s) =>
      let (id, s) := s.draw
      cx.enqueue s { cx.entry id with type := cx.m % 4, tile := cx.e.dst.toNat, a := o.start, pitchA := o.step, readA := r }

/-! ## ADRAIN (R223 to R226) -/

/-- Element width of a conversion code. -/
def convWidth (conv : Nat) : Nat :=
  match conv with
  | 0 => 32
  | 1 | 2 => 16
  | 5 | 6 | 11 | 12 => 6
  | 7 | 13 => 4
  | _ => 8

/-- The element format of a conversion code. -/
def convFmt (conv : Nat) : Fmt :=
  match conv with
  | 1 => .bf16 | 2 => .fp16 | 3 | 9 => .e4m3 | 4 | 10 => .e5m2 | 5 | 11 => .e3m2 | 6 | 12 => .e2m3 | 7 | 13 => .e2m1
  | 8 | 14 => .mxi8 | _ => .fp32

/-- Whether the scale offset of an sb word breaks R224. -/
def scaleBad (b : Block) (conv sb : Nat) : Bool :=
  let o := sb / 2 ^ 21 % 2 ^ 21
  o % 4 != 0 || (if conv ≤ 2 then o != 0 else b.psize < o + 512)

/-- ADRAIN's effect (R223 to R226, R228). -/
def effAdrain (cx : Cx) (s : State) : Eff :=
  let b := cx.block s
  let conv := cx.m % 16
  let sbw := cx.sval s cx.e.b.toNat
  let sb := sbw.toNat
  let row := 16 * convWidth conv
  match cx.m / 16 with
  | 0 =>
    match cx.rangeBad s (s.rangeUses b cx.wid cx.op cx.e) with
    | some f => .fault { code := Code.regRange, info := f }
    | none =>
      if sb / 2 ^ 15 != 0 || sb / 2 ^ 7 % 2 = 1 || 128 < sb % 128 + sb / 2 ^ 8 % 128 + 1 then .fault { code := Code.mtxOperand }
      else
        let (id, s) := s.draw
        let (wins, s) := cx.openAll s cx.parts
        cx.enqueue s { cx.entry id with
          type := conv, shape := 0, tile := cx.e.a.toNat, sb := sbw, dst := cx.e.dst.toNat, ext := s.scopeE b cx.e cx.wid, wins := wins }
  | 1 =>
    let pitch := sb / 2 ^ 42 % 2 ^ 14 * 8
    let step := if pitch = 0 then row else pitch
    if sb / 2 ^ 56 != 0 || sb % 2 ^ 21 % 64 != 0 || (pitch != 0 && pitch < row) || scaleBad b conv sb
        || b.psize < sb % 2 ^ 21 + 127 * step + row then .fault { code := Code.mtxOperand }
    else
      let (id, s) := s.draw
      cx.enqueue s { cx.entry id with type := conv, shape := 1, tile := cx.e.a.toNat, sb := sbw, a := sb % 2 ^ 21, pitchA := step }
  | _ =>
    let pool := sb % 8
    let part := allocPart b pool (cx.index s) (sb / 8 % 2 = 1)
    let reads := sb / 2 ^ 8 % 256
    if !(poolOf b.record pool).valid || ((poolOf b.record pool).part part).2 = 0 then tileFault Code.tileHandle 0
    else if sb / 16 % 16 != 0 || reads = 0 || sb / 2 ^ 16 % 32 != 0 || sb / 2 ^ 42 != 0 || scaleBad b conv sb
        || (poolOf b.record pool).size < 128 * row then .fault { code := Code.mtxOperand }
    else
      let (id, s) := s.draw
      let (wins, s) := cx.openAll s cx.parts
      let s := cx.parkAll s (.talloc id)
      let e := { cx.entry id with type := conv, shape := 2, tile := cx.e.a.toNat, sb := sbw, pitchA := row, dst := cx.e.dst.toNat, wins := wins }
      .held (s.joinWaiters cx.blk (pool * 8 + part)
        { id := id, who := .adrain pool e, reads := reads, clock := cx.clock, index := cx.index s })

/-- MSYNC's effect (R227): a marker, and in every member a window that holds everything once its count has run out. -/
def effMsync (cx : Cx) (s : State) : Eff :=
  let (id, s) := s.draw
  let (wins, s) := cx.openAll s cx.parts
  let s := wins.foldl (fun (s : State) (m : Nat × Nat) => s.updWarp m.1 fun w =>
    { w with windows := w.windows.map fun x => if x.id = m.2 then { x with leftS := cx.look } else x }) s
  cx.enqueue s { cx.entry id with wins := wins }

/-! ## Performing an entry -/

/-- The place in operand B of a halo tile of chunk c of column j (R220): none in the padding. -/
def haloOffset (e : MEntry) (j c : Nat) : Option Nat :=
  let x := Window2.of e.ext
  let w := mtxWidth e.type
  let C := 32 * e.k / (x.fw * x.fh)
  let pix := C * w / 8
  let hh := e.tileLen / (x.hw * pix)
  let t := 32 * c / C
  let iy : Int := (j / x.ow * x.st + t / x.fw * x.dl : Nat) - (x.pad : Int)
  let ix : Int := (j % x.ow * x.st + t % x.fw * x.dl : Nat) - (x.pad : Int)
  if 0 ≤ iy && iy < hh && 0 ≤ ix && ix < x.hw then some (e.b + (iy.toNat * x.hw + ix.toNat) * pix + 32 * c % C * w / 8) else none

/-- The place of chunk c of row r of operand A, or of row (column) r of operand B; none in a halo's padding. -/
def chunkOffset (e : MEntry) (bSide : Bool) (r c : Nat) : Option Nat :=
  let n := 4 * mtxWidth e.type
  if bSide then
    if e.op = 2 then haloOffset e r c else some (e.b + r * e.pitchB + c * n)
  else some (e.a + r * e.pitchA + c * n)

/-- The chunks that an entry still performs: all, or those up to the end of its segment (R210). -/
def entryChunks (e : MEntry) : List Nat :=
  (List.range (min e.k (e.limit.getD e.k))).drop e.chunk

/-- Rows of operand A and columns of the product (R214). -/
def entryShape (e : MEntry) : Nat × Nat := (if e.shape / 2 = 1 then 64 else 128, if e.shape % 2 = 1 then 64 else 128)

/-- The scratchpad ranges, absolute, that an entry reads: start and bytes. -/
def State.readRanges (s : State) (e : MEntry) : List (Nat × Nat) :=
  let base := (s.block e.blk).pbase
  let (M, N) := entryShape e
  match e.op with
  | 0 | 1 | 2 =>
    let n := 4 * mtxWidth e.type
    let side := fun (bSide : Bool) (rows : Nat) => (List.range rows).flatMap fun r => (entryChunks e).filterMap fun c =>
      (chunkOffset e bSide r c).map fun o => (base + o, n)
    side false M ++ side true N
  | 4 => (List.range 128).map fun r => (base + e.a + r * e.pitchA, if e.type = 0 then 512 else 256)
  | _ => []

/-- The scratchpad ranges, absolute, that an entry writes. -/
def State.writeRanges (s : State) (e : MEntry) : List (Nat × Nat) :=
  let base := (s.block e.blk).pbase
  if e.op = 5 && e.shape != 0 then
    ((List.range 128).map fun r => (base + e.a + r * e.pitchA, 16 * convWidth e.type))
      ++ (if e.type ≤ 2 then [] else [(base + e.sb.toNat / 2 ^ 21 % 2 ^ 21, 512)])
  else []

/-- Whether every granule of a list of ranges is present (R207). -/
def Core.rangesPresent (c : Core) (rs : List (Nat × Nat)) : Bool :=
  rs.all fun r => (List.range ((r.1 + r.2 + 63) / 64 - r.1 / 64)).all fun i => c.present (64 * (r.1 / 64 + i))

/-- MATRIX_ENTRY_START (R207): the first entry of the queue starts when every granule that it reads or writes is present. -/
def execMatrixEntryStart (core : Nat) (s : State) : Host.Outcome State Fault Refusal :=
  let c := s.core core
  match c.mq with
  | [] => .next s
  | e :: r =>
    if e.started || !c.rangesPresent (s.readRanges e ++ s.writeRanges e) then .next s
    else .next (s.setCore core { c with mq := { e with started := true } :: r })

/-- The 32 values of one chunk of an operand (R54 to R59, R64, R215, R218). -/
def State.chunkVals (s : State) (e : MEntry) (bSide : Bool) (r c : Nat) : List Val :=
  let b := s.block e.blk
  let f := mtxFmt (e.op = 1) bSide e.type
  match chunkOffset e bSide r c with
  | none => (List.range 32).map fun _ => .zero false
  | some o =>
    let str := numOf ((s.core b.core).readSpad (b.pbase + o) (4 * mtxWidth e.type))
    if e.op = 1 then
      let rows := if bSide then (entryShape e).2 else (entryShape e).1
      let sc := (if bSide then e.scalesB else e.scalesA).getD (c * rows + r) 0
      decodeBlock f (if e.ext / 2 ^ (if bSide then 19 else 18) % 2 = 1 then .sf8 else .e8m0) str sc.toNat
    else blockVals f str

/-- The integers of one chunk. -/
def State.chunkInts (s : State) (e : MEntry) (bSide : Bool) (r c : Nat) : List Int :=
  let b := s.block e.blk
  match chunkOffset e bSide r c with
  | none => (List.range 32).map fun _ => 0
  | some o =>
    let w := mtxWidth e.type
    let str := numOf ((s.core b.core).readSpad (b.pbase + o) (4 * w))
    (List.range 32).map fun i => toSigned w (packedAt w str i)

/-- A sum of products. -/
def dotInt : List Int → List Int → Int
  | a :: r, b :: q => a * b + dotInt r q
  | _, _ => 0

/-- One accumulator word after an entry's chunks (R215): chunks in ascending order with R77, or one exact integer sum with a
single saturation. -/
def State.mmaWord (s : State) (e : MEntry) (i j : Nat) (acc : Word) : Word :=
  if mtxInt e.type then
    let z := (entryChunks e).foldl (fun (z : Int) c => z + dotInt (s.chunkInts e false i c) (s.chunkInts e true j c)) acc.toInt
    BitVec.ofInt 32 (clampInt (-(2 ^ 31)) (2 ^ 31 - 1) z)
  else (entryChunks e).foldl (fun (a : Word) c => chunkSum a ((s.chunkVals e false i c).zip (s.chunkVals e true j c))) acc

/-- The number of an accumulator word (R205). -/
def accKey (tile i j : Nat) : Nat := tile * 16384 + i * 128 + j

/-- A core with accumulator words written. -/
def State.writeAcc (s : State) (core : Nat) (ws : List (Nat × Word)) : State :=
  (s.updCore core fun c => { c with acc := c.acc.putAll 0 ws }).clearErrors fun x => match x with
    | .acc c w => c = core && ws.any (fun y => y.1 = 2 * w) && ws.any fun y => y.1 = 2 * w + 1
    | _ => false

/-- The words that MMA, MMAS and MMAW leave (R215). -/
def State.mmaWords (s : State) (e : MEntry) : List (Nat × Word) :=
  let (M, N) := entryShape e
  let c := s.core (s.block e.blk).core
  (List.range M).flatMap fun i => (List.range N).map fun j =>
    let k := accKey e.tile (64 * e.halfA + i) (64 * e.halfB + j)
    (k, s.mmaWord e i j (c.acc.get 0 k))

/-- The words that ALD loads (R222). Widening keeps a NaN's payload (R74) and leaves a signalling NaN signalling: the rule says nothing of
the quiet bit (assumption 15). -/
def State.aldWords (s : State) (e : MEntry) : List (Nat × Word) :=
  let b := s.block e.blk
  let n := if e.type = 0 then 4 else 2
  (List.range 128).flatMap fun i => (List.range 128).map fun j =>
    let x := numOf ((s.core b.core).readSpad (b.pbase + e.a + i * e.pitchA + n * j) n)
    (accKey e.tile i j, BitVec.ofNat 32 (if e.type = 0 then x else encodeVal .fp32 .rn false 0 (decodeVal (if e.type = 1 then .bf16 else .fp16) x)))

/-- An accumulator word converted for a 32- or 16-bit result (R223). -/
def convWord (conv : Nat) (x : Word) : Nat :=
  if conv = 0 then x.toNat else encodeVal (convFmt conv) .rn false 0 (decodeVal .fp32 x.toNat)

/-- Row i of a drained tile as bytes, with its scale bytes (R223, R65). -/
def State.drainRow (s : State) (e : MEntry) (i : Nat) : List Byte × List Byte :=
  let c := s.core (s.block e.blk).core
  let ws := (List.range 128).map fun j => c.acc.get 0 (accKey e.tile i j)
  if e.type ≤ 2 then (ws.flatMap fun x => bytesOf (convWidth e.type / 8) (convWord e.type x), [])
  else
    let f := convFmt e.type
    let blocks := (List.range 4).map fun n => encodeBlock f (if 9 ≤ e.type then .sf8 else .e8m0) (((ws.drop (32 * n)).take 32).map fun x => decodeVal .fp32 x.toNat)
    (blocks.flatMap fun x => bytesOf (4 * f.bits) (packCodes f.bits x.2), blocks.flatMap fun x => bytesOf 1 x.1)

/-- ADRAIN .spd and .tile write rows and scales (R224, R225). -/
def State.drainSpad (s : State) (e : MEntry) : State :=
  let b := s.block e.blk
  (List.range 128).foldl (fun (s : State) i =>
    let (row, sc) := s.drainRow e i
    (s.writeSpad b.core (b.pbase + e.a + i * e.pitchA) row).writeSpad b.core (b.pbase + e.sb.toNat / 2 ^ 21 % 2 ^ 21 + 4 * i) sc) s

/-- The 32-bit word that the fragment map puts at register i of element el (R226), none beyond the rows. -/
def State.fragment (s : State) (e : MEntry) (i el : Nat) : Option Word :=
  let c := s.core (s.block e.blk).core
  let row0 := e.sb.toNat % 128
  let rows := e.sb.toNat / 2 ^ 8 % 128 + 1
  let q := i * e.ext + el
  let word := fun (f : Nat) => c.acc.get 0 (accKey e.tile (row0 + f / 128) (f % 128))
  if e.type = 0 then (if q < rows * 128 then some (word q) else none)
  else if q < rows * 64 then some (BitVec.ofNat 32 (convWord e.type (word (2 * q)) + 2 ^ 16 * convWord e.type (word (2 * q + 1))))
  else none

/-- ADRAIN .vreg fills its members' windows (R226). -/
def State.drainRegs (s : State) (e : MEntry) : State :=
  let W := (s.block e.blk).width
  let rows := e.sb.toNat / 2 ^ 8 % 128 + 1
  let n := ceilDiv (if e.type = 0 then rows * 128 else rows * 64) e.ext
  e.wins.foldl (fun (t : State) (m : Nat × Nat) =>
    match e.ranks.find? fun (r : Nat × Nat × Lanes) => r.1 = m.1 with
    | none => t
    | some (_, rank, ls) => t.updWarp m.1 fun w => w.fillWindow m.2 ((List.range n).map fun i =>
        .vec (e.dst + i) ((members W ls).filterMap fun l => (s.fragment e i (rank * W + l)).map fun x => (l, x)))) s

/-- Whether an entry reads an accumulator word (R215, R223, R226): the region of its product, the rows that it drains. -/
def State.accRead (_s : State) (e : MEntry) (w : Nat) : Bool :=
  let (M, N) := entryShape e
  let i := w % 16384 / 128
  let j := w % 128
  w / 16384 = e.tile && (if e.op ≤ 2 then 64 * e.halfA ≤ i && i < 64 * e.halfA + M && 64 * e.halfB ≤ j && j < 64 * e.halfB + N
    else e.shape != 0 || (e.sb.toNat % 128 ≤ i && i ≤ e.sb.toNat % 128 + e.sb.toNat / 2 ^ 8 % 128))

/-- Whether an entry reads a stored word (R210, R426). -/
def State.entryMeets (s : State) (e : MEntry) (x : Locus) : Bool :=
  let core := (s.block e.blk).core
  match x with
  | .spad c w => c = core && (s.readRanges e).any fun r => r.1 < 8 * w + 8 && 8 * w < r.1 + r.2
  | .acc c w => c = core && (e.op ≤ 2 || e.op = 5) && (s.accRead e (2 * w) || s.accRead e (2 * w + 1))
  | _ => false

/-- Whether an entry reads a word with an uncorrectable error (R210, R427). -/
def State.entryError (s : State) (e : MEntry) : Bool := !s.platform.errors.isEmpty && s.platform.errors.any (s.entryMeets e)

/-- An entry leaves the queue (R206): the next that waits for a place takes it, and whoever waited for the entry goes on. -/
def State.leaveQueue (s : State) (core : Nat) (e : MEntry) : State :=
  let c := s.core core
  let s := s.setCore core { c with mq := c.mq.drop 1 ++ c.mwait.take 1, mwait := c.mwait.drop 1 }
  let s := c.mwait.head?.elim s fun x => s.finishWait x.ticket
  let s := s.endReads e.blk (e.readA.toList ++ e.readB.toList)
  (s.finishWait e.id).retire e.blk

/-- Counters of a completed entry (R419): chunks by width, ADRAINs. -/
def State.countEntry (s : State) (core : Nat) (e : MEntry) : State :=
  if e.op ≤ 2 then
    let w := mtxWidth e.type
    s.addCore core (if w ≤ 6 then 25 else if w = 8 then 26 else if w = 16 then 27 else 28) (entryChunks e).length
  else if e.op = 5 then s.countCore core 31 else s

/-- The scratchpad cells of 16 bytes that a list of ranges touches, each range for itself. -/
def cellsOf (rs : List (Nat × Nat)) : Nat := rs.foldl (fun (n : Nat) r => n + ((r.1 + r.2 + 15) / 16 - r.1 / 16)) 0

/-- What an entry writes (R207). The errors that its reads correct are counted (R426), and the cells that it touches (R419). -/
def State.performEntry (s : State) (core : Nat) (e : MEntry) : State :=
  let s := ((s.correct (s.entryMeets e)).addCore core 32 (cellsOf (s.readRanges e))).addCore core 33 (cellsOf (s.writeRanges e))
  let a : Accessor := { kind := 1, core := core }
  let s := s.watchAccess core 1 a ((s.readRanges e).map fun r => (0xFF, r.1, r.2))
  let s := s.watchAccess core 2 a ((s.writeRanges e).map fun r => (0xFF, r.1, r.2))
  let s := s.countEntry core e
  match e.op with
  | 0 | 1 | 2 => s.writeAcc core (s.mmaWords e)
  | 3 => s.writeAcc core ((List.range 16384).map fun i => (e.tile * 16384 + i, 0))
  | 4 => s.writeAcc core (s.aldWords e)
  | 5 => if e.shape = 0 then s.drainRegs e else s.drainSpad e
  | _ => e.wins.foldl (fun (s : State) (m : Nat × Nat) => s.updWarp m.1 fun w =>
      { w with windows := w.windows.map fun x => if x.id = m.2 then { x with done := true } else x }) s

/-- A started entry meets an uncorrectable error (R210, R427): it writes nothing, its block becomes FAULTED, and a FAULT event is ordered, also
where the block has ended before. -/
def State.failEntry (s : State) (core : Nat) (e : MEntry) : State :=
  if (s.block e.blk).ended then (s.orderFault (s.block e.blk) Code.machineCheck 0xFFFF 0).leaveQueue core e
  else (s.leaveQueue core e).faultBlock e.blk Code.machineCheck 0xFFFF 0

/-- MATRIX_ENTRY_COMPLETE (R207): a started entry performs, retires, and completes its consuming reads (R213). -/
def execMatrixEntryComplete (core : Nat) (s : State) : Host.Outcome State Fault Refusal :=
  match (s.core core).mq with
  | [] => .next s
  | e :: _ =>
    if !e.started then .next s
    else if s.entryError e then .next (s.failEntry core e)
    else .next (((s.performEntry core e).leaveQueue core e).retryParked)

/-- MMA (R215). -/
def execMma (e : Enc) (s : State) : Host.Outcome State Fault Refusal := s.runLong .mma e effMma
/-- MMAS (R216 to R218). -/
def execMmas (e : Enc) (s : State) : Host.Outcome State Fault Refusal := s.runLong .mmas e effMma
/-- MMAW (R219, R220). -/
def execMmaw (e : Enc) (s : State) : Host.Outcome State Fault Refusal := s.runLong .mmaw e effMma
/-- ACLR (R221). -/
def execAclr (e : Enc) (s : State) : Host.Outcome State Fault Refusal := s.runLong .aclr e effAclr
/-- ALD (R222). -/
def execAld (e : Enc) (s : State) : Host.Outcome State Fault Refusal := s.runLong .ald e effAld
/-- ADRAIN (R223). -/
def execAdrain (e : Enc) (s : State) : Host.Outcome State Fault Refusal := s.runLong .adrain e effAdrain
/-- MSYNC (R227). -/
def execMsync (e : Enc) (s : State) : Host.Outcome State Fault Refusal := s.runLong .msync e effMsync

end Sys2Proof.Machine
end

