-- ==== Sys2Proof/Machine/Image.lean ====
section
/-!
DEFINITION. The cloakroom (R305 to R308): reserving room, the bytes of a block image, a warp record and a core image, and
reading them back.
-/

namespace Sys2Proof.Machine

/-! ## Room (R305) -/

/-- A size rounded up to 64 KiB. -/
def up64k (n : Nat) : Nat := (n + 65535) / 65536 * 65536

/-- Room of a block image. -/
def imageSize (r : Attach) (foot psize : Nat) : Nat := up64k (2 ^ 20 + (if recField r 0x2D 1 = 0 then 0 else foot) + psize)

/-- Room of a core image. -/
def coreImageSize : Nat := 3 * 2 ^ 20 + 65536

/-- The lowest of a list of offsets at which a size fits below a limit beside what is taken (R122, R305). -/
def lowestFit (limit size : Nat) (taken : List (Nat × Nat)) (cands : List Nat) : Option Nat :=
  cands.foldl (fun (m : Option Nat) o =>
    if o + size ≤ limit && taken.all (fun t => max o t.1 ≥ min (o + size) (t.1 + t.2)) then
      match m with
      | some x => some (min x o)
      | none => some o
    else m) none

/-- Reserves room of a context for a block image or for a core image, first fit. -/
def Ctx.reserve (c : Ctx) (size : Nat) (core : Option Nat) (blk : Nat) : Option Ctx :=
  let taken := c.rooms.map fun r => (r.off, r.size)
  (lowestFit c.cloaksz size taken (0 :: taken.map fun t => t.1 + t.2)).map fun o =>
    { c with rooms := c.rooms ++ [{ off := o, size := size, core := core, blk := blk }] }

/-- The room of a core's image, reserved where there is none. -/
def Ctx.reserveCore (c : Ctx) (core : Nat) : Option Ctx :=
  if 128 ≤ core || c.rooms.any (fun r => r.core = some core) then some c else c.reserve coreImageSize (some core) 0

/-- The physical address of a block's image room. -/
def State.imageBase (s : State) (ctx key : Nat) : Nat :=
  (s.ctx ctx).cloak + ((((s.ctx ctx).rooms.find? fun r => r.core.isNone && r.blk = key).map (·.off)).getD 0)

/-- The physical address of a core image's room. -/
def State.coreBase (s : State) (ctx core : Nat) : Option Nat :=
  ((s.ctx ctx).rooms.find? fun r => r.core = some core).map fun r => (s.ctx ctx).cloak + r.off

/-! ## Sparse writes and reads of DRAM -/

/-- DRAM with a range set to zero but for the given bytes. -/
def State.overlay (s : State) (pa n : Nat) (bs : List Host.Cell) : State :=
  { s with
    mem := Map.putAll memDefault (Map.clear s.mem pa (pa + n)) (bs.filter fun e => pa ≤ e.1 && e.1 < pa + n) }.clearErrors (replaced pa n)

/-- The cells of 32-bit words at word numbers from an address on. -/
def wordCells (pa : Nat) (ws : List (Nat × Word)) : List Host.Cell :=
  ws.flatMap fun e => (List.range 4).map fun i => (pa + 4 * e.1 + i, BitVec.ofNat 8 (e.2.toNat / 256 ^ i))

/-- The words of a range that are listed, by word number. -/
def State.wordsIn (s : State) (pa n : Nat) : Map Word :=
  ((Map.range s.mem pa (pa + n)).foldl (fun (m : Map Unit) (e : Host.Cell) => m.set ((e.1 - pa) / 4) ()) []).map fun e =>
    (e.1, BitVec.ofNat 32 (s.readNum (pa + 4 * e.1) 4))

/-! ## Layout of a block image (R305, R306) -/

/-- Offsets of the sections of a block image: the header names them. -/
structure Sections where
  pool : Nat
  mtx  : Nat
  pres : Nat
  bmk  : Nat
  reg  : Nat
  spd  : Nat

/-- A block's register footprint (R123). -/
def Block.foot (b : Block) : Nat :=
  (List.range b.wids.length).foldl (fun m i => m + b.width * budgetOf b.record i * 4) 0

/-- The sections of a block's image (assumption 21). -/
def Block.sections (b : Block) : Sections :=
  let pool := 0x1000 + b.wids.length * 0x2000
  let mtx := pool + 0x20000
  let pres := mtx + 16 * 0x9000
  let bmk := pres + (b.psize + 511) / 512
  let reg := (bmk + (b.psize + 63) / 64 + 4095) / 4096 * 4096
  { pool := pool, mtx := mtx, pres := pres, bmk := bmk, reg := reg, spd := reg + b.foot }

/-- The offset of a warp's registers in an image. -/
def Block.regOff (b : Block) (index : Nat) : Nat :=
  b.sections.reg + (List.range index).foldl (fun m i => m + b.width * budgetOf b.record i * 4) 0

/-- The 512 bytes of lane words. -/
def laneWords (live : Lanes) (parks : List Park) (pcs : Map Addr54) : List Byte :=
  (List.range 64).flatMap fun i => bytesOf 8 (laneWord live parks pcs i)

/-- A loop stack as four entries of 24 bytes (R307). -/
def loopRecord (loops : List LoopEntry) : List Byte :=
  (List.range 4).flatMap fun i => match loops[i]? with
    | some e => bytesOf 8 e.start.toNat ++ bytesOf 8 e.stop.toNat ++ bytesOf 8 (loopWord e).toNat
    | none => bytesOf 24 0

/-- Arrival marks (R307): a PC and the lanes that have arrived there. -/
def arrivalMarks (parks : List Park) : List (Nat × Lanes) :=
  pcGroups (parks.filter fun p => match p.place with | .rendezvous _ _ _ => true | _ => false)

/-- The 1,024 bytes of arrival marks. -/
def markBytes (parks : List Park) : List Byte :=
  let ms := arrivalMarks parks
  (List.range 64).flatMap fun i => match ms[i]? with
    | some m => bytesOf 8 m.1 ++ bytesOf 8 m.2.toNat
    | none => bytesOf 16 0

/-- A warp record (R307). -/
def warpRecord (w : Warp) : List Byte :=
  let f : Frame := w.frame.getD {}
  let talloc := w.allParks.any fun p => match p.place with | .talloc _ => true | _ => false
  laneWords w.live w.parks w.pcs
    ++ (if w.frame.isSome then laneWords w.live f.parks f.pcs else bytesOf 512 0)
    ++ ((List.range 64).flatMap fun i => bytesOf 8 (w.sget i).toNat)
    ++ ((List.range 12).flatMap fun i => bytesOf 8 (w.kget i).toNat)
    ++ loopRecord w.loops ++ loopRecord f.loops
    ++ bytesOf 8 w.live.toNat ++ bytesOf 8 w.pin.toNat ++ bytesOf 8 f.pin.toNat ++ bytesOf 8 w.lclk.toNat ++ bytesOf 8 w.tvec.toNat
    ++ bytesOf 4 ((if w.frame.isSome then 1 else 0) + (if w.offcore.isSome then 2 else 0) + (if w.halted then 4 else 0) + (if talloc then 16 else 0))
    ++ bytesOf 4 (arrivalMarks w.parks).length
    ++ ((List.range 64).flatMap fun i => bytesOf 4 (w.draw.get 0 i).toNat)
    ++ markBytes w.parks ++ bytesOf 4 (arrivalMarks f.parks).length ++ bytesOf 4 (if w.pass.isSome then 1 else 0) ++ markBytes f.parks
    ++ bytesOf 4008 0

/-- The place of a %wid on its core (R16). -/
def placeOf (wid : Nat) : Nat := if wid < 4096 then wid % 32 else wid % 16

/-- What the pools section records (R305): per tile its count, generation and state, the free lists, the waiter queues with their read
counts, the handle queue. -/
def Block.poolFacts (b : Block) : List Nat :=
  (b.tiles.flatMap fun (e : Nat × Tile) => [e.1, e.2.count, e.2.pend, e.2.gen, if e.2.free then 1 else 0])
    ++ (b.free.flatMap fun (e : Nat × List Nat) => e.1 :: e.2.length :: e.2)
    ++ (b.waiters.flatMap fun (e : Nat × List Waiter) => e.1 :: e.2.length :: e.2.flatMap fun q => [q.id, q.reads])
    ++ b.handles.map BitVec.toNat

/-- What the matrix section records of an entry (R305): its next chunk, its captured descriptors and register operands, its scales. -/
def MEntry.facts (e : MEntry) : List Nat :=
  [e.op, e.type, e.shape, e.tile, e.k, e.ext, e.a, e.pitchA, e.halfA, e.b, e.pitchB, e.halfB, e.tileLen, e.sb.toNat, e.dst, e.chunk]
    ++ e.readA.toList ++ e.readB.toList ++ e.scalesA.map BitVec.toNat ++ e.scalesB.map BitVec.toNat

/-- n bytes of a section of the cloakroom that records facts (assumption 21). -/
def sectionBytes (facts : List Nat) (n : Nat) : List Byte := (List.range n).map (Config.sectionByte facts)

/-- The header of a block image (R306). -/
def State.imageHeader (s : State) (b : Block) (entries : Nat) : List Byte :=
  let x := b.sections
  let flag := fun (c : Bool) (i : Nat) => if c then 2 ^ i else 0
  bytesOf 4 b.bid ++ bytesOf 2 b.grid ++ bytesOf 1 b.core ++ bytesOf 1 (placeOf (b.wids.headD 0)) ++ bytesOf 1 b.wids.length
    ++ bytesOf 1 (flag b.halted 0 + flag b.swap 1 + flag b.slice 2 + flag b.victim 3 + flag (s.ctx b.ctx).suspended 4)
    ++ bytesOf 2 0 ++ bytesOf 4 b.stage
    ++ (match b.nextCopy with | some (_, e, r) => bytesOf 2 e ++ bytesOf 2 r | none => bytesOf 2 b.itin.length ++ bytesOf 2 0)
    ++ bytesOf 4 (if b.waiting then 1 else 0) ++ bytesOf 4 b.pbase ++ bytesOf 4 b.psize ++ bytesOf 1 (min 16 entries) ++ bytesOf 7 0
    ++ bytesOf 8 x.pool ++ bytesOf 8 x.mtx ++ bytesOf 8 x.pres ++ bytesOf 8 x.reg ++ bytesOf 8 x.spd ++ bytesOf 8 x.bmk ++ bytesOf 4008 0

/-- The register of a warp's budget that a name stands for (R15): the top j names are the budget's last j registers. A name that is
not legal for the warp stands for none. -/
def Block.physReg (b : Block) (index n : Nat) : Option Nat :=
  let N := budgetOf b.record index
  if !legalV N b.xcount n then none else if n < N - b.xcount then some n else some (n + N - 512)

/-- The name that stands for register p of a warp's budget (R15): a warp's state holds its registers by name. -/
def Block.regName (b : Block) (index p : Nat) : Nat :=
  let N := budgetOf b.record index
  if p < N - b.xcount then p else p + 512 - N

/-- A warp's record and registers written to its place in an image (R305, R307). -/
def State.writeImageWarp (s : State) (base : Nat) (b : Block) (w : Warp) : State :=
  let n := budgetOf b.record w.index
  let regs := w.v.filterMap fun e => if e.1 % 64 < b.width then (b.physReg w.index (e.1 / 64)).map fun p => (p * b.width + e.1 % 64, e.2) else none
  (s.writeBytes (base + 0x1000 + 0x2000 * w.index) (warpRecord w)).overlay (base + b.regOff w.index) (b.width * n * 4) (wordCells (base + b.regOff w.index) regs)

/-- The shared sections of a block's image (R305): header, pools, up to 16 matrix entries, presence, barrier marks and scratchpad. -/
def State.writeImageShared (s : State) (base : Nat) (b : Block) (entries : List MEntry) : State :=
  let x := b.sections
  let c := s.core b.core
  let s := s.writeBytes base (s.imageHeader b entries.length)
  let s := if (List.range 8).any (fun p => (poolOf b.record p).valid) then s.writeBytes (base + x.pool) (sectionBytes b.poolFacts 0x20000) else s
  let s := s.writeBytes (base + x.mtx) ((entries.take 16).flatMap fun e => sectionBytes e.facts 0x9000)
  let pres := setOfNat ((List.range (b.psize / 64)).filter fun g => c.present (b.pbase + 64 * g))
  let s := s.writeBytes (base + x.pres) (bytesOf ((b.psize + 511) / 512) pres)
  let marks := setOfNat ((c.marks.filter b.holds).map fun o => (o - b.pbase) / 8)
  let s := s.writeBytes (base + x.bmk) (bytesOf ((b.psize + 63) / 64) marks)
  s.overlay (base + x.spd) b.psize ((c.spad.range b.pbase (b.pbase + b.psize)).map fun e => (base + x.spd + (e.1 - b.pbase), e.2))

/-! ## Reading an image back -/

/-- A warp with the fields that its record and registers hold in memory: PCs, scalar, mask and vector registers, draws, clock,
%tvec and pass flag. -/
def State.readImageWarp (s : State) (base : Nat) (b : Block) (w : Warp) : Warp :=
  let rec_ := base + 0x1000 + 0x2000 * w.index
  let n := budgetOf b.record w.index
  let regs := s.wordsIn (base + b.regOff w.index) (b.width * n * 4)
  let pcs := Map.putAll 0 [] ((members b.width w.live).map fun i => (i, BitVec.ofNat 54 (s.readNum (rec_ + 8 * i) 8)))
  { w with
    pcs := pcs
    s := Map.putAll 0 [] ((List.range 64).map fun i => (i, BitVec.ofNat 64 (s.readNum (rec_ + 0x400 + 8 * i) 8)))
    k := Map.putAll 0 [] ((List.range 12).map fun i => (i, BitVec.ofNat 64 (s.readNum (rec_ + 0x600 + 8 * i) 8) &&& allSet b.width))
    v := Map.putAll 0 [] (regs.map fun e => (64 * b.regName w.index (e.1 / max 1 b.width) + e.1 % max 1 b.width, e.2))
    draw := Map.putAll 0 [] ((List.range 64).map fun i => (i, BitVec.ofNat 32 (s.readNum (rec_ + 0x750 + 4 * i) 4)))
    lclk := BitVec.ofNat 64 (s.readNum (rec_ + 0x738) 8)
    tvec := BitVec.ofNat 64 (s.readNum (rec_ + 0x740) 8)
    pass := if s.readNum (rec_ + 0xC54) 4 % 2 = 1 then w.pass.or (({ w with pcs := pcs } : Warp).selectedPc b.width) else none }

/-- The scratchpad bytes of an image at their absolute offsets. -/
def State.readImageSpad (s : State) (base : Nat) (b : Block) : Map Byte :=
  let lo := base + b.sections.spd
  (Map.range s.mem lo (lo + b.psize)).map fun e => (e.1 - lo + b.pbase, e.2)

/-! ## Core images (R304, R308) -/

/-- Saves a core's accumulator store into the image room of a context (R308): its header records the context slot, the generation and
the core, in a layout that is open (assumption 21). -/
def State.saveCore (s : State) (ctx core : Nat) : State :=
  match s.coreBase ctx core with
  | none => s
  | some base =>
    let s := s.writeBytes base (sectionBytes [ctx, (s.ctx ctx).gen, core] 65536)
    let s := { s with ctxs := s.ctxs.modify ctx fun c => { c with saved := if c.saved.contains core then c.saved else core :: c.saved } }
    s.overlay (base + 65536) (3 * 2 ^ 20) (wordCells (base + 65536) (s.core core).acc)

/-- The accumulator store that a context's image of a core holds; +0 everywhere without one. -/
def State.coreImage (s : State) (ctx core : Nat) : Map Word :=
  match s.coreBase ctx core with
  | some base => if (s.ctx ctx).saved.contains core then (s.wordsIn (base + 65536) (3 * 2 ^ 20)).filter fun e => e.2 != 0 else []
  | none => []

/-- What a restore reads of DRAM corrects its latent errors (R426). -/
def State.correctRange (s : State) (pa n : Nat) : State :=
  s.correct fun x => match x with | .dram k => pa < 64 * k + 64 && 64 * k < pa + n | _ => false

/-- A core that is to hold blocks of a context: its accumulators change owner where another context held it last (R205, R304); every word is
written, and is good again (R427). -/
def State.swapCore (s : State) (ctx core : Nat) : State :=
  let me := (s.ctx ctx).gen * 64 + ctx
  let c := s.core core
  if 128 ≤ core || c.lastCtx = some me then s
  else
    let s := match c.lastCtx with
      | some x => if (s.ctx (x % 64)).gen = x / 64 && (s.ctxs.find (x % 64)).isSome then s.saveCore (x % 64) core else s
      | none => s
    let s := s.clearErrors fun x => match x with | .acc c _ => c = core | _ => false
    let s := match s.coreBase ctx core with
      | some base => if (s.ctx ctx).saved.contains core then s.correctRange base (65536 + 3 * 2 ^ 20) else s
      | none => s
    (s.updCore core fun c => { c with acc := s.coreImage ctx core, lastCtx := some me }).countCore core 7

/-- Whether a block of a context that goes onto a core is to read a core image that holds an uncorrectable error (R427). -/
def State.coreError (s : State) (ctx core : Nat) : Bool :=
  !s.platform.errors.isEmpty && core < 128 && (s.core core).lastCtx != some ((s.ctx ctx).gen * 64 + ctx) && (s.ctx ctx).saved.contains core
    && match s.coreBase ctx core with
      | some base => s.rangeError base (65536 + 3 * 2 ^ 20)
      | none => false

end Sys2Proof.Machine
end

