-- ==== Sys2Proof/Machine/Porter.lean ====
section
/-!
DEFINITION. The porter's queues: placing a command and ending it (R323, R327, R333 to R335, R342 to R345), and the completions
that follow from one another (R326, R350).
-/

namespace Sys2Proof.Machine

/-- Ticks of pod time in a microsecond (R277). -/
abbrev usTicks : Nat := 1250

/-- A porter queue; an unbound one of incarnation 0 where nothing is listed. -/
def State.queue (s : State) (q : Nat) : Queue := s.queues.get {} q

/-- The state with a queue changed. -/
def State.updQueue (s : State) (q : Nat) (f : Queue → Queue) : State := { s with queues := s.queues.set q (f (s.queue q)) }

/-- The state with a queue's command changed. -/
def State.updCmd (s : State) (q id : Nat) (f : Cmd → Cmd) : State :=
  s.updQueue q fun x => { x with cmds := x.cmds.map fun c => if c.id = id then f c else c }

/-- Whether a queue is bound to a context (R342). -/
def State.boundTo (s : State) (q ctx : Nat) : Bool :=
  let x := s.queue q
  x.st != .unbound && x.slot = ctx && x.gen = (s.ctx ctx).gen

/-- The kind of a command in a completion record (R334). -/
def CmdKind.code : CmdKind → Nat
  | .send => 0 | .put _ => 1 | .get => 2 | .patom _ _ _ => 3 | .pcount _ _ => 5

/-- Packets of a command (R325): at most 4,096 bytes each (R321); a READ, an atomic and a tagged SEND are one. -/
def Cmd.packets (c : Cmd) : Nat :=
  match c.kind with
  | .put none => max 1 ((c.len + 4095) / 4096)
  | .pcount _ _ => 0
  | _ => 1

/-- Bytes that a command has moved (R334): those of the packets that an answer covers, also of one that ends in error. -/
def Cmd.bytes (c : Cmd) : Nat :=
  match c.kind with
  | .patom _ _ _ => 8 * c.acked
  | .pcount _ _ => 0
  | .get => c.got
  | .put none => min c.len (4096 * c.acked)
  | .put (some _) | .send => c.len * c.acked

/-- A completion record (R334). -/
def completion (status fault q kind bytes cseq : Nat) (site : Nat × Nat × Nat) : List Byte :=
  bytesOf 1 status ++ bytesOf 1 fault ++ bytesOf 1 q ++ bytesOf 1 kind ++ bytesOf 4 bytes ++ bytesOf 4 cseq ++ bytesOf 4 site.2.2
    ++ bytesOf 4 site.2.1 ++ bytesOf 4 0 ++ bytesOf 8 site.1

/-! ## Results of PATOM (R347, R348) -/

/-- A ready result is written to its destinations (R135). -/
def Warp.takeResult (w : Warp) (W id : Nat) : Warp :=
  match w.windows.find? fun x => x.id = id && x.ready && !x.done with
  | none => w
  | some x =>
    let w := w.writeAll W x.writes
    { w with windows := (w.windows.map fun y => if y.id = id then { y with done := true, writes := [] } else y).filter Window.open_ }

/-- Part of a window's result for a warp of a block image: it is written into the image (R348). -/
def State.fillImage (s : State) (wid win : Nat) (f : Warp → Warp) (x : Image) : State :=
  match x.warps.find? fun (e : Nat × Warp) => e.1 = wid with
  | none => s
  | some (_, w) =>
    let w := (f (s.readImageWarp x.base x.block w)).takeResult x.block.width win
    let s := s.writeImageWarp x.base x.block w
    { s with images := s.images.map fun (y : Image) =>
        if y.key = x.key then { y with warps := y.warps.map fun (e : Nat × Warp) => if e.1 = wid then (wid, w) else e } else y }

/-- Part of a window's result for a resident warp; that of a warp off-core is written into its block's image (R348, R358). -/
def State.fillWarp (s : State) (wid win : Nat) (f : Warp → Warp) : State :=
  match s.warp? wid with
  | none => s
  | some w =>
    if w.offcore.isNone then s.setWarp wid (f w)
    else
      let b := s.block w.blk
      let base := s.imageBase b.ctx w.blk
      let w := (f (s.readImageWarp base b w)).takeResult b.width win
      (s.writeImageWarp base b w).setWarp wid w

/-- Part of a window's result, in a resident warp or in an image of one (R348). -/
def State.fillAnywhere (s : State) (wid win : Nat) (last : Bool) (r : RegWrite) : State :=
  let f := fun (w : Warp) => if last then w.fillWindow win [r] else w.addToWindow win [r]
  s.images.foldl (fun (s : State) (x : Image) => s.fillImage wid win f x) (s.fillWarp wid win f)

/-- The old value of a PATOM for its destinations (R347): once in each member, or in its lane; the window's result is whole when
no other command of the issue stands. -/
def State.fillPatom (s : State) (q : Nat) (c : Cmd) (x : DWord) : State :=
  c.wins.foldl (fun (s : State) (m : Nat × Nat) =>
    match c.lane with
    | none => s.fillAnywhere m.1 m.2 true (.scal c.dst x)
    | some l =>
      let last := !(s.queue q).cmds.any fun y => y.id != c.id && y.wins.contains m
      (s.fillAnywhere m.1 m.2 false (.vec c.dst [(l, lo32 x)])).fillAnywhere m.1 m.2 last (.vec (c.dst + 1) [(l, hi32 x)])) s

/-! ## Ending a command -/

/-- Whether a block is resident for the faults of its commands (R327): it has not ended and is not saved (assumption 65). -/
def State.resident (s : State) (key : Nat) : Bool := (s.block? key).any fun b => !b.ended

/-- A PORTER fault of a block, where it is resident (R327, R433); of a saved block's command none is held (assumption 65). -/
def State.holdPorter (s : State) (blk : Option Nat) (q status : Nat) (addr : Option DWord) : State :=
  match blk with
  | none => s
  | some b => if s.resident b then s.hold b { code := Code.porter, info := status + 256 * q, addr := addr } else s

/-- Ends a command with a status (R327, R333 to R335, R345): it leaves its queue, the count rises, a PATOM's result is written, a
record where one is due, PORTER in its block for a failure of its own, and whoever waits for it goes on. -/
def State.endCmd (s : State) (q : Nat) (c : Cmd) (status fault : Nat) (addr : Option DWord) : State :=
  let x := s.queue q
  let s := s.updQueue q fun x => { x with cmds := x.cmds.filter fun y => y.id != c.id, count := x.count + 1 }
  let s := match c.kind with
    | .patom _ _ _ => s.fillPatom q c (if status = 0 then BitVec.ofNat 64 (numOf c.data) else 0)
    | _ => s
  let s := if (c.cpl || status != 0) && x.ring != 0 then
      s.addJob { id := 0, ctx := x.slot, header := x.ring, queue := some q, inc := x.inc, blk := c.blk, record := completion status fault q c.kind.code c.bytes c.cseq c.site }
    else s
  let s := if status = 0 || status = 4 then s else s.holdPorter c.blk q status addr
  (s.finishWait c.id).countDie 0 29

/-- Ends every command of a queue FLUSHED (R327). -/
def State.flush (s : State) (q : Nat) : State := (s.queue q).cmds.foldl (fun (s : State) (c : Cmd) => s.endCmd q c 4 0 none) s

/-- A queue enters ERROR (R327). -/
def State.errorQueue (s : State) (q : Nat) : State :=
  (s.updQueue q fun x => { x with st := .error, times := [], resend := none }).flush q

/-- A command of a queue ends in error (R327): the queue enters ERROR and the commands behind it end FLUSHED. -/
def State.failCmd (s : State) (q : Nat) (c : Cmd) (status fault : Nat) (addr : Option DWord) : State :=
  ((s.updQueue q fun x => { x with st := .error, times := [], resend := none }).endCmd q c status fault addr).flush q

/-- Places a command (R323, R344): it takes the queue's next number; on a queue in ERROR it ends FLUSHED. -/
def State.placeCmd (s : State) (q : Nat) (c : Cmd) : State :=
  let (id, s) := s.draw
  let x := s.queue q
  let c := { c with id := id, cseq := x.cseq }
  let s := s.updQueue q fun x => { x with cmds := x.cmds ++ [c], cseq := (x.cseq + 1) % 2 ^ 32 }
  if x.st = .error then s.endCmd q c 4 0 none else s

/-- The answer of a well-known queue pair of port H (R322): a 64-byte SEND to the host, behind those before it; `k` is 0 for submissions, 1 for
management, 2 for porter control. -/
def State.answerHost (s : State) (k : Nat) (m : Msg) : State :=
  s.placeCmd (256 + k) { id := 0, kind := .send, len := 64, forward := true, data := bytesOf 64 m.toNat }

/-! ## Completion in queue order (R326, R338, R350) -/

/-- Whether a queue waits for room in a ring for a record of its own (R338). -/
def State.recordWaits (s : State) (q : Nat) : Bool := s.jobs.any fun j => j.queue = some q && j.inc = (s.queue q).inc

/-- Whether a command has been performed: a PCOUNT once the count it names has come (R333), any other once every packet of it is
answered. -/
def State.cmdDone (s : State) (c : Cmd) : Bool :=
  match c.kind with
  | .pcount b v => ((s.queue b).count - v).toNat < 2 ^ 31
  | _ => c.packets ≤ c.acked

/-- A queue whose first command is complete and whose earlier records are written. -/
def State.doneQueue (s : State) : Option (Nat × Cmd) :=
  s.queues.findSome? fun (e : Nat × Queue) =>
    match e.2.cmds with
    | c :: _ => if e.2.st = .ready && s.cmdDone c && !s.recordWaits e.1 then some (e.1, c) else none
    | [] => none

/-- Completes the first commands of queues, one after another. -/
def State.completeQueues : Nat → State → State
  | 0, s => s
  | n + 1, s => match s.doneQueue with
    | none => s
    | some (q, c) => State.completeQueues n (s.endCmd q c 0 0 none)

/-- Completes every command that can complete. -/
def State.settleQueues (s : State) : State :=
  State.completeQueues (s.queues.foldl (fun (n : Nat) (e : Nat × Queue) => n + e.2.cmds.length) 0) s

end Sys2Proof.Machine
end

