-- ==== Sys2Proof/Machine/Net.lean ====
section
/-!
DEFINITION. Porter instructions: PUT, GET, PATOM, POST and PCOUNT of class 13 (R340 to R350).
-/

namespace Sys2Proof.Machine

/-- What an instruction that a shadow run may not perform does there: the run ends inconclusive (R386). -/
def Cx.noShadow (cx : Cx) (s : State) (k : Eff) : Eff :=
  if (cx.block s).kind = .shadow then .jumped (s.faultBlock cx.blk 0 cx.wid 0) else k


/-- One command's lane with its operands b and c (R345, R347). -/
structure NetLane where
  wid  : Nat
  lane : Nat
  b    : DWord
  c    : DWord

/-- The lanes that place a command: every participating one in ascending e, or, in the scalar form, the lowest one (R344, R345). -/
def Cx.netLanes (cx : Cx) (s : State) (perLane : Bool) : List NetLane :=
  if perLane then cx.parts.flatMap fun p =>
    let w := s.warpD p.wid
    (cx.lanesOf p).map fun l => { wid := p.wid, lane := l, b := w.vpair cx.e.b.toNat l, c := w.vpair cx.e.c.toNat l }
  else match cx.parts with
    | [] => []
    | p :: _ => [{ wid := p.wid, lane := (cx.lanesOf p).head?.getD 0, b := cx.sval s cx.e.b.toNat, c := cx.sval s cx.e.c.toNat }]

/-- The record of a lane of a porter instruction. -/
def netRec (code : Nat) (l : NetLane) (width : Nat) (addr : Option DWord) : Nat × Rec :=
  (l.wid, { code := code, lane := l.lane, width := width, addr := addr, space := 0 })

/-- A queue that is not bound to the issuing context (R342, R343): each lane of a vector form, or the lowest lane of a scalar one
(R272). -/
def notBound (lanes : List NetLane) : Eff := .faults (lanes.map fun l => netRec Code.remoteDirect l 0 none)

/-- Whether a remote address names another chip than the queue's binding (R325, R343): never on port H. -/
def Queue.elsewhere (x : Queue) (a : DWord) : Bool := x.port != 16 && chipField a != x.chip

/-- Commands of a queue that count towards the limit of R344. -/
def Queue.held (x : Queue) : Nat := (x.cmds.filter fun c => !c.forward).length

/-- Places the commands of one issue together (R344). -/
def Cx.placeAll (cx : Cx) (s : State) (q : Nat) (cs : List Cmd) : Eff :=
  if 1024 < (s.queue q).held + cs.length then .stall
  else
    let s := s.addCore (coreOf cx.wid) 56 cs.length
    .ok (cs.foldl (fun (s : State) (c : Cmd) => s.placeCmd q c) s)

/-- A command of this issue. -/
def Cx.cmd (cx : Cx) (s : State) (kind : CmdKind) (l : NetLane) : Cmd :=
  { id := 0, kind := kind, remote := l.b, local_ := l.c, cpl := cx.m % 2 = 1, blk := some cx.blk, site := siteOf (cx.block s).record,
    issuers := cx.parts.map (·.wid) }

/-- PUT's and GET's effect (R342 to R345); `get` says which. -/
def effPut (get : Bool) (cx : Cx) (s : State) : Eff :=
  cx.noShadow s <|
    let q := cx.e.a.toNat
    let x := s.queue q
    let tagged := !get && cx.m / 2 % 2 = 1
    let lanes := cx.netLanes s (cx.m / 4 % 2 = 1)
    let raw := match cx.lit with | some l => l.toNat | none => (cx.sval s cx.e.dst.toNat).toNat
    let len := if tagged then raw % 2 ^ 32 else raw
    let bad := fun (l : NetLane) =>
      if !tagged && x.elsewhere l.b then some (netRec Code.remoteDirect l 0 (some l.b))
      else if chipField l.c != s.chip then some (netRec Code.remoteDirect l 0 (some l.c))
      else none
    if !s.boundTo q (cx.block s).ctx then notBound lanes
    else match lanes.filterMap bad with
      | r :: rs => .faults (r :: rs)
      | [] =>
        if (if tagged then 4088 else 2 ^ 30) < len || (get && len = 0) then
          .faults (lanes.map fun l => netRec Code.spaceRange l 0 none)
        else
          let kind := if get then .get else .put (if tagged then some (BitVec.ofNat 32 (raw / 2 ^ 32)) else none)
          cx.placeAll s q (lanes.map fun l => { cx.cmd s kind (if tagged then { l with b := 0 } else l) with len := len })

/-- PATOM's effect (R343, R347): the windows of its destination wait for the atomic acknowledges; a host address is not checked. -/
def effPatom (cx : Cx) (s : State) : Eff :=
  cx.noShadow s <|
    let q := cx.e.a.toNat
    let x := s.queue q
    let cas := cx.m % 2 = 1
    let lanes := cx.netLanes s (!cx.S)
    let swap := fun (l : NetLane) =>
      if !cas then (0 : DWord) else if cx.S then cx.sval s (cx.e.c.toNat + 1) else (s.warpD l.wid).vpair (cx.e.c.toNat + 2) l.lane
    let bad := fun (l : NetLane) =>
      if x.elsewhere l.b then some (netRec Code.remoteDirect l 8 (some l.b))
      else if x.port != 16 && l.b.toNat % 8 != 0 then some (netRec Code.misaligned l 8 (some l.b))
      else none
    if !s.boundTo q (cx.block s).ctx then notBound lanes
    else match lanes.filterMap bad with
      | r :: rs => .faults (r :: rs)
      | [] =>
        if 1024 < x.held + lanes.length then .stall
        else
          let (wins, s) := cx.openAll s cx.parts
          let s := wins.foldl (fun (s : State) (m : Nat × Nat) => s.updWarp m.1 fun w =>
            { w with windows := w.windows.map fun y => if y.id = m.2 then { y with patom := true } else y }) s
          cx.placeAll s q (lanes.map fun l => { cx.cmd s (.patom cas l.c (swap l)) l with
            len := 8, cpl := false, dst := cx.e.dst.toNat
            wins := if cx.S then wins else wins.filter fun m => m.1 = l.wid
            lane := if cx.S then none else some l.lane })

/-- The lowest participating lane of an issue. -/
def Cx.lane (cx : Cx) : Nat := match cx.parts with | p :: _ => (cx.lanesOf p).head?.getD 0 | [] => 0

/-- A precise fault of the whole issue; `off` says that an access of it raised FORMAT_WINDOW before (R319), which stays held. An entry that
has to wait then leaves the lanes at the instruction. -/
def Cx.faultAfter (cx : Cx) (off : Bool) (s : State) (r : Rec) : Eff :=
  if !off then .fault r
  else match s.trapHold (cx.parts.map (·.wid)) with
    | some (some va) => .mig va
    | some none => .stall
    | none => .jumped (s.faultIssue s cx [] (some r))

/-- The fault of a scalar access: one record, of the lowest participating lane, in its warp's entry (R272). -/
def Cx.scalarFault (cx : Cx) (code width : Nat) (addr : Option DWord) : Eff :=
  .faults [(((cx.parts.head?.map (·.wid)).getD cx.wid), { code := code, lane := cx.lane, width := width, addr := addr })]

/-- The fault of reading a ring header for a ring instruction or POST (R336, R351, R427), or the page that it waits for. -/
def Cx.headerFault (cx : Cx) (a : DWord) : RingRead → Option Eff
  | .ok _ _ => none
  | .invalid => some (.fault { code := Code.ringInvalid })
  | .error => some (cx.scalarFault Code.machineCheck 8 (some a))
  | .fault .migrating => some (.mig (BitVec.ofNat 54 (va54 a)))
  | .fault .permission => some (cx.scalarFault Code.permission 8 (some a))
  | .fault _ => some (cx.scalarFault Code.pageFault 8 (some a))

/-- The checks of a posted request's body, after its queue and its address (R343, R349): none where it is valid. -/
def Cx.postFault (cx : Cx) (s : State) (body : Msg) : Option Eff :=
  let b := cx.block s
  let n := body.toNat
  let flag := fun (i : Nat) => fieldAt n 0 1 / 2 ^ i % 2 = 1
  let faddr := BitVec.ofNat 64 (fieldAt n 0x18 8)
  let ring := BitVec.ofNat 64 (fieldAt n 0x20 8)
  let h := BitVec.ofNat 64 (fieldAt n 8 4)
  let off := fieldAt n 0xC 4
  let tail := if ring = 0 then none else cx.headerFault ring (s.readRing b.ctx ring)
  if (flag 1 && !s.boundTo (fieldAt n 1 1) b.ctx) || (flag 3 && !s.boundTo (fieldAt n 2 1) b.ctx) then some (notBound (cx.netLanes s false))
  else if flag 1 && (s.queue (fieldAt n 1 1)).elsewhere faddr then
    some (cx.scalarFault Code.remoteDirect 0 (some faddr))
  else if !flag 0 then tail
  else if off % 4 != 0 then some (cx.scalarFault Code.spaceRange 0 none)
  else match b.handle? h with
    | none => some (.fault { code := Code.tileHandle, info := h.toNat })
    | some (p, _, _) =>
      if (poolOf b.record p).size < off + fieldAt n 0x10 4 then some (cx.scalarFault Code.spaceRange 0 none) else tail

/-- POST's effect (R330, R343, R349). -/
def effPost (cx : Cx) (s : State) : Eff :=
  cx.noShadow s <|
    let b := cx.block s
    let q := cx.e.a.toNat
    let sb := cx.sval s cx.e.b.toNat
    let bad := fun (code : Nat) => cx.scalarFault code 64 (some sb)
    if !s.boundTo q b.ctx then notBound (cx.netLanes s false)
    else match s.checkGlb (coreOf cx.wid) b.ctx 64 .read false sb.toNat with
      | .bad code => bad code
      | .mig va => .mig va
      | .ok (.glb pa) =>
        if s.locError (some (coreOf cx.wid)) 64 (.glb pa) then bad Code.machineCheck
        else
        let off := s.windowOff pa
        let (bs, s) := ((s.holdWindow cx.blk sb false pa).tlbFill (coreOf cx.wid) b.ctx (va54 sb)).loadGlb pa 64
        let body : Msg := BitVec.ofNat 512 (numOf bs)
        match cx.postFault s body with
        | some (.fault r) => cx.faultAfter off s r
        | some e => e
        | none =>
          if 8192 ≤ s.posted.length then .stall
          else
            let x := s.queue q
            let r : Posted := { queue := q, inc := x.inc, tag := lo32 (cx.sval s cx.e.c.toNat), number := x.posts, blk := some cx.blk, body := body, armed := fieldAt body.toNat 0 1 / 16 % 2 = 1, fqInc := (s.queue (fieldAt body.toNat 1 1)).inc, site := siteOf b.record }
            .ok (({ s with posted := s.posted ++ [r] }).updQueue q fun x => { x with posts := (x.posts + 1) % 2 ^ 32 })
      | .ok _ => .ok s

/-- PCOUNT's effect (R333, R350). -/
def effPcount (cx : Cx) (s : State) : Eff :=
  cx.noShadow s <|
    let q := cx.e.a.toNat
    let r := cx.e.b.toNat
    if !s.boundTo q (cx.block s).ctx || !s.boundTo r (cx.block s).ctx then notBound (cx.netLanes s false)
    else cx.placeAll s q [cx.cmd s (.pcount r (lo32 (cx.sval s cx.e.c.toNat))) { wid := cx.wid, lane := 0, b := 0, c := 0 }]

/-- PUT (R345). -/
def execPut (e : Enc) (s : State) : Host.Outcome State Fault Refusal := s.runLong .put e (effPut false)
/-- GET (R345). -/
def execGet (e : Enc) (s : State) : Host.Outcome State Fault Refusal := s.runLong .get e (effPut true)
/-- PATOM (R347). -/
def execPatom (e : Enc) (s : State) : Host.Outcome State Fault Refusal := s.runLong .patom e effPatom
/-- POST (R349). -/
def execPost (e : Enc) (s : State) : Host.Outcome State Fault Refusal := s.runLong .post e effPost
/-- PCOUNT (R350). -/
def execPcount (e : Enc) (s : State) : Host.Outcome State Fault Refusal := s.runLong .pcount e effPcount

end Sys2Proof.Machine
end

