-- ==== Sys2Proof/Machine/Rings.lean ====
section
/-!
DEFINITION. Device rings: RPUSH, RPOP, RWAIT and RCUR of class 13 (R336, R337, R351 to R354), the claim of SVC (R358), and what
their parked lanes do when they are tried again.
-/

namespace Sys2Proof.Machine

/-- How trying a ring instruction ends: faults of lanes, or of the issue. -/
inductive RingTry where
  | done (s : State)
  | wait
  | faults (l : List (Nat × Rec))
  | fault (r : Rec)
  | mig (va : Addr54)

/-- The record of an access of a ring instruction that belongs to the issue, to the header or to a scalar form's slot: of its lowest
participating lane (R272). The specification gives such an access no bytes per lane; 8 is the model's (assumption 75). -/
def RingOp.bad (op : RingOp) (code : Nat) (a : DWord) : RingTry :=
  .faults (op.warps.head?.toList.map fun m => (m.1, { code := code, lane := (Sys2Proof.members 64 m.2).headD 0, width := 8, addr := some a }))

/-- What an access to the ring that cannot be translated gives. -/
def RingOp.trans (op : RingOp) (a : DWord) : Trans → RingTry
  | .migrating => .mig (BitVec.ofNat 54 (va54 a))
  | .permission => op.bad Code.permission a
  | _ => op.bad Code.pageFault a

/-- The pod address of a slot. -/
def State.slotAddr (s : State) (r : Ring) (t : Nat) : DWord := BitVec.ofNat 64 (s.chip * 2 ^ 54 + r.slot t)

/-- The code with which an access to a slot faults: its address cannot be used, or, where it reads, the first 16 bytes meet an uncorrectable
error (R427). -/
def State.slotCode (s : State) (r : Ring) (t : Nat) (acc : Access) : Option Nat :=
  match s.translateEngine r.ctx (r.slot t) acc with
  | .ok _ => if acc = .read && s.virtError r.ctx (r.slot t) 16 then some Code.machineCheck else none
  | .migrating => none
  | .permission => some Code.permission
  | .pageFault => some Code.pageFault

/-- What keeps an access from k slots from t on: a record for each lane whose own slot is bad in a vector form, and one for a scalar form
(R272); without any, the first migrating page. -/
def State.badSlot (s : State) (op : RingOp) (r : Ring) (t k : Nat) (acc : Access) : Option RingTry :=
  let bad := (List.range k).filterMap fun j => (s.slotCode r (t + j) acc).map fun c => (j, c)
  match bad with
  | (j, c) :: _ =>
    if op.scalar || op.lanes.isEmpty then some (op.bad c (s.slotAddr r (t + j)))
    else some (.faults (bad.map fun x =>
      let l := op.lanes.getD x.1 (0, 0, 0)
      (l.1, { code := x.2, lane := l.2.1, width := 8, addr := some (s.slotAddr r (t + x.1)) })))
  | [] => ((List.range k).find? fun j => s.translateEngine r.ctx (r.slot (t + j)) acc = .migrating).map fun j => .mig (BitVec.ofNat 54 (r.slot (t + j)))

/-- Writes payloads into consecutive slots, each sequence released after its payload (R337). -/
def State.fillSlots (s : State) (r : Ring) (clock : DWord) : Nat → List (List Byte) → State
  | _, [] => s
  | t, p :: q => State.fillSlots ((s.fillSlot r t p (some clock)).getD s) r clock (t + 1) q

/-- The sequence that a slot holds. -/
def State.slotSeq (s : State) (r : Ring) (t : Nat) : Nat := (((s.readVirt r.ctx (r.slot t) 8).1.map numOf).getD 0)

/-- Claims k slots together with room, and fills them (R337, R352): what goes to one sector of a format window is one request (R318). -/
def State.pushRecords (s : State) (op : RingOp) (r : Ring) (ps : List (List Byte)) : RingTry :=
  if !r.room ps.length then .wait
  else match s.badSlot op r r.tail ps.length .write with
    | some x => x
    | none => match s.claim r ps.length with
      | none => op.trans (BitVec.ofNat 64 (s.chip * 2 ^ 54 + r.header)) (s.translateEngine r.ctx r.header .write)
      | some t => .done ((t.fillSlots r op.clock r.tail ps).mergeAlias t.aliasQ.length)

/-- What keeps an RPUSH's lane from reading its source to the end (R352): a translation, or an uncorrectable error (R427). -/
def State.badSource (s : State) (r : Ring) (a : DWord) : Option Trans ⊕ Unit :=
  let n := 2 ^ r.lgs - 8
  if (s.readVirt r.ctx (va54 a) n).1.isSome then (if s.virtError r.ctx (va54 a) n then .inr () else .inl none)
  else .inl (some (match s.translateEngine r.ctx (va54 a) .read with
    | .ok _ => s.translateEngine r.ctx ((va54 a + n - 1) % 2 ^ 54) .read
    | x => x))

/-- The records that an RPUSH copies, in ascending e (R352), or what its lanes meet. -/
def State.sources (s : State) (op : RingOp) (r : Ring) : Except RingTry (List (List Byte)) :=
  let rec_ := fun (l : Nat × Nat × DWord) (code : Nat) => some (l.1, ({ code := code, lane := l.2.1, width := 8, addr := some l.2.2 } : Rec))
  match op.lanes.filterMap fun l => match s.badSource r l.2.2 with
    | .inr _ => rec_ l Code.machineCheck
    | .inl (some .permission) => rec_ l Code.permission
    | .inl (some .pageFault) => rec_ l Code.pageFault
    | .inl _ => none with
  | x :: q => .error (.faults (x :: q))
  | [] => match op.lanes.find? fun l => match s.badSource r l.2.2 with | .inl (some .migrating) => true | _ => false with
    | some l => .error (.mig (BitVec.ofNat 54 (va54 l.2.2)))
    | none => .ok (op.lanes.map fun l => ((s.readVirt r.ctx (va54 l.2.2) (2 ^ r.lgs - 8)).1).getD [])

/-- The results of an RPOP (R353): 4 bytes of its own record for each lane, or 8 bytes for every member's scalar. -/
def State.popResults (s : State) (op : RingOp) (r : Ring) (c : Nat) : State :=
  let word := fun (j n : Nat) => (((s.readVirt r.ctx (r.slot (c + j) + 8) n).1.map numOf).getD 0)
  if op.scalar then s.fillScalars op.dst (BitVec.ofNat 64 (word 0 8)) op.wins
  else
    let out := (List.range op.lanes.length).map fun j => (op.lanes.getD j (0, 0, 0), BitVec.ofNat 32 (word j 4))
    op.wins.foldl (fun (s : State) (m : Nat × Nat) => s.updWarp m.1 fun w =>
      w.fillWindow m.2 [.vec op.dst ((out.filter fun x => x.1.1 = m.1).map fun x => (x.1.2.1, x.2))]) s

/-- The accesses of a ring instruction as it is tried: address, bytes, whether it writes (R352 to R354). -/
def State.ringTouches (s : State) (op : RingOp) : List (Nat × Nat × Bool) :=
  let slots := fun (r : Ring) (t k : Nat) (w : Bool) => (List.range k).map fun j => (r.slot (t + j), 2 ^ r.lgs, w)
  let k := if op.scalar then 1 else op.lanes.length
  (va54 op.header, 128, false) :: match s.readRing (s.block op.blk).ctx op.header with
    | .ok r _ => match op.kind with
      | .push => op.lanes.map (fun l => (va54 l.2.2, 2 ^ r.lgs - 8, false)) ++ (if r.room k then slots r r.tail k true else [])
      | .svc => if r.room 1 then slots r r.tail 1 true else []
      | .pop => slots r (r.cursors.getD op.cursor 0) k false
      | .data => slots r op.seq.toNat 1 false
      | .room => []
    | _ => []

/-- The first access of a ring instruction that meets a format window which is off (R319): its address, whether it writes, and the
physical address. -/
def State.ringWindow (s : State) (op : RingOp) : Option (Nat × Bool × Nat) :=
  if op.windowed || s.windows.all (fun (e : Nat × FmtWindow) => e.2.on) then none
  else (s.ringTouches op).findSome? fun x => (List.range ((x.1 % 64 + x.2.1 + 63) / 64)).findSome? fun i =>
    match s.translateEngine (s.block op.blk).ctx ((if i = 0 then x.1 else x.1 / 64 * 64 + 64 * i) % 2 ^ 54) (if x.2.2 then .write else .read) with
    | .ok pa => if s.windowOff pa then some (x.1, x.2.2, pa) else none
    | _ => none

/-- Raises FORMAT_WINDOW for a ring instruction, once (R319). -/
def State.ringHold (s : State) (op : RingOp) : State :=
  match s.ringWindow op with
  | some (va, w, pa) => s.holdWindow op.blk (BitVec.ofNat 64 (s.chip * 2 ^ 54 + va)) w pa
  | none => s

/-- A ring instruction that has raised FORMAT_WINDOW where it had to. -/
def RingOp.held (op : RingOp) (s : State) : RingOp := { op with windowed := op.windowed || (s.ringWindow op).isSome }

/-- A ring instruction tried with its header as it stands (R352 to R354, R358). -/
def State.tryRing (s : State) (op : RingOp) : RingTry :=
  let b := s.block op.blk
  match s.readRing b.ctx op.header with
  | .invalid => .fault { code := Code.ringInvalid }
  | .error => op.bad Code.machineCheck op.header
  | .fault t => op.trans op.header t
  | .ok r s =>
    let k := if op.scalar then 1 else op.lanes.length
    match op.kind with
    | .push =>
      if 2 ^ r.lgn < k then .fault { code := Code.ringInvalid }
      else match s.sources op r with
        | .error x => x
        | .ok ps => s.pushRecords op r ps
    | .svc => if 2 ^ r.lgs - 8 < op.payload.length then .fault { code := Code.ringInvalid } else s.pushRecords op r [op.payload]
    | .pop =>
      if 2 ^ r.lgn < k || r.ncons ≤ op.cursor then .fault { code := Code.ringInvalid }
      else
        let c := r.cursors.getD op.cursor 0
        let at_ := r.header + 0x40 + 8 * op.cursor
        match s.badSlot op r c k .read with
        | some x => x
        | none =>
          if !(List.range k).all fun j => s.slotSeq r (c + j) = c + j then .wait
          else match (s.popResults op r c).writeVirt r.ctx at_ (bytesOf 8 ((c + k) % 2 ^ 64)) with
            | none => op.trans (BitVec.ofNat 64 (s.chip * 2 ^ 54 + at_)) (s.translateEngine r.ctx at_ .write)
            | some s => .done (s.stampWord r.ctx at_ (some op.clock))
    | .data =>
      match s.badSlot op r op.seq.toNat 1 .read with
      | some x => x
      | none => if s.slotSeq r op.seq.toNat = op.seq.toNat then .done s else .wait
    | .room => if op.seq.toNat < r.minCursor + 2 ^ r.lgn then .done s else .wait

/-- The published floor of a grid as an external wake's clock (R374): while none is published, or none holds, the largest clock
of the grid's warps. -/
def State.floorClock (s : State) (b : Block) : DWord :=
  match (s.ctx b.ctx).floors.find b.grid with
  | some (some f) => f
  | _ => s.warps.foldl (fun (m : DWord) (e : Nat × Warp) =>
      let x := s.block e.2.blk
      if x.ctx = b.ctx && x.grid = b.grid && m.ult e.2.lclk then e.2.lclk else m) 0

/-- The words that a waiting ring instruction awaited (R374): the slots' sequences, or the lowest cursors. -/
def State.ringSpots (_s : State) (op : RingOp) (r : Ring) : List Nat :=
  match op.kind with
  | .pop =>
    let c := r.cursors.getD op.cursor 0
    (List.range (if op.scalar then 1 else op.lanes.length)).map fun j => r.slot (c + j)
  | .data => [r.slot op.seq.toNat]
  | _ => ((List.range r.ncons).filter fun i => r.cursors.getD i 0 = r.minCursor).map fun i => r.header + 0x40 + 8 * i

/-- The clock of a ring wake (R374): the largest clock of the release stores that were awaited, or, where the host or the porter
wrote there, the published floor. -/
def State.ringWake (s : State) (op : RingOp) : DWord :=
  let b := s.block op.blk
  match s.readRing b.ctx op.header with
  | .ok r _ =>
    let cs := (s.ringSpots op r).map fun va => match s.translateEngine b.ctx va .read with
      | .ok pa => s.ringClock.find (pa / 8)
      | _ => none
    if cs.any Option.isNone then s.floorClock b
    else cs.foldl (fun (m : DWord) (x : Option DWord) => match x with | some c => if m.ult c then c else m | none => m) 0
  | _ => s.floorClock b

/-- A pinned group whose lanes no longer hold one PC ends (R128). -/
def Warp.keepPin (w : Warp) (W : Nat) : Warp :=
  match members W (w.pin &&& w.live) with
  | [] => w
  | i :: r => if r.all fun j => w.pc j = w.pc i then w else { w with pin := 0 }

/-- Whether a warp that is to go off-core still waits for a result (R135, R303): not for that of a PATOM (R348), nor for what its parked
lanes wait for. -/
def State.resultsOwed (s : State) (wid : Nat) : Bool :=
  (s.warp? wid).any fun w => w.windows.any fun x => !x.ready && !x.done && !x.patom && !(x.vregs.isEmpty && x.sregs.isEmpty && x.kregs.isEmpty)
    && !w.allParks.any fun p => s.owedToPark w.blk wid x.id p.place

/-- The warp is parked off-core with its request's sequence: the results that have come are delivered, its record, its registers and its
block's shared sections go to the block's image once its stores are performed (R264), and a BLOCK event is ordered (R307, R358). -/
def State.goOffcore (s : State) (wid t : Nat) : State :=
  let s := s.aliasDone.flushWarp wid
  match s.warp? wid with
  | none => s
  | some w =>
    let b := s.block w.blk
    let base := s.imageBase b.ctx w.blk
    let w := { w.keepPin b.width with offcore := some (BitVec.ofNat 64 t) }
    let entries := ((s.core b.core).mq ++ (s.core b.core).mwait).filter fun e => e.blk = w.blk
    (((s.setWarp wid w).writeImageWarp base b w).writeImageShared base b entries).originate 3 b.ctx
      (mkBody [(0, 2, b.grid), (2, 1, w.index), (4, 4, b.bid), (8, 8, t)])

/-- The tail of a ring, as the next claim takes it. -/
def State.ringTail (s : State) (op : RingOp) : Nat :=
  match s.readRing (s.block op.blk).ctx op.header with
  | .ok r _ => r.tail
  | _ => 0

/-- What follows a ring instruction that has been performed: SVC's warps leave the core. -/
def State.afterRing (s : State) (op : RingOp) (t : Nat) : State :=
  if op.kind = .svc then op.warps.foldl (fun (s : State) (m : Nat × Lanes) => s.goOffcore m.1 t) s else s

/-! ## Issue -/

/-- The operands of a ring instruction. -/
def Cx.ringOp (cx : Cx) (s : State) (kind : RingKind) (header : DWord) : RingOp :=
  { id := 0, blk := cx.blk, kind := kind, header := header, scalar := cx.S, dst := cx.e.dst.toNat, warps := cx.parts.map fun p => (p.wid, p.lanes), pc := cx.pc, len := cx.len, scope := scopeByte cx.e, members := s.memberMask cx, clock := cx.parts.foldl (fun (m : DWord) (p : Part) => if m.ult p.clock then p.clock else m) 0 }

/-- A ring instruction at its issue: performed, parked as RWAIT (R351), or faulting. SVC moves the participating lanes only (R358), waits
for room among the events (R282), and for the results that are owed to its warp (R135). -/
def Cx.ring (cx : Cx) (s : State) (op : RingOp) (dest : Bool) : Eff :=
  let (id, s) := s.draw
  let (wins, s) := if dest then cx.openAll s cx.parts else ([], s)
  let op := { op with id := id, wins := wins }
  let off := (s.ringWindow op).isSome
  let (op, s) := (op.held s, s.ringHold op)
  let t := s.ringTail op
  match s.tryRing op with
  | .done u =>
    let u := u.countCore (coreOf cx.wid) 57
    if op.kind != .svc then .ok u
    else if s.originFull || op.warps.any (fun m => s.resultsOwed m.1) then .stall
    else .jumped (((u.chargeNet cx).advance { cx with parts := cx.parts.map fun p => { p with sel := p.lanes } }).afterRing op t)
  | .wait => .held (if op.kind = .svc then cx.parkOnly s (.ring op) else cx.parkAll s (.ring op))
  | .faults l => .faults l
  | .fault r => cx.faultAfter off s r
  | .mig va => .mig va

/-- RPUSH's effect (R352): the lanes' sources are checked by R230, then the ring. -/
def effRpush (cx : Cx) (s : State) : Eff :=
  cx.noShadow s <|
    let lanes := cx.netLanes s (!cx.S)
    let checks := lanes.map fun l => (l, s.checkGlb (coreOf l.wid) (cx.block s).ctx 8 .read false l.b.toNat)
    match (checks.filterMap fun x => match x.2 with | .bad code => some (netRec code x.1 8 (some x.1.b)) | _ => none) with
    | r :: rs => .faults (r :: rs)
    | [] => match (checks.findSome? fun x => match x.2 with | .mig va => some va | _ => none) with
      | some va => .mig va
      | none => cx.ring s { cx.ringOp s .push (cx.sval s cx.e.a.toNat) with lanes := lanes.map fun l => (l.wid, l.lane, l.b) } false

/-- RPOP's effect (R353). -/
def effRpop (cx : Cx) (s : State) : Eff :=
  cx.noShadow s <| cx.ring s { cx.ringOp s .pop (cx.sval s cx.e.a.toNat) with
    cursor := cx.m % 8
    lanes := cx.parts.flatMap fun p => (cx.lanesOf p).map fun l => (p.wid, l, 0) } true

/-- RWAIT's effect (R354). -/
def effRwait (cx : Cx) (s : State) : Eff :=
  cx.noShadow s <| cx.ring s { cx.ringOp s (if cx.m % 2 = 1 then .room else .data) (cx.sval s cx.e.a.toNat) with
    seq := cx.sval s cx.e.b.toNat } false

/-- RCUR's effect (R354). -/
def effRcur (cx : Cx) (s : State) : Eff :=
  cx.noShadow s <|
    let a := cx.sval s cx.e.a.toNat
    let op := cx.ringOp s .room a
    let off := (s.ringWindow op).isSome
    let s := s.ringHold op
    let x := s.readRing (cx.block s).ctx a
    match cx.headerFault a x, x with
    | some (.fault r), _ => cx.faultAfter off s r
    | some e, _ => e
    | none, .ok r s =>
      let i := cx.m % 8
      if r.ncons ≤ i then cx.faultAfter off s { code := Code.ringInvalid }
      else
        let c := r.cursors.getD i 0
        .ok (cx.emitScalar s cx.e.dst.toNat (match cx.m / 8 % 4 with
          | 0 => BitVec.ofNat 64 c
          | 1 => s.slotAddr r c
          | _ => BitVec.ofNat 64 r.tail))
    | none, _ => .ok s

/-- The payload of an SVC request (R358). -/
def Cx.svcPayload (cx : Cx) (s : State) (p : Part) : List Byte :=
  let b := cx.block s
  let w := s.warpD p.wid
  let ls := cx.lanesOf p
  bytesOf 2 p.wid ++ bytesOf 1 w.index ++ bytesOf 1 ls.length ++ bytesOf 4 b.bid ++ bytesOf 8 p.lanes.toNat ++ bytesOf 2 b.grid
    ++ bytesOf 2 s.chip ++ bytesOf 1 b.ctx ++ bytesOf 3 0 ++ bytesOf 8 cx.pc.toNat
    ++ ls.flatMap fun l => (List.range 8).flatMap fun i => bytesOf 4 (w.vget (cx.e.a.toNat + i) l).toNat

/-- SVC's effect (R358): the claim, the payload, then the warp leaves the core. -/
def effSvc (cx : Cx) (s : State) : Eff :=
  cx.noShadow s <| match cx.parts with
    | [] => .ok s
    | p :: _ => cx.ring s { cx.ringOp s .svc (cx.sval s 62) with scalar := true, payload := cx.svcPayload s p } false

/-! ## Waiting lanes (R351) -/

/-- Whether a parking place is that of a ring instruction. -/
def Park.isRing (id : Nat) (p : Park) : Bool :=
  match p.place with
  | .ring r => r.id = id
  | _ => false

/-- The ring instructions that wait, of warps on the core, in the order of their issues. -/
def State.waitingRings (s : State) : List RingOp :=
  ((s.warps.flatMap fun (e : Nat × Warp) => if e.2.offcore.isSome then [] else e.2.allParks.filterMap fun p => match p.place with
    | .ring op => some op
    | _ => none).foldl (fun (m : Map RingOp) (op : RingOp) => m.set op.id op) []).map (·.2)

/-- Takes the fault of a waiting ring instruction. -/
def State.failRing (s : State) (op : RingOp) (lanes : List (Nat × Rec)) (whole : Option Rec) : State :=
  let t := s.failPark (Park.isRing op.id) op.warps op.wins op.pc op.scope op.members lanes whole
  if lanes.any (fun x => x.2.code = Code.machineCheck) && !t.warps.any (fun (e : Nat × Warp) => e.2.allParks.any (Park.isRing op.id)) then
    t.orderMachineCheck op.blk ((op.warps.head?.map (·.1)).getD 0)
  else t

/-- A waiting ring instruction changed in place. -/
def Warp.reRing (w : Warp) (op : RingOp) : Warp :=
  let g := fun (p : Park) => if p.isRing op.id then { p with place := .ring op } else p
  { w with parks := w.parks.map g, frame := w.frame.map fun x => { x with parks := x.parks.map g } }

/-- The state with a waiting ring instruction changed. -/
def State.setRing (s : State) (op : RingOp) : State := { s with warps := s.warps.map fun (e : Nat × Warp) => (e.1, e.2.reRing op) }

/-- A waiting ring instruction tried again (R351). One that waits for a migrating page is tried when its migration has ended (R315), one with
a member off-core when that returns (R359). -/
def State.retryRing (s : State) (op : RingOp) : State :=
  if !(s.warps.any fun (e : Nat × Warp) => e.2.allParks.any (Park.isRing op.id)) || s.awayMember op.warps || op.mig.isSome then s
  else
    let (op, s) := if (s.ringWindow op).isSome then (op.held s, (s.ringHold op).setRing (op.held s)) else (op, s)
    let t := s.ringTail op
    match s.tryRing op with
    | .done u =>
      if op.kind = .svc && (s.originFull || op.warps.any fun m => s.resultsOwed m.1) then s
      else (((u.countCore (coreOf ((op.warps.head?.map (·.1)).getD 0)) 57).releaseWhere (s.ringWake op) fun _ _ p => p.isRing op.id)).afterRing op t
    | .faults l => s.failRing op l none
    | .fault r => s.failRing op [] (some r)
    | .mig va => s.setRing { op with mig := some va }
    | .wait => s

/-- Every waiting ring instruction tried again. -/
def State.retryRings (s : State) : State := s.waitingRings.foldl State.retryRing s

/-- RPUSH (R352). -/
def execRpush (e : Enc) (s : State) : Host.Outcome State Fault Refusal := s.runLong .rpush e effRpush
/-- RPOP (R353). -/
def execRpop (e : Enc) (s : State) : Host.Outcome State Fault Refusal := s.runLong .rpop e effRpop
/-- RWAIT (R354). -/
def execRwait (e : Enc) (s : State) : Host.Outcome State Fault Refusal := s.runLong .rwait e effRwait
/-- RCUR (R354). -/
def execRcur (e : Enc) (s : State) : Host.Outcome State Fault Refusal := s.runLong .rcur e effRcur
/-- SVC (R358). -/
def execSvc (e : Enc) (s : State) : Host.Outcome State Fault Refusal := s.runLong .svc e effSvc

end Sys2Proof.Machine
end

