-- ==== Sys2Proof/Machine/System.lean ====
section
/-!
DEFINITION. System instructions: class 14 but for SVC (R355 to R357, R360 to R363), and the check of a launch record (R145).
-/

namespace Sys2Proof.Machine

/-! ## The launch record's check (R145) -/

/-- A register budget that R125 allows. -/
def budgetOk (n j : Nat) : Bool := n % 8 = 0 && 8 ≤ n && n ≤ 512 && 8 + j ≤ n

/-- The valid roles of a record, by role index. -/
def validRoles (r : Attach) : List (Nat × Nat × Nat × Nat) :=
  ((List.range 4).filter fun i => (roleOf r i).1).map fun i => (i, (roleOf r i).2)

/-- Whether the roles of a record keep R125 and R145. -/
def rolesOk (r : Attach) : Bool :=
  let j := recField r 0x2E 1
  let nw := recField r 0x2D 1
  budgetOk (recField r 0x30 2) j
    && (validRoles r).all fun (i, n, set, mask) =>
      budgetOk n j && mask != 0 && mask < 2 ^ nw && mask = setMask r set
        && (validRoles r).all fun (k, _, set', mask') => i = k || (set != set' && Nat.land mask mask' = 0)

/-- Whether a declared pool keeps R143. -/
def poolOk (p : Pool) : Bool :=
  !p.valid || (2 ^ 10 ≤ p.size && p.size ≤ 2 ^ 18 && 1 ≤ p.count && p.count ≤ 2048 && p.offset % p.size = 0
    && p.quotas.foldl (· + ·) 0 ≤ p.count)

/-- The regions of a record's partition: start and end. -/
def regionsOf (r : Attach) : List (Nat × Nat) :=
  let plain := recField r 0x90 4
  [(0, plain), (plain, plain + recField r 0x94 4 * recField r 0x2D 1 * widthOf (recField r 0x2C 1))]
    ++ (List.range 8).filterMap fun i =>
      let p := poolOf r i
      if p.valid then some (p.offset, p.offset + p.count * p.size) else none

/-- Whether no two regions of a list meet. -/
def disjointAll : List (Nat × Nat) → Bool
  | [] => true
  | x :: r => r.all (fun y => max x.1 y.1 ≥ min x.2 y.2) && disjointAll r

/-- Whether an edge field names an edge or none. -/
def edgeOk (e : Nat) : Bool := e < 4096 || e = 0xFFFF

/-- Blocks of a grid. -/
def gridBlocks (r : Attach) : Nat := recField r 0x20 4 * recField r 0x24 4 * recField r 0x28 4

/-- Whether a launch record passes every check of R145. -/
def recordValid (r : Attach) : Bool :=
  let addrOk := fun (o : Nat) => recField r o 8 % 4 = 0 && recField r o 8 < 2 ^ 54
  let extOk := fun (o : Nat) => 1 ≤ recField r o 4 && recField r o 4 ≤ 2 ^ 21
  let nw := recField r 0x2D 1
  let mode := recField r 4 4
  recField r 0 4 = 1 && addrOk 8 && addrOk 0x10 && extOk 0x20 && extOk 0x24 && extOk 0x28 && gridBlocks r ≤ 2 ^ 32
    && recField r 0x2C 1 ≤ 2 && 1 ≤ nw && nw ≤ 32 && recField r 0x2E 1 ≤ 16 && rolesOk r
    && (List.range 8).all (fun n => setMask r n < 2 ^ nw)
    && footprint r ≤ 2 ^ 20 && partitionSize r ≤ 2 ^ 21 && disjointAll (regionsOf r)
    && (List.range 8).all (fun i => poolOk (poolOf r i))
    && recField r 0x180 128 != 0
    && (mode / 8 % 2 = 0 || mode / 4 % 2 = 1)
    && (mode / 4 % 2 = 0 || recField r 0xB0 4 = gridBlocks r)
    && edgeOk (recField r 0xA4 2) && edgeOk (recField r 0xA6 2)
    && (recField r 0xA0 4 = 0 || recField r 0x98 8 != 0)
    && recField r 0x90 4 % 64 = 0 && recField r 0x94 4 % 4 = 0

/-! ## LAUNCH and EVSUB (R355, R357) -/

/-- n 64-byte sectors from an address of the issuing warp's context on, each translated for itself (R140, R311), or the fault: an access of 64
bytes (R271). The first sector of a format window that is off raises FORMAT_WINDOW (R319); `off` says that one has. -/
def Cx.readSectors (cx : Cx) (s : State) (a : DWord) (off : Bool) : Nat → Except Eff (List Byte × Bool × State)
  | 0 => .ok ([], off, s)
  | n + 1 =>
    let ctx := (cx.block s).ctx
    let bad := fun (code : Nat) => Except.error (cx.scalarFault code 64 (some a))
    match s.translate (coreOf cx.wid) ctx (va54 a) .read with
    | .migrating => .error (.mig (BitVec.ofNat 54 (va54 a)))
    | .permission => bad Code.permission
    | .pageFault => bad Code.pageFault
    | .ok pa =>
      if s.locError (some (coreOf cx.wid)) 64 (.glb pa) then bad Code.machineCheck
      else
        let (bs, s) := ((if off then s else s.holdWindow cx.blk a false pa).tlbFill (coreOf cx.wid) ctx (va54 a)).loadGlb pa 64
        match Cx.readSectors cx s (a + 64) (off || s.windowOff pa) n with
        | .error e => .error e
        | .ok (r, o, s) => .ok (bs ++ r, o, s)

/-- The number of n sectors at a pod address of the chip that is a multiple of 64 (R145, R357), and whether it was read through a format window
that is off (R319), or the fault. -/
def Cx.readRecord (cx : Cx) (s : State) (a : DWord) (n : Nat) : Except Eff (Nat × Bool × State) :=
  if chipField a != s.chip || a.toNat % 64 != 0 then .error (.fault { code := Code.launchInvalid })
  else match cx.readSectors s a false n with
    | .error e => .error e
    | .ok (bs, off, s) => .ok (numOf bs, off, s)

/-- The n little-endian 8-byte words of a number. -/
def wordsOf64 (x : Nat) : Nat → List DWord
  | 0 => []
  | n + 1 => BitVec.ofNat 64 x :: wordsOf64 (x / 2 ^ 64) n

/-- The record digest (R283). -/
def recordDigest (r : Attach) : DWord := foldWords (wordsOf64 r.toNat 64)

/-- Keeps the outcomes of the last 256 LAUNCHes of a control core (R356); 0 marks one without an outcome. -/
def Control.launched (c : Control) (v : Word) : Control :=
  { c with commands := c.commands + 1, outcomes := (c.outcomes ++ [(v, 0, 0)]).drop (c.outcomes.length - 255) }

/-- LAUNCH's effect (R355). -/
def effLaunch (cx : Cx) (s : State) : Eff :=
  cx.noShadow s <|
    let a := cx.sval s cx.e.a.toNat
    let ctx := (cx.block s).ctx
    let cc := controlOf (coreOf cx.wid)
    if !s.isMember then .stall
    else match cx.readRecord s a 8 with
      | .error e => e
      | .ok (n, off, s) =>
        if !recordValid (BitVec.ofNat 4096 n) then cx.faultAfter off s { code := Code.launchInvalid }
        else if s.originFull then .stall
        else
          let v := (s.controls.get {} cc).commands
          let site := cx.pc.toNat + (s.chip + cc * 2 ^ 10) * 2 ^ 64 + v.toNat * 2 ^ 96
          let r : Attach := BitVec.ofNat 4096 (setField n 0x40 16 site)
          match s.translate (coreOf cx.wid) ctx (va54 a + 0x40) .write with
          | .migrating => .mig (BitVec.ofNat 54 (va54 a))
          | .ok pa =>
            let s := (s.storeGlb pa (bytesOf 16 site)).updControl cc fun c => c.launched v
            .ok (s.originate 1 ctx (mkBody [(0, 1, 2), (8, 8, a.toNat), (0x10, 8, (recordDigest r).toNat)]) (some r))
          | x => cx.scalarFault (if x = .permission then Code.permission else Code.pageFault) 16 (some (a + 0x40))

/-- Whether EVSUB accepts a message (R357). -/
def evsubOk (m : Msg) (ctx : Nat) : Bool :=
  let kind := bodyField m 0 1
  msgCtx m = ctx && msgField m 8 8 / 2 ^ 62 = 0 && msgField m 0x38 4 = 0
    && ((msgType m = 1 && (kind = 1 || kind = 5)) || msgType m = 9 || msgType m = 10)

/-- EVSUB's effect (R357). -/
def effEvsub (cx : Cx) (s : State) : Eff :=
  cx.noShadow s <|
    let ctx := (cx.block s).ctx
    if !s.isMember then .stall
    else match cx.readRecord s (cx.sval s cx.e.a.toNat) 1 with
      | .error e => e
      | .ok (n, off, s) =>
        let m : Msg := BitVec.ofNat 512 n
        if !evsubOk m ctx then cx.faultAfter off s { code := Code.launchInvalid } else if s.originFull then .stall else .ok (s.originate (msgType m) ctx (bodyField m 0 40))

/-! ## EVWAIT (R356) -/

/-- The outcome of a LAUNCH by its number (R356): recorded, or 4 for one older than the last 256; none while it is open or its
number has not been taken. -/
def Control.outcome (c : Control) (seq : Word) : Option DWord :=
  match c.outcomes.reverse.find? fun x => x.1 = seq with
  | some (_, st, v) => if st = 0 then none else some v
  | none => if c.commands != seq && (c.commands - seq).toNat ≤ 2 ^ 31 then some 4 else none

/-- EVWAIT's effect (R356). -/
def effEvwait (cx : Cx) (s : State) : Eff :=
  let a := cx.sval s cx.e.a.toNat
  let kind := a.toNat / 2 ^ 56
  let park := fun (_ : Unit) =>
    match cx.openAll s cx.parts with
    | ((_, win) :: _, s) => Eff.held (cx.parkAll s (.evwait a cx.e.dst.toNat win))
    | ([], s) => Eff.ok s
  if kind = 1 then
    match (s.controls.get {} (controlOf (coreOf cx.wid))).outcome (lo32 a) with
    | some v => .ok (cx.emitScalar s cx.e.dst.toNat v)
    | none => park ()
  else if kind = 2 then park ()
  else .fault { code := Code.launchInvalid }

/-! ## Time, queries and digests (R360 to R363) -/

/-- TIME's and CLK's result: a scalar, or a pair in every participating lane (R360). -/
def Cx.emitTime (cx : Cx) (s : State) (x : DWord) : Eff :=
  .ok (if cx.S then cx.emitScalar s cx.e.dst.toNat x else cx.emit s 0 fun p _ => cx.pairWrite p cx.e.dst.toNat fun _ => x)

/-- TIME's effect (R360). -/
def effTime (cx : Cx) (s : State) : Eff := cx.emitTime s (BitVec.ofNat 64 (s.ptimeOf (cx.block s)))

/-- CLK's effect (R360): the cycle count, or in D-mode the instructions that the warp retired before it. -/
def effClk (cx : Cx) (s : State) : Eff := cx.emitTime s (if cx.dmode then (match cx.parts with | p :: _ => p.clock | [] => 0) else s.cycle)

/-- Whether a grid row is live (R290). -/
def GridSt.live : GridSt → Bool
  | .waiting | .admitted | .running => true
  | _ => false

/-- The live grids of a context row. -/
def Tables.liveGrids (t : Tables) (row : Nat) : Nat := (t.grids.filter fun e => e.2.st.live && e.2.ctxRow = row).length

/-- CTXQ's value (R361). -/
def Cx.query (cx : Cx) (s : State) (n : Nat) : Nat :=
  let ctx := (cx.block s).ctx
  let c := s.ctx ctx
  match n with
  | 0 => ctx + c.gen * 2 ^ 16
  | 1 => c.prio % 8 + (if c.dmode then 2 ^ 8 else 0) + (if c.detect then 2 ^ 9 else 0) + (if c.suspended then 2 ^ 10 else 0) + c.slice * 2 ^ 32
  | 2 => s.chip + s.hytur.tables.view.length * 2 ^ 16
  | 3 => (s.controls.get {} (controlOf (coreOf cx.wid))).commands.toNat
  | 4 => 8192 - s.posted.length
  | 5 => s.hytur.tables.liveGrids (c.gen * 64 + ctx)
  | 6 => s.hytur.delivered
  | _ => s.hytur.tables.position

/-- CTXQ's effect (R361). -/
def effCtxq (cx : Cx) (s : State) : Eff := .ok (cx.emitScalar s cx.e.dst.toNat (BitVec.ofNat 64 (cx.query s cx.e.a.toNat)))

/-- DGREAD's effect (R362). -/
def effDgread (cx : Cx) (s : State) : Eff :=
  let b := cx.block s
  .ok (cx.emitScalar s cx.e.dst.toNat (match cx.e.a.toNat with
    | 0 => if b.folds then b.digest else 0
    | 1 => (s.hytur.tables.grids.get {} b.grid).digest
    | 2 => s.hytur.tables.sd
    | _ => BitVec.ofNat 64 s.hytur.tables.position))

/-- HALT's effect (R363, R403): under a claim the block stops behind the HALT; otherwise BREAKPOINT, resumed behind it. -/
def effHalt (cx : Cx) (s : State) : Eff :=
  match cx.parts with
  | [] => .ok s
  | p :: _ =>
    if (s.warpD p.wid).frame.isSome then .fault { code := Code.breakpoint, info := 0x200 }
    else if (s.ctx (cx.block s).ctx).claim.isSome then
      let t := s.advance cx
      .jumped (t.warpHit p.wid 4 0 (((t.warpD p.wid).selectedPc cx.W).getD cx.next) false)
    else cx.raise s Code.breakpoint 0x200

/-- LAUNCH (R355). -/
def execLaunch (e : Enc) (s : State) : Host.Outcome State Fault Refusal := s.runLong .launch e effLaunch
/-- EVSUB (R357). -/
def execEvsub (e : Enc) (s : State) : Host.Outcome State Fault Refusal := s.runLong .evsub e effEvsub
/-- EVWAIT (R356). -/
def execEvwait (e : Enc) (s : State) : Host.Outcome State Fault Refusal := s.runLong .evwait e effEvwait
/-- TIME (R360). -/
def execTime (e : Enc) (s : State) : Host.Outcome State Fault Refusal := s.runLong .time e effTime
/-- CLK (R360). -/
def execClk (e : Enc) (s : State) : Host.Outcome State Fault Refusal := s.runLong .clk e effClk
/-- CTXQ (R361). -/
def execCtxq (e : Enc) (s : State) : Host.Outcome State Fault Refusal := s.runLong .ctxq e effCtxq
/-- HALT (R363). -/
def execHalt (e : Enc) (s : State) : Host.Outcome State Fault Refusal := s.runLong .halt e effHalt
/-- DGREAD (R362). -/
def execDgread (e : Enc) (s : State) : Host.Outcome State Fault Refusal := s.runLong .dgread e effDgread

end Sys2Proof.Machine
end

