-- ==== Sys2Proof/Machine/Engine.lean ====
section
/-!
DEFINITION. Steps of the engines around a core: results that arrive, faults that are delivered, itinerary copies, format-window
sectors, ordered operations and their floor, and engine producers of rings.
-/

namespace Sys2Proof.Machine

/-! ## Results and faults of a warp -/

/-- A result that has come is written to its destinations (R135); a warp that waited for it goes on, and WAITs whose mask it wrote
are tested (R155). For a warp off-core it waits for the warp's return (R359). -/
def State.deliver (s : State) (wid id : Nat) : State :=
  match s.warp? wid with
  | none => s
  | some w =>
    match w.windows.find? fun x => x.id = id && x.ready && !x.done && w.offcore.isNone with
    | none => s
    | some x =>
      let W := (s.block w.blk).width
      let s := (s.updWarp wid fun w => (w.takeResult W id).endWait W id).cleanRegs wid x.writes
      s.testWaits wid

/-- LONG_LATENCY_RESULT (R135): the delivery of a result. -/
def execLongLatencyResult (wid id : Nat) (s : State) : Host.Outcome State Fault Refusal := .next (s.deliver wid id)

/-- A fault of the issuing warp at its selected group that is found before the instruction is known (R46, R47). -/
def State.fetchFault (s : State) (code : Nat) (addr : Option DWord) : State :=
  match s.cur with
  | none => s
  | some wid => match s.warp? wid, s.nextPc wid with
    | some w, some (pc, _) =>
      let t := s.updWarp wid fun w => { w with lclk := w.lclk + 1, pass := none }
      t.unlessHeld s [wid] (t.enterTrap wid pc [{ code := code, pc := BitVec.ofNat 64 pc.toNat, addr := addr, lanes := w.selected (s.block w.blk).width }])
    | _, _ => s

/-- INSTR_FETCH (R47, R312): the fetch of the issuing warp fails at an address. -/
def execInstrFetch (addr : Addr54) (s : State) : Host.Outcome State Fault Refusal :=
  .next (s.fetchFault Code.instrFetch (some (BitVec.ofNat 64 (s.chip * 2 ^ 54 + addr.toNat))))

/-- ILLEGAL_INSTRUCTION (R46): the issuing warp meets a pattern that is no instruction. -/
def execIllegalInstruction (s : State) : Host.Outcome State Fault Refusal := .next (s.fetchFault Code.illegal none)

/-- ASYNC_FAULT_DELIVERY (R433). -/
def execAsyncFaultDelivery (blk : Nat) (s : State) : Host.Outcome State Fault Refusal := .next (s.deliverAsync blk)

/-! ## Itinerary copies (R184 to R187) -/

/-- A 32-bit field of an entry as a signed number. -/
def signedField (n off : Nat) : Int := (BitVec.ofNat 32 (fieldAt n off 4)).toInt

/-- Whether an entry alone breaks R184 or R187. R187 names an image larger than the tile; one that fits, but passes the tile's end from its
offset, is taken as such (assumption 61). -/
def Block.entryBad (b : Block) (n : Nat) : Bool :=
  let src := fieldAt n 0 8
  let kind := fieldAt n 0x2C 1
  let pool := fieldAt n 0x2D 1
  let part := fieldAt n 0x2F 1
  let rows := fieldAt n 0x1C 2
  let rowg := fieldAt n 0x1E 2
  let dst := fieldAt n 0x28 4
  let p := poolOf b.record pool
  let image := 64 * ((fieldAt n 0x30 2 + rows + fieldAt n 0x32 2) * (fieldAt n 0x34 2 + rowg + fieldAt n 0x36 2))
  src / 2 ^ 54 % 2 ^ 9 != 0 || src % 64 != 0 || rows = 0 || 4096 < rows || rowg = 0 || 4096 < rowg || fieldAt n 0x24 2 = 0
    || dst % 64 != 0 || 2 < kind || fieldAt n 0x38 8 != 0 || (kind != 2 && fieldAt n 0x30 8 != 0)
    || !(part ≤ 3 || part = 0xFF)
    || (if kind = 0 then pool != 0 || fieldAt n 0x2E 1 != 0 || b.plain < dst + image
        else 7 < pool || !p.valid || fieldAt n 0x2E 1 = 0
          || (p.part (if part = 0xFF then 4 else part)).2 = 0 || p.size < dst + image)

/-- ITINERARY_COPY_ISSUE (R177, R185, R186): the next copy of a block, once the stage counter allows it; a tile's copy asks for its
tile, and one whose tile has come issues as soon as it can. -/
def execItineraryCopyIssue (blk : Nat) (s : State) : Host.Outcome State Fault Refusal :=
  match s.block? blk with
  | none => .next s
  | some b =>
    if b.itinOff || b.waiting || b.itinWait.isSome then .next (s.issueTile blk)
    else match b.nextCopy with
      | none => .next s
      | some (stage, e, r) =>
        let n := b.itinEntry e
        let kind := fieldAt n 0x2C 1
        let clock := b.stageClock stage
        if b.stage < stage then .next s
        else if kind = 0 then
          let gs := (entryGranules n).map fun g => (b.pbase + fieldAt n 0x28 4) / 64 + g
          if gs.any fun g => 15 ≤ (s.core b.core).inflight.get 0 g then .next s
          else .next (((s.zeroPads b n (fieldAt n 0x28 4)).countCore b.core 53).startCopy blk e r (fieldAt n 0x28 4) (entryGranules n) clock)
        else
          let (id, s) := s.draw
          let part := fieldAt n 0x2F 1
          let s := s.updBlock blk fun b => { b with waiting := true }
          .next (s.joinWaiters blk (fieldAt n 0x2D 1 * 8 + (if part = 0xFF then 4 else part))
            { id := id, who := .copy e r, reads := fieldAt n 0x2E 1, clock := clock, index := 0 })

/-- The source address of a destination granule of a copy (R186). -/
def Block.copySource (b : Block) (n rep g : Nat) : Int :=
  let (x, y, z) := b.pos3
  let wide := fieldAt n 0x34 2 + fieldAt n 0x1E 2 + fieldAt n 0x36 2
  let i := g / wide - fieldAt n 0x30 2
  let k := g % wide - fieldAt n 0x34 2
  ((fieldAt n 0 8 % 2 ^ 54 : Nat) : Int) + 64 * ((x : Int) * signedField n 8 + y * signedField n 0xC + z * signedField n 0x10
    + rep * signedField n 0x14 + i * signedField n 0x18 + k)

/-- The address of a copy's source as a record gives it (R271, R273), and its space: a pod address, or the offset in the die window. -/
def State.copyAddr (s : State) (n : Nat) (a : Int) : DWord × Nat :=
  if fieldAt n 7 1 / 128 = 1 then (BitVec.ofInt 64 a, 3) else (BitVec.ofInt 64 (s.chip * 2 ^ 54 + a % 2 ^ 54), 0)

/-- A copy that has asked for a tile is not issued any more (R187): whoever waits behind it is served. -/
def State.dropAsked (s : State) (blk : Nat) : State :=
  let asks := fun (q : Waiter) => match q.who with | .copy _ _ => true | _ => false
  let parts := ((s.block blk).waiters.filter fun (e : Nat × List Waiter) => e.2.any asks).map (·.1)
  let s := s.updBlock blk fun b => { b with waiting := false, alloc := none, waiters := b.waiters.map fun (e : Nat × List Waiter) => (e.1, e.2.filter fun q => !asks q) }
  parts.foldl (fun (s : State) p => s.serveQueue blk p ((s.block blk).waiters.get [] p).length) s

/-- A copy ends at an error (R179, R187): what has not landed is written as zero and counted as landed, and no later copy issues. -/
def State.failCopy (s : State) (blk : Nat) (c : Copy) (f : AsyncFault) : State :=
  let b := s.block blk
  let lo := (b.pbase + c.base) / 64
  let s := s.hold blk f
  let s := s.updBlock blk fun b => { b with itinOff := true, copies := b.copies.filter fun x => x.id != c.id }
  let s := (s.dropAsked blk).watchAccess b.core 2 { kind := 2, core := b.core } (c.left.map fun g => (0xFF, 64 * (lo + g), 64))
  c.left.foldl (fun (s : State) g => (s.writeSpad b.core (64 * (lo + g)) (bytesOf 64 0)).landGranule blk b.core (lo + g) c.clock) s

/-- Where a copy reads a granule: a place, with the chunks that it has then touched (R315), or the page that it waits for; none where
translation fails (R187), or where the source leaves the context's die window or the 54-bit space (assumption 61). -/
def State.copyPlace (s : State) (b : Block) (n : Nat) (c : Copy) (a : Int) : Option (Loc × Map Nat ⊕ Addr54) :=
  if a < 0 || 2 ^ 54 ≤ a then none
  else if fieldAt n 7 1 / 128 = 1 then
    let (base, size) := (s.ctx b.ctx).diewin.getD (dieOf b.core) (0, 0)
    if a.toNat + 64 ≤ size * 65536 then some (.inl (.die (dieOf b.core * 2 ^ 25 + base * 65536 + a.toNat), c.chunks)) else none
  else
    let o := a.toNat % 65536
    match c.chunks.find (a.toNat / 65536) with
    | some base => some (.inl (.glb (base + o), c.chunks))
    | none => match s.translateEngine b.ctx a.toNat .read with
      | .ok pa => some (.inl (.glb pa, c.chunks.set (a.toNat / 65536) (pa - o)))
      | .migrating => some (.inr (BitVec.ofNat 54 a.toNat))
      | _ => none

/-- What follows the landing of a copy's granule: the copy's end, and whatever waits for it. -/
def State.afterLanding (s : State) (blk copy : Nat) : State :=
  let s := match (s.block blk).copies.find? fun x => x.id = copy with
    | some c => if c.left.isEmpty then (s.updBlock blk fun b => { b with copies := b.copies.filter fun x => x.id != copy }).finishWait copy else s
    | none => s.finishWait copy
  s.retryParked.retire blk

/-- ITINERARY_COPY_LANDING (R177, R186, R187): the 64 bytes of one granule of the oldest copy land: a block's copies are one engine
queue (R185, R261). -/
def execItineraryCopyLanding (blk copy granule : Nat) (s : State) : Host.Outcome State Fault Refusal :=
  match s.block? blk with
  | none => .next s
  | some b => match b.copies.head?.filter fun x => x.id = copy && x.left.contains granule with
    | none => .next s
    | some c =>
      let n := b.itinEntry c.entry
      let a := b.copySource n c.rep granule
      let g := (b.pbase + c.base) / 64 + granule
      let (addr, space) := s.copyAddr n a
      if c.mig.any fun x => (x.toNat : Int) / 65536 = a / 65536 then .next s
      else match s.copyPlace b n c a with
        | none => .next ((s.failCopy blk c { code := Code.itinerary, info := c.entry + c.rep * 2 ^ 16, addr := some addr, space := space }).afterLanding blk copy)
        | some (.inr va) => .next (s.updBlock blk fun b =>
            { b with copies := b.copies.map fun x => if x.id = copy then { x with mig := va :: x.mig } else x })
        | some (.inl (l, chunks)) =>
          if s.locError none 64 l then
            .next (((s.failCopy blk c { code := Code.machineCheck, addr := some addr, space := space }).orderMachineCheck blk 0xFFFF).afterLanding blk copy)
          else
            let s := match l with
              | .glb pa => (s.holdWindow blk addr false pa).crossLinks (l2Place (pa / 128)).1 (dieOf b.core) 1
              | _ => s
            let (bs, s) := s.readLoc 64 l
            let s := (s.writeSpad b.core (64 * g) bs).watchAccess b.core 2 { kind := 2, core := b.core } [(0xFF, 64 * g, 64)]
            let s := s.updBlock blk fun b =>
              { b with copies := b.copies.map fun x => if x.id = copy then { x with left := x.left.filter fun y => y != granule, chunks := chunks } else x }
            .next ((s.landGranule blk b.core g c.clock).afterLanding blk copy)

/-! ## Format windows (R318) -/

/-- ALIAS_SECTOR_WRITE (R318): the oldest write request of a window is performed. -/
def execAliasSectorWrite (window : Nat) (s : State) : Host.Outcome State Fault Refusal :=
  match s.aliasQ.find? fun r => r.window = window with
  | none => .next s
  | some r => .next (({ s with aliasQ := s.aliasQ.erase r }).performAlias r)

/-- ALIAS_SECTOR_READ (R318): a sector of a window that is on is decoded into the caches, after the requests to the window. -/
def execAliasSectorRead (window sector : Nat) (s : State) : Host.Outcome State Fault Refusal :=
  match s.windows.find window with
  | none => .next s
  | some w =>
    if !w.on || w.size * 1024 ≤ sector then .next s
    else
      let s := s.drainAlias
      .next { s with sectors := if s.sectors.contains (window, sector) then s.sectors else (window, sector) :: s.sectors }

/-! ## Ordered operations (R375, R376) -/

/-- Whether one ordered operation comes before another: by clock, block id, warp index and e (R376). -/
def Ordered.before (a b : Ordered) : Bool :=
  let key := fun (x : Ordered) => [x.clock.toNat, x.bid, x.index, x.acc.e]
  key a < key b

/-- The smallest of a list of ordered operations. -/
def firstOrdered : List Ordered → Option Ordered
  | [] => none
  | a :: r => match firstOrdered r with
    | some b => some (if b.before a then b else a)
    | none => some a

/-- The result of one lane of an ordered operation: its words join its window; the last lane makes the windows ready, or lets an
MRED's warps go on. -/
def State.orderedResult (s : State) (o : Ordered) (ws : List Word) : State :=
  let op := o.op
  let last := !s.ordered.any fun x => x.op.id = op.id
  match op.kind with
  | .atom code =>
    if 5 ≤ code then s.fillScalars op.dst (BitVec.ofNat 64 (wordsNum ws)) op.wins
    else
      let s := op.wins.foldl (fun (s : State) (m : Nat × Nat) =>
        if m.1 = o.acc.wid then s.updWarp m.1 fun w => w.addToWindow m.2 [.vec op.dst [(o.acc.lane, ws.getD 0 0)]] else s) s
      if last then op.wins.foldl (fun (s : State) (m : Nat × Nat) => s.updWarp m.1 fun w => w.fillWindow m.2 []) s else s
  | _ => if last then s.finishWait op.id else s

/-- Takes back the unperformed lanes of an issue (R378): its warps stand at the instruction, and wait for nothing; `counted` says whether the
issue keeps its count, or the clock returns to the operation's. -/
def State.withdraw (s : State) (op : MemOp) (counted : Bool := false) : State :=
  let s := { s with ordered := s.ordered.filter fun x => x.op.id != op.id }
  op.warps.foldl (fun (s : State) (m : Nat × Lanes) => s.updWarp m.1 fun w =>
    { w with
      waits := []
      fence := none
      lclk := if counted then w.lclk else (w.fence.map (·.clock)).getD w.lclk
      windows := w.windows.filter fun x => !op.wins.any fun y => y.2 = x.id }) s

/-- Performs one lane of an ordered operation. -/
def State.orderedLane (s : State) (o : Ordered) : State :=
  let s := { s with ordered := s.ordered.erase o }
  match o.op.kind with
  | .atom code =>
    let (ws, s) := s.atomLane o.op code o.acc
    s.orderedResult o ws
  | .mred code => (s.mredLane o.op code o.acc).orderedResult o []
  | _ => s

/-- An ordered issue faults before it is performed: it counts as an issue (R373), and its lanes stand at it. -/
def State.failOrdered (s : State) (op : MemOp) (lanes : List (Nat × Rec)) : State :=
  let t := (s.withdraw op true).enterAccess s op.warps op.pc op.scope op.members lanes none
  if t.ordered.any fun x => x.op.id = op.id then t else t.orderMachineCheck op.blk ((op.warps.head?.map (·.1)).getD 0)

/-- Performs an ordered operation (R376): its lanes at one performing point together, in ascending e, while every granule of the issue
is present (R178, R231). A read that meets an uncorrectable error faults the issue instead (R427): the whole issue, where no lane of it has
been performed. -/
def State.performOrdered (s : State) (o : Ordered) : State :=
  let mine := s.ordered.filter fun x => x.op.id = o.op.id
  let here := mine.filter fun x => x.point = o.point
  let part := { o.op with lanes := here.map (·.acc) }
  if !s.opPresent o.op then s
  else match s.opErrors (if mine.length = o.op.lanes.length then o.op else part) with
    | e :: l => s.failOrdered o.op (e :: l)
    | [] => here.foldl State.orderedLane ((s.opCells part).opWatch part)

/-- Serves every waiter queue of a core's pool unit whose head may be served (R376). -/
def State.servePools (s : State) (core : Nat) : State :=
  s.blocks.foldl (fun (s : State) (e : Nat × Block) =>
    if e.2.core = core then e.2.waiters.foldl (fun (s : State) (q : Nat × List Waiter) => s.serveQueue e.1 q.1 q.2.length) s else s) s

/-- Whether two ordered operations have one floor (R375, R377): those of one grid, those of one block that runs alone. -/
def State.sameFloor (s : State) (a b : Ordered) : Bool :=
  let x := s.block a.blk
  let y := s.block b.blk
  if x.alone || y.alone then a.blk = b.blk else x.ctx = y.ctx && x.grid = y.grid

/-- The smallest operation of each floor that has reached a performing point. -/
def State.firstsAt (s : State) (point : PerfPoint) : List Ordered :=
  let l := s.ordered.filter fun o => o.point = point
  l.filter fun o => !l.any fun x => x.before o && s.sameFloor x o

/-- ORDERED_OPERATION_PERFORM (R376, R377): the smallest operation of a performing point whose grid's published floor is above its
clock, and which no smaller one of its grid stands before. -/
def execOrderedOperationPerform (point : PerfPoint) (s : State) : Host.Outcome State Fault Refusal :=
  match point with
  | .pool core => .next (s.servePools core)
  | _ =>
    match firstOrdered ((s.firstsAt point).filter fun o => s.floorAbove (s.block o.blk) o.clock) with
    | none => .next s
    | some o => .next (s.performOrdered o)

/-- Candidates of a grid: MEMBER chips of its chip set, ascending (R293). -/
def Tables.candidates (t : Tables) (r : Attach) : List Nat := t.view.filter fun c => recField r 0x180 128 / 2 ^ c % 2 = 1

/-- The logical core count of a record (R141). -/
def lcoresOf (r : Attach) : Nat :=
  let n := recField r 0x34 4
  if n != 0 then n else 128 * ((List.range 1024).filter fun c => recField r 0x180 128 / 2 ^ c % 2 = 1).length

/-- The capacity of a core for a grid's blocks (R370). -/
def capacityOf (r : Attach) : Nat :=
  let p := 32 / max 1 (recField r 0x2D 1)
  let f := 2 ^ 20 / max 1 (footprint r)
  let z := partitionSize r
  min (min p f) (if z = 0 then 32 else 2 ^ 21 / z)

/-- How D-mode spreads a grid over a core of a chip (R293, R370): the number of candidates n, the chip's rank, and how many
logical cores lie on the physical core. -/
structure Spread where
  n     : Nat
  rank  : Nat
  cores : Nat
  count : Nat

/-- The spread of a grid over core `core` of this chip. -/
def State.spread (s : State) (r : Attach) (core : Nat) : Spread :=
  let cs := s.hytur.tables.candidates r
  let n := max 1 cs.length
  let rank := (cs.takeWhile fun c => c != s.chip).length
  let L := lcoresOf r
  let first := rank + n * core
  { n := n, rank := rank, cores := L, count := if first < L then (L - 1 - first) / (128 * n) + 1 else 0 }

/-- The physical core of a block in D-mode (R370). -/
def State.dcore (s : State) (r : Attach) (bid : Nat) : Nat :=
  let x := s.spread r 0
  bid % x.cores / x.n % 128

/-- The place of a block in its core's sequence (R370). -/
def State.seqIndex (s : State) (r : Attach) (bid : Nat) : Nat :=
  let x := s.spread r (s.dcore r bid)
  bid / x.cores * x.count + bid % x.cores / (128 * x.n)

/-- The block at a place of a core's sequence, none beyond the grid (R370). -/
def State.seqBlock (s : State) (r : Attach) (core j : Nat) : Option Nat :=
  let x := s.spread r core
  if x.count = 0 then none
  else
    let b := j / x.count * x.cores + (x.rank + x.n * (core + 128 * (j % x.count)))
    if b < gridBlocks r then some b else none

/-- The key of a position of a grid on a core. -/
def positionKey (grid core pos : Nat) : Nat := (grid * 128 + core) * 64 + pos

/-- The clocks of positions that wait for their next block (R371, R375). -/
def State.positionClocks (s : State) (ctx grid : Nat) (r : Attach) : List DWord :=
  let P := capacityOf r
  (List.range 128).flatMap fun core => (List.range P).filterMap fun p =>
    let (gone, clock) := s.positions.get (0, 0) (positionKey grid core p)
    let here := fun (b : Block) => b.ctx = ctx && b.grid = grid && b.core = core && b.pos = p && b.kind = .kernel
    if (s.blocks.any fun (e : Nat × Block) => here e.2 && !e.2.ended) || s.images.any fun x => here x.block then none
    else (s.seqBlock r core (p + gone * P)).map fun _ => if gone = 0 then 0 else clock

/-- The clocks of completed matrix entries that hold a block's floor on (R375): those whose reads returned tiles that requests in their
partitions' queues are to be served with, until they are. One at or below a request's own clock holds nothing, or that request would never be
served (R377, assumption 62). -/
def Block.wakeClocks (b : Block) : List DWord :=
  b.waiters.flatMap fun (e : Nat × List Waiter) => (e.2.zip (b.free.get [] e.1)).filterMap fun (q, t) =>
    let x := b.tile (tileKey (e.1 / 8) t)
    if x.byEntry && q.clock.ult x.clock then some x.clock else none

/-- The clocks of a grid's engine work that has not completed, saved matrix entries among it, and of what a completion has yet to wake
(R375). -/
def State.engineClocks (s : State) (ctx grid : Nat) : List DWord :=
  (s.blocks.flatMap fun (e : Nat × Block) =>
    if e.2.ctx = ctx && e.2.grid = grid && !e.2.alone then
      e.2.copies.map (·.clock) ++ e.2.acp.map (·.clock) ++ e.2.wakeClocks
        ++ (((s.core e.2.core).mq ++ (s.core e.2.core).mwait).filter fun x => x.blk = e.1).map (·.clock)
    else [])
    ++ s.images.flatMap fun x => if x.block.ctx = ctx && x.block.grid = grid && !x.block.alone then x.entries.map (·.clock) ++ x.block.wakeClocks else []

/-- The clocks of a grid's ordered operations that have been issued and have not reached their performing points (R375): they wait for
granules. -/
def State.orderedClocks (s : State) (ctx grid : Nat) : List DWord :=
  (s.parkedOps.filter fun op => s.opOrdered op && (s.block op.blk).ctx = ctx && (s.block op.blk).grid = grid && !(s.block op.blk).alone).map (·.clock)

/-- The state with a saved block as it would stand on its core. -/
def State.onCore (s : State) (x : Image) : State := { s with warps := x.warps, blocks := [(x.key, x.block)] }

/-- Whether the instruction at a PC may be an ordered operation (R376). -/
def State.orderedAt (s : State) (core ctx : Nat) (pc : Addr54) : Bool :=
  match s.fetch core ctx pc with
  | .ok bs _ =>
    let m := (encOf (numOf bs)).modi.toNat
    match Op.ofCode (numOf bs / 16 % 1024) with
    | some .talloc | some .atom => true
    | some .mred => m % 8 = 6
    | some .adrain => m / 16 = 2
    | _ => false
  | _ => false

/-- The clock of a warp in its grid's floor (R375). Of a warp whose complete collective is an ordered operation that has not issued, a held
one, that is at most the clock that the operation is to have (assumption 62). -/
def State.warpClock (s : State) (wid : Nat) (w : Warp) : DWord :=
  match s.readyPark wid w with
  | some { place := .rendezvous sc sel _, pc := pc, .. } =>
    let b := s.block w.blk
    let top := (s.membersOf b sc sel wid).foldl (fun (m : DWord) x => match s.warp? x.2 with
      | some v => (v.arrivals sc sel pc).foldl (fun (m : DWord) (p : Park) => if m.ult p.clock then p.clock else m) m
      | none => m) 0
    if top.ult w.lclk && s.orderedAt (coreOf wid) b.ctx pc then top else w.lclk
  | _ => w.lclk

/-- The clocks of a grid's warps that hold its floor, saved ones among them (R375). -/
def State.warpClocks (s : State) (ctx grid : Nat) : List DWord :=
  let ok := fun (b : Block) => b.ctx = ctx && b.grid = grid && !b.alone
  (s.warps.filterMap fun (e : Nat × Warp) => if ok (s.block e.2.blk) && s.holdsFloor e.1 e.2 then some (s.warpClock e.1 e.2) else none)
    ++ s.images.flatMap fun x => if ok x.block then x.warps.filterMap fun (e : Nat × Warp) => if (s.onCore x).holdsFloor e.1 e.2 then some ((s.onCore x).warpClock e.1 e.2) else none else []

/-- The smallest of a list of clocks; none is infinite. -/
def minClock : List DWord → Option DWord
  | [] => none
  | a :: r => match minClock r with
    | some b => some (if b.ult a then b else a)
    | none => some a

/-- The floor of a grid (R375); a stream program's grid has no positions. -/
def State.floorOf (s : State) (ctx grid : Nat) (g : GridRow) : Option DWord :=
  minClock (s.warpClocks ctx grid ++ s.engineClocks ctx grid ++ s.orderedClocks ctx grid ++ if g.stream then [] else s.positionClocks ctx grid g.record)

/-- The D-mode grids of a context that have run a block on this chip, with their rows. -/
def State.floorGrids (s : State) (ctx : Nat) : Map GridRow :=
  let c := s.ctx ctx
  (s.hytur.tables.grids.filter fun (e : Nat × GridRow) => e.2.st.live && e.2.ctxRow = c.gen * 64 + ctx
    && (s.blocks.any (fun (b : Nat × Block) => b.2.ctx = ctx && b.2.grid = e.1) || s.images.any fun x => x.block.ctx = ctx && x.block.grid = e.1))

/-- FLOOR_PUBLICATION (R375): the floor of every D-mode grid of the chip is published. -/
def execFloorPublication (s : State) : Host.Outcome State Fault Refusal :=
  .next { s with ctxs := s.ctxs.map fun (e : Nat × Ctx) =>
    (e.1, if e.2.dmode then { e.2 with floors := (s.floorGrids e.1).foldl (fun (m : Map (Option DWord)) g => m.set g.1 (s.floorOf e.1 g.1 g.2)) [] } else e.2) }

/-! ## Engine producers of rings (R338, R434) -/

/-- A posted request that an arrival enables (R331): the oldest dormant one with the tag on the queue. -/
def armFirst (q : Nat) (inc : Nat) (tag : Word) : List Posted → List Posted
  | [] => []
  | p :: r => if p.queue = q && p.inc = inc && p.tag = tag && !p.armed then { p with armed := true } :: r else p :: armFirst q inc tag r

/-- Step 4 of R331. -/
def State.enable (s : State) (x : Option (Nat × Nat)) : State :=
  match x with
  | none => s
  | some (eq, tag) => { s with posted := armFirst eq (s.queue eq).inc (BitVec.ofNat 32 tag) s.posted }

/-- What follows a record that is written or lost: its arrival enables (R331), and its queue may acknowledge. -/
def State.afterJob (s : State) (j : RingJob) : State :=
  let s := { s with jobs := s.jobs.filter fun x => x.id != j.id }
  let s := s.enable j.enable
  match j.queue with
  | some q => if j.arrival && (s.queue q).inc = j.inc then s.updQueue q fun x => { x with ackDue := some s.clock.time } else s
  | none => s

/-- A record that is lost because its ring's header cannot be used (R434): its queue enters ERROR, where it is not in it, and PORTER status 7
goes to the block that placed or posted. -/
def State.loseJob (s : State) (j : RingJob) : State :=
  let s := s.afterJob j
  match j.queue with
  | some q =>
    let x := s.queue q
    (if x.inc = j.inc && x.st = .ready then s.errorQueue q else s).holdPorter j.blk q 7 none
  | none => s

/-- A record waits for a migrating page (R315). -/
def State.holdJob (s : State) (j : RingJob) (va : Nat) : State :=
  { s with jobs := s.jobs.map fun x => if x.id = j.id then { x with mig := some (BitVec.ofNat 54 va) } else x }

/-- Writes the oldest record of a queue into its ring, once there is room (R338, R434) and no page is migrating (R315). -/
def State.claimJob (s : State) (j : RingJob) : State :=
  if (s.jobs.find? fun x => x.queue = j.queue && x.inc = j.inc).map (·.id) != some j.id || j.mig.isSome then s
  else match s.readRing j.ctx j.header with
    | .fault .migrating => s.holdJob j (va54 j.header)
    | .ok r s1 =>
      if r.lgs < 6 then s.loseJob j
      else if !r.room 1 then s1
      else match [r.header, r.slot r.tail].find? fun va => s1.translateEngine r.ctx va .write = .migrating with
        | some va => s.holdJob j va
        | none => match (s1.claim r 1).bind fun s2 => s2.fillSlot r r.tail j.record with
          | some s3 => s3.afterJob j
          | none => s.loseJob j
    | _ => s.loseJob j

/-- ENGINE_RING_CLAIM (R338, R434): the oldest record of its queue is written once there is room. -/
def execEngineRingClaim (job : Nat) (s : State) : Host.Outcome State Fault Refusal :=
  match s.jobs.find? fun j => j.id = job with
  | none => .next s
  | some j => .next (s.claimJob j)

end Sys2Proof.Machine
end

