-- ==== Sys2Proof/Machine/Blocks.lean ====
section
/-!
DEFINITION. Blocks on cores: admission and start (R122, R292, R304, R370, R371), saves and restores (R301 to R310, R378),
returns from a service call (R359, R367), time slices (R302), re-execution and shadow runs (R383, R386).
-/

namespace Sys2Proof.Machine

/-! ## Room on a core (R122, R123, R304) -/

/-- The %wid of a place on a core or a control core (R16). -/
def widOf (core place : Nat) : Nat := if core < 128 then core * 32 + place else 4096 + 16 * (core - 128) + place

/-- The warp slots that blocks hold on a core. -/
def State.usedSlots (s : State) (core : Nat) : List Nat :=
  s.blocks.flatMap fun (e : Nat × Block) => if e.2.core = core && !e.2.ended then e.2.wids.map placeOf else []

/-- The warp slots that no other block may take on a core: those of its blocks, and the stream indices of saved stream programs, which keep
theirs until they end (R290). -/
def State.heldSlots (s : State) (core : Nat) : List Nat :=
  s.usedSlots core ++ s.images.flatMap fun x => if x.block.core = core && x.block.kind = .stream then x.block.wids.map placeOf else []

/-- The register bytes of one warp (R123). -/
def Block.warpFoot (b : Block) (index : Nat) : Nat := b.width * budgetOf b.record index * 4

/-- The register bytes that warps hold on a core; a warp off-core holds none (R123, R358). -/
def State.usedRegs (s : State) (core : Nat) : Nat :=
  s.warps.foldl (fun (n : Nat) (e : Nat × Warp) =>
    let b := s.block e.2.blk
    if b.core = core && e.2.offcore.isNone then n + b.warpFoot e.2.index else n) 0

/-- Whether a block still holds its partition (R179, R201). -/
def State.holdsRange (s : State) (key : Nat) (b : Block) : Bool :=
  !b.ended || !b.copies.isEmpty || !b.acp.isEmpty || !b.reads.isEmpty
    || ((s.core b.core).mq ++ (s.core b.core).mwait).any fun e => e.blk = key

/-- The scratchpad ranges that are taken on a core: start and size. -/
def State.takenRanges (s : State) (core : Nat) : List (Nat × Nat) :=
  s.blocks.filterMap fun (e : Nat × Block) => if e.2.core = core && s.holdsRange e.1 e.2 then some (e.2.pbase, e.2.psize) else none

/-- Whether a core holds a block of another context (R205). -/
def State.otherOn (s : State) (ctx core : Nat) : Bool :=
  core < 128 && s.blocks.any fun (e : Nat × Block) => e.2.core = core && e.2.ctx != ctx && s.holdsRange e.1 e.2

/-- The slots and the partition base that a core has for a block (R122), where it has room. -/
def State.fit (s : State) (ctx core nw foot psize : Nat) : Option (List Nat × Nat) :=
  let free := (List.range (if core < 128 then 32 else 16)).filter fun i => !(s.heldSlots core).contains i
  if s.otherOn ctx core || free.length < nw || 2 ^ 20 < s.usedRegs core + foot then none
  else
    let taken := s.takenRanges core
    (lowestFit (2 ^ 21) psize taken (0 :: taken.map fun t => (t.1 + t.2 + 4095) / 4096 * 4096)).map fun o => (free.take nw, o)

/-- Whether a block of a context is being re-executed, or is to be (R383): its other warps stop. -/
def State.rerunning (s : State) (ctx : Nat) : Bool := s.blocks.any fun (e : Nat × Block) => e.2.ctx = ctx && (e.2.rerun = 1 || e.2.rerun = 2)

/-! ## Rows of the tables that this chip enacts (R292) -/

/-- The row of a block. -/
def Tables.row (t : Tables) (grid bid : Nat) : Option BlockRow := t.blocks.find? fun r => r.grid = grid && r.bid = bid

/-- Whether a block state stands for a block on a chip. -/
def BlockSt.held : BlockSt → Bool
  | .placed | .running | .parked => true
  | _ => false

/-- Whether the tables place a block on this chip. -/
def State.heldHere (s : State) (grid bid : Nat) : Bool :=
  match s.hytur.tables.row grid bid with
  | some r => r.st.held && r.chip = s.chip
  | none => false

/-- Whether a block is placed on this chip and waits to be admitted. -/
def State.awaits (s : State) (grid bid : Nat) : Bool :=
  s.heldHere grid bid && !s.spent.contains (grid, bid)
    && !(s.blocks.any fun (e : Nat × Block) => e.2.grid = grid && e.2.bid = bid && !e.2.alone && !e.2.ended)
    && !(s.images.any fun x => x.block.grid = grid && x.block.bid = bid && !x.block.alone)

/-- Whether a grid's context is open, usable and not suspended on this chip. -/
def State.ctxRuns (s : State) (ctxRow : Nat) : Bool :=
  match s.ctxs.find (ctxRow % 64) with
  | some c => c.gen = ctxRow / 64 && c.usable && !c.suspended
  | none => false

/-! ## Admission (R122, R184, R304, R305, R370, R371) -/

/-- The free lists of a block's pools at admission: every tile, ascending (R189). -/
def freshFree (r : Attach) : Map (List Nat) :=
  (List.range 64).filterMap fun k =>
    let p := poolOf r (k / 8)
    let x := p.part (k % 8)
    if p.valid && k % 8 ≤ 4 && x.2 != 0 then some (k, (List.range x.2).map (x.1 + ·)) else none

/-- Reads and checks the next entry of a block's itinerary (R184, R187): one that fails raises ITINERARY, and no copy is issued; one on a
migrating page waits (R315). -/
def State.readEntry (s : State) (key : Nat) : State :=
  let b := s.block key
  let va := (recField b.record 0x98 8 + 64 * b.itin.length) % 2 ^ 54
  let fail := fun (s : State) =>
    (s.updBlock key fun b => { b with itinOff := true }).hold key { code := Code.itinerary, info := b.itin.length, addr := some (BitVec.ofNat 64 (s.chip * 2 ^ 54 + va)) }
  match [va, (va + 63) % 2 ^ 54].find? fun a => s.translateEngine b.ctx a .read = .migrating with
  | some a => s.updBlock key fun b => { b with itinWait := some (BitVec.ofNat 54 a) }
  | none =>
    if s.virtError b.ctx va 64 then (fail s).orderMachineCheck key 0xFFFF
    else match s.readVirt b.ctx va 64 with
      | (some bs, s) => if b.entryBad (numOf bs) then fail s else s.updBlock key fun b => { b with itin := b.itin ++ [numOf bs] }
      | (none, s) => fail s

/-- Reads what is left of a block's itinerary. -/
def State.readItinerary (s : State) (key : Nat) : State :=
  (List.range (recField (s.block key).record 0xA0 4 - (s.block key).itin.length)).foldl (fun (s : State) _ =>
    let b := s.block key
    if b.itinOff || b.itinWait.isSome then s else s.readEntry key) s

/-- A warp of a newly admitted block (R122). -/
def freshWarp (key index W : Nat) (r : Attach) (clock : DWord) (s0 : DWord) (issues : Nat) : Warp :=
  { blk := key, index := index, live := allSet W, lclk := clock, last := some issues, tvec := tvecOf (recField r 0x10 8), s := Map.put 0 [] 0 s0, pcs := Map.putAll 0 [] ((List.range W).map fun i => (i, entryOf (recField r 8 8))) }

/-- Clears a partition for a new block, so that nothing of an earlier block's can be read (R8, R122, R241): its bytes, marks and clocks. -/
def State.clearPartition (s : State) (b : Block) : State :=
  let hi := b.pbase + b.psize
  (s.clearErrors (replacedSpad b.core b.pbase b.psize)).updCore b.core fun c =>
    { c with
      spad := c.spad.clear b.pbase hi
      marks := c.marks.filter fun o => !b.holds o
      mbclock := c.mbclock.clear b.pbase hi
      grantime := c.grantime.clear (b.pbase / 64) (hi / 64) }

/-- A block's warps have taken their slots: what sampling still knew of earlier holders goes (R417). -/
def State.takeSlots (s : State) (b : Block) : State :=
  (s.updCore b.core fun c => { c with gone := c.gone.filter fun (e : Nat × Nat × DWord × List Byte) => !(b.wids.map placeOf).contains e.1 }).cleanSlots b.wids

/-- Puts a block of a grid onto a core with room for it: room in the cloakroom, the accumulators, a fresh partition, fresh warps, the
itinerary. None where there is no room. A core image that cannot be read makes the block FAULTED with MACHINE_CHECK (R427). -/
def State.seat (s : State) (grid bid : Nat) (g : GridRow) (core : Nat) (kind : BlockKind) (clock : DWord) (f : Block → Block) : Option State :=
  let ctx := g.ctxRow % 64
  let r := g.record
  let W := if g.stream then 1 else widthOf (recField r 0x2C 1)
  let psize := partitionSize r
  match s.fit ctx core (recField r 0x2D 1) (footprint r) psize with
  | none => none
  | some (slots, pbase) =>
    let (key, s) := s.draw
    match ((s.ctx ctx).reserve (imageSize r (footprint r) psize) none key).bind fun c => c.reserveCore core with
    | none => none
    | some c =>
      let s := { s with ctxs := s.ctxs.set ctx c }
      let bad := s.coreError ctx core
      let s := s.swapCore ctx core
      let b : Block := { grid := grid, bid := bid, ctx := ctx, kind := kind, record := r, width := W, core := core, wids := slots.map (widOf core), pbase := pbase, psize := psize, free := freshFree r, since := s.clock.time }
      let b := f b
      let s := { s with blocks := s.blocks.set key b }.clearPartition b
      let s := (List.range b.wids.length).foldl (fun (s : State) i =>
        s.setWarp (b.wids.getD i 0) (freshWarp key i W r clock (if g.stream then g.arg else 0) s.issues)) s
      let s := (s.takeSlots b).readItinerary key
      some (if bad then s.faultBlock key Code.machineCheck (b.wids.headD 0) (BitVec.ofNat 64 (s.chip * 2 ^ 54 + s.faultEntry b (b.wids.headD 0))) else s)

/-- The position, the turn at it and the starting clock of a D-mode block on its core (R370, R371). -/
def State.turnOf (s : State) (grid bid core : Nat) (r : Attach) : Nat × Nat × DWord :=
  let P := max 1 (capacityOf r)
  let j := s.seqIndex r bid
  let pos := j % P
  let (_, clock) := s.positions.get (0, 0) (positionKey grid core pos)
  (pos, j / P, if j / P = 0 then 0 else clock)

/-- Whether a block of a D-mode context waits in the cloakroom for a core that it left, however it was saved (R379). -/
def State.savedAhead (s : State) (ctx core : Nat) : Bool :=
  (s.ctx ctx).dmode && s.images.any fun x => x.block.ctx = ctx && x.block.core = core && !(x.block.swap && x.block.halted)

/-- BLOCK_START (R122, R292): an admitted block starts once the pod clock has reached its record's start. -/
def execBlockStart (blk : Nat) (s : State) : Host.Outcome State Fault Refusal :=
  match s.block? blk with
  | none => .next s
  | some b =>
    if b.started || s.clock.time < recField b.record 0x38 8 then .next s
    else .next (s.updBlock blk fun b => { b with started := true })

/-! ## Saves (R301 to R303, R378) -/

/-- Whether a block has to leave its core (R301): a victim, a swap-out stop, a time slice, a suspended context. -/
def State.mustLeave (s : State) (b : Block) : Bool :=
  b.victim || (b.swap && b.halted) || b.slice || (s.ctx b.ctx).suspended

/-- Whether an issue has performed some of its ordered operations and not all. -/
def State.halfPerformed (s : State) (key : Nat) : Bool :=
  s.ordered.any fun o => o.blk = key && (s.ordered.filter fun x => x.op.id = o.op.id).length != o.op.lanes.length

/-- Whether a long-latency result of a block is still to come that a save completes (R135, R303): not that of a PATOM (R348), of an
ordered operation (R378), or of an instruction whose lanes are parked. -/
def State.resultsDue (s : State) (b : Block) : Bool :=
  b.wids.any fun wid => (s.warp? wid).any fun w => w.windows.any fun x =>
    !x.ready && !x.done && !x.patom && !(x.vregs.isEmpty && x.sregs.isEmpty && x.kregs.isEmpty)
      && !(w.allParks.any fun p => s.owedToPark w.blk wid x.id p.place) && !(s.ordered.any fun o => o.op.wins.contains (wid, x.id))

/-- Whether what a save waits for is done (R303): results have come, copies have landed, consuming reads have completed but those of
matrix entries. -/
def State.drained (s : State) (key : Nat) (b : Block) : Bool :=
  !s.resultsDue b && b.copies.isEmpty && b.acp.isEmpty && b.reads.all (fun r => (s.core b.core).holdsRead r.id) && !s.halfPerformed key

/-- A warp at its boundary for a save (R303): results that have come are delivered, with all that a delivery does. What it still
waits for then (a QFENCE, R264) has not issued, and its clock is back at that instruction's. -/
def State.boundary (s : State) (wid W : Nat) : State :=
  if (s.warpD wid).offcore.isSome then s else
  let s := (s.warpD wid).windows.foldl (fun (s : State) (x : Window) => s.deliver wid x.id) s
  s.updWarp wid fun w => { w with waits := [], fence := none, lclk := (w.fence.map fun (f : Fence) => f.clock).getD w.lclk }.flush W

/-- Runs a block's started matrix entry to the end of its segment (R209): whole where that is its end, otherwise its next chunk is
noted. A word with an uncorrectable error makes the block FAULTED instead (R210). -/
def State.cutEntry (s : State) (key : Nat) (b : Block) : State :=
  match (s.core b.core).mq with
  | [] => s
  | e :: r =>
    if e.blk != key || !e.started then s
    else
      let stop := e.chunk + segmentChunks e.type
      if s.entryError { e with limit := some stop } then s.failEntry b.core e
      else if 2 < e.op || e.k ≤ stop then (s.performEntry b.core e).leaveQueue b.core e
      else
        let s := s.performEntry b.core { e with limit := some stop }
        s.updCore b.core fun c => { c with mq := { e with chunk := stop, started := false, limit := none } :: r }

/-- A core's queue without a block's entries; entries that waited for a place move up (R206). -/
def State.takeEntries (s : State) (key core : Nat) : State :=
  (s.updCore core fun c => { c with mq := c.mq.filter fun e => e.blk != key, mwait := c.mwait.filter fun e => e.blk != key }).moveUp core

/-- A warp that comes back from off-core, exactly as saved (R359), with the clock of an external wake (R374). -/
def State.returned (s : State) (base : Nat) (b : Block) (w : Warp) : Warp :=
  let w := s.readImageWarp base b w
  { w with offcore := none, lclk := releaseClock (s.dmode b) w.lclk (s.floorClock b) }

/-- Takes back an ordered operation whose lanes are parked at a granule (R378): they stand at the instruction, at the clock before it. -/
def State.withdrawParked (s : State) (op : MemOp) : State :=
  op.warps.foldl (fun (s : State) (m : Nat × Lanes) => s.updWarp m.1 fun w => match w.parks.find? (Park.isOp op.id) with
    | none => w
    | some p =>
      { w with
        parks := w.parks.filter fun q => !q.isOp op.id
        lclk := p.clock
        windows := w.windows.filter fun x => !op.wins.any fun y => y.2 = x.id }) s

/-- Takes back every ordered operation of a block that has not been performed (R378). -/
def State.withdrawAll (s : State) (key : Nat) : State :=
  let ops := (s.ordered.filter fun o => o.blk = key).foldl (fun (m : Map MemOp) o => m.set o.op.id o.op) []
  let s := ops.foldl (fun (s : State) (e : Nat × MemOp) => s.withdraw e.2) s
  (s.parkedOps.filter fun op => op.blk = key && s.opOrdered op).foldl State.withdrawParked s

/-- Warps of a block that an UNBLOCK has called back, and that wait for registers, are back in its image. -/
def State.callBack (s : State) (key : Nat) (b : Block) : State :=
  let back := (s.core b.core).readmit.filter fun w => b.wids.contains w
  let s := back.foldl (fun (s : State) wid => s.updWarp wid fun w => s.returned (s.imageBase b.ctx key) b w) s
  s.updCore b.core fun c => { c with readmit := c.readmit.filter fun w => !b.wids.contains w }

/-- Writes a block and its warps into the cloakroom, and takes them off the core (R303 to R307), once its stores are performed (R264). The
warps of a halted block are halted (R310, R414). -/
def State.saveBlock (s : State) (key : Nat) (b : Block) : State :=
  let s := s.aliasDone.withdrawAll key
  let base := s.imageBase b.ctx key
  let s := s.cutEntry key b
  if !(s.block? key).any (fun b => !b.ended) then s else
  let entries := ((s.core b.core).mq ++ (s.core b.core).mwait).filter fun e => e.blk = key
  let s := s.takeEntries key b.core
  let s := b.wids.foldl (fun (s : State) wid => s.boundary wid b.width) (s.callBack key b)
  let mine := (s.warps.filter fun (e : Nat × Warp) => e.2.blk = key).map fun (e : Nat × Warp) => (e.1, { e.2 with halted := e.2.halted || b.halted })
  let s := mine.foldl (fun (s : State) (e : Nat × Warp) => if e.2.offcore.isSome then s else s.writeImageWarp base b e.2) s
  let s := s.writeImageShared base b entries
  let b := (s.block key)
  let c := s.core b.core
  let x : Image := { key := key, block := { b with since := s.clock.time }, warps := mine, marks := c.marks.filter b.holds, mbclock := c.mbclock.range b.pbase (b.pbase + b.psize), entries := entries, base := base }
  let s := s.updCore b.core fun c =>
    { c with
      marks := c.marks.filter fun o => !b.holds o
      mbclock := c.mbclock.clear b.pbase (b.pbase + b.psize) }
  { s with images := s.images ++ [x], blocks := s.blocks.del key, warps := s.warps.filter fun (e : Nat × Warp) => e.2.blk != key }

/-- BLOCK_SAVE (R303): a block that has to leave, once what its save waits for is done. -/
def execBlockSave (blk : Nat) (s : State) : Host.Outcome State Fault Refusal :=
  match s.block? blk with
  | none => .next s
  | some b => .next (if !b.ended && s.mustLeave b && s.drained blk b then s.saveBlock blk b else s)

/-! ## Restores (R304, R310, R348) -/

/-- Whether an image waits for a PATOM result (R348). -/
def Image.patomOpen (x : Image) : Bool := x.warps.any fun (e : Nat × Warp) => e.2.windows.any fun y => y.patom && !y.ready

/-- Whether a saved block's own slots and range are free, and its registers fit (R302, R304). -/
def State.ownRoom (s : State) (x : Image) : Bool :=
  let b := x.block
  let foot := x.warps.foldl (fun (n : Nat) (e : Nat × Warp) => if e.2.offcore.isNone then n + b.warpFoot e.2.index else n) 0
  !s.otherOn b.ctx b.core && b.wids.all (fun w => !(s.usedSlots b.core).contains (placeOf w)) && s.usedRegs b.core + foot ≤ 2 ^ 20
    && (s.takenRanges b.core).all fun t => max b.pbase t.1 ≥ min (b.pbase + b.psize) (t.1 + t.2)

/-- Puts a block image back onto its core (R304): the same slots, range and key. Parked lanes test their objects again,
as do those of other blocks at its objects, and those whose object's owner has ended meanwhile are to fault (R175, R246). -/
def State.restore (s : State) (x : Image) : State :=
  let b := { x.block with slice := false, victim := false, since := s.clock.time }
  let s := s.correctRange x.base (imageSize b.record b.foot b.psize)
  let s := { s with images := s.images.filter fun y => y.key != x.key }.swapCore b.ctx b.core
  let s := { s with blocks := s.blocks.set x.key b }
  let s := x.warps.foldl (fun (s : State) (e : Nat × Warp) =>
    s.setWarp e.1 (if e.2.offcore.isSome then e.2 else (s.readImageWarp x.base b e.2).releaseWoken b.width (s.dmode b))) (s.takeSlots b)
  let spad := s.readImageSpad x.base b
  let s := s.updCore b.core fun c =>
    { c with
      spad := spad.foldl (fun (m : Map Byte) (e : Nat × Byte) => m.put 0 e.1 e.2) (c.spad.clear b.pbase (b.pbase + b.psize))
      marks := x.marks ++ c.marks
      grantime := c.grantime.clear (b.pbase / 64) ((b.pbase + b.psize) / 64)
      mbclock := x.mbclock.foldl (fun (m : Map (DWord × DWord)) (e : Nat × DWord × DWord) => m.set e.1 e.2) c.mbclock }
  let s := x.entries.foldl (fun (s : State) (e : MEntry) => s.joinQueue b.core e) s
  let gone := fun (k : Nat) => !(s.blocks.any fun (e : Nat × Block) => e.1 = k && !e.2.ended) && !s.images.any fun y => y.key = k
  let late := x.warps.flatMap fun (e : Nat × Warp) => (e.2.allParks.filter fun p => match p.place with
    | .mbwait _ _ _ o _ _ _ => gone o
    | .granule op => op.owners.any gone
    | _ => false).map fun p => (e.1, p, Code.spaceRange)
  let s := { s with late := s.late ++ late }
  let objects := s.warps.flatMap fun (e : Nat × Warp) => e.2.allParks.filterMap fun p => match p.place with
    | .mbwait c o _ own _ _ _ => if e.2.blk = x.key || own = x.key then some (c, o) else none
    | _ => none
  let s := objects.foldl (fun (s : State) (o : Nat × Nat) => s.wakeBarrier o.1 o.2 (((s.core o.1).mbclock.get (0, 0) o.2).2)) s
  (if b.rerun = 3 then s.retryDigests b.ctx fun _ => true else s).readItinerary x.key

/-- Whether a saved block may come back now, but for room (R301, R310, R348): its row is on this chip, it is not swapped out, its
context runs, and no re-execution of another block holds its context. -/
def State.mayReturn (s : State) (x : Image) : Bool :=
  let b := x.block
  (b.kind = .shadow || s.heldHere b.grid b.bid) && !(b.swap && b.halted) && !(s.ctx b.ctx).suspended && !x.patomOpen
    && (b.kind = .rerun || !s.rerunning b.ctx) && (s.core b.core).readmit = []

/-- Whether an image holds a sector with an uncorrectable error (R427). -/
def State.imageError (s : State) (x : Image) : Bool :=
  let n := imageSize x.block.record x.block.foot x.block.psize
  s.rangeError x.base n

/-! ## Returns from a service call (R359, R365, R367) -/

/-- An UNBLOCK applied on this chip (R359, R365): the warp that left with request t joins the line for its core's registers, or goes on in
its block's image. -/
def State.unblock (s : State) (grid bid index : Nat) (t : DWord) : State :=
  match s.blocks.find? fun (e : Nat × Block) => e.2.grid = grid && e.2.bid = bid && e.2.kind != .shadow && !e.2.ended with
  | some (_, b) =>
    let wid := b.wids.getD index 0
    match s.warp? wid with
    | some w => if w.offcore = some t && !(s.core b.core).readmit.contains wid then s.updCore b.core fun c => { c with readmit := c.readmit ++ [wid] } else s
    | none => s
  | none => s.images.foldl (fun (s : State) (x : Image) =>
      if x.block.grid = grid && x.block.bid = bid && x.block.kind != .shadow then
        x.warps.foldl (fun (s : State) (e : Nat × Warp) =>
          if e.2.index != index || e.2.offcore != some t then s
          else
            let w := s.returned x.base x.block e.2
            let s := s.writeImageWarp x.base x.block w
            { s with images := s.images.map fun (y : Image) =>
                if y.key = x.key then { y with warps := y.warps.map fun (z : Nat × Warp) => if z.1 = e.1 then (z.1, w) else z } else y }) s
      else s) s

/-- WARP_READMISSION (R359, R367): the first warp in a core's line returns to its slot when its registers fit; what came for it while it was
off-core takes effect then. A record or registers that cannot be read make its block FAULTED (R427). -/
def execWarpReadmission (core : Nat) (s : State) : Host.Outcome State Fault Refusal :=
  match (s.core core).readmit with
  | [] => .next s
  | wid :: r =>
    match s.warp? wid with
    | none => .next (s.updCore core fun c => { c with readmit := r })
    | some w =>
      let b := s.block w.blk
      if 2 ^ 20 < s.usedRegs core + b.warpFoot w.index then .next s
      else
        let base := s.imageBase b.ctx w.blk
        let bad := s.rangeError (base + 0x1000 + 0x2000 * w.index) 0x2000 || s.rangeError (base + b.regOff w.index) (b.warpFoot w.index)
        let s := (s.correctRange (base + 0x1000 + 0x2000 * w.index) 0x2000).correctRange (base + b.regOff w.index) (b.warpFoot w.index)
        let t := ((s.setWarp wid ((s.returned base b w).releaseWoken b.width (s.dmode b))).cleanSlots [wid]).updCore core fun c => { c with readmit := r }
        .next (if bad then t.faultBlock w.blk Code.machineCheck wid (BitVec.ofNat 64 (s.chip * 2 ^ 54 + s.faultEntry b wid)) else t.testWaits wid)

/-! ## Time slices (R302) -/

/-- A block that waits for room on this chip: one newly placed, a saved one, a shadow run. -/
inductive Waits where
  | fresh (grid bid : Nat) (g : GridRow)
  | saved (x : Image)
  | shadow (x : Shadow) (g : GridRow)

/-- The context of a waiter. -/
def Waits.ctx : Waits → Nat
  | .fresh _ _ g => g.ctxRow % 64
  | .saved x => x.block.ctx
  | .shadow _ g => g.ctxRow % 64

/-- The grid of a waiter. -/
def Waits.grid : Waits → Nat
  | .fresh grid _ _ => grid
  | .saved x => x.block.grid
  | .shadow x _ => x.grid

/-- Since when a waiter waits. -/
def State.waitsSince (s : State) : Waits → Nat
  | .fresh grid bid _ => ((s.hytur.tables.row grid bid).map (·.since)).getD 0
  | .saved x => x.block.since
  | .shadow x _ => x.since

/-- The cores that could take a waiter. -/
def State.waitsCores (s : State) : Waits → List Nat
  | .fresh _ bid g => if (s.ctx (g.ctxRow % 64)).dmode then [s.dcore g.record bid] else List.range 128
  | .saved x => [x.block.core]
  | .shadow _ _ => List.range 128

/-- Whether a core has room for a waiter, cloakroom room included. -/
def State.waitsFit (s : State) (core : Nat) : Waits → Bool
  | .saved x => s.ownRoom x
  | .fresh _ _ g | .shadow _ g =>
    let r := g.record
    (s.fit (g.ctxRow % 64) core (recField r 0x2D 1) (footprint r) (partitionSize r)).isSome
      && (((s.ctx (g.ctxRow % 64)).reserve (imageSize r (footprint r) (partitionSize r)) none 0).bind fun c => c.reserveCore core).isSome

/-- The blocks that are to come onto cores of this chip (R302): newly placed ones, saved ones, shadow runs. -/
def State.comers (s : State) : List Waits :=
  let t := s.hytur.tables
  let fresh := t.blocks.filterMap fun r => match t.grids.find r.grid with
    | some g => if s.awaits r.grid r.bid && s.ctxRuns g.ctxRow && !g.stream && (let d := s.turnOf r.grid r.bid (s.dcore g.record r.bid) g.record
          !(s.ctx (g.ctxRow % 64)).dmode || (s.positions.get (0, 0) (positionKey r.grid (s.dcore g.record r.bid) d.1)).1 = d.2.1)
        then some (Waits.fresh r.grid r.bid g) else none
    | none => none
  let saved := (s.images.filter fun x => x.block.kind != .stream && s.mayReturn x).map Waits.saved
  let shadow := s.shadows.filterMap fun x => (t.grids.find x.grid).map fun g => Waits.shadow x g
  fresh ++ saved ++ shadow

/-- The waiters of the chip: those that no core can take (R302). -/
def State.waiters (s : State) : List Waits := s.comers.filter fun w => !(s.waitsCores w).any fun c => s.waitsFit c w

/-- Whether one waiter goes before another: priority, then a saved D-mode block before its context's others (R379), then age. -/
def State.waitsBefore (s : State) (a b : Waits) : Bool :=
  let pa := (s.ctx a.ctx).prio
  let pb := (s.ctx b.ctx).prio
  let ahead := fun (x : Waits) => match x with | .saved _ => (s.ctx x.ctx).dmode | _ => false
  if pa != pb then pb < pa
  else if a.ctx = b.ctx && ahead a != ahead b then ahead a
  else s.waitsSince a < s.waitsSince b

/-- The holders on a core for a waiter (R302, R379). -/
def State.holders (s : State) (core : Nat) (w : Waits) : List (Nat × Block) :=
  s.blocks.filter fun (e : Nat × Block) =>
    let c := s.ctx e.2.ctx
    e.2.core = core && !e.2.ended && e.2.kind != .stream && !s.mustLeave e.2 && c.slice != 0
      && min c.slice 1000000 * usTicks ≤ s.clock.time - e.2.since && c.prio ≤ (s.ctx w.ctx).prio
      && !(c.dmode && e.2.ctx = w.ctx && e.2.grid = w.grid)

/-- The state without blocks: the room that saving them makes. -/
def State.without (s : State) (keys : List Nat) : State :=
  { s with
    blocks := s.blocks.filter fun (e : Nat × Block) => !keys.contains e.1
    warps := s.warps.filter fun (e : Nat × Warp) => !keys.contains e.2.blk }

/-- How a choice of holders is judged: how many, their highest priority, the shortest residency, the core. -/
def State.choiceKey (s : State) (x : Nat × List (Nat × Block)) : List Nat :=
  [x.2.length, x.2.foldl (fun (m : Nat) (e : Nat × Block) => max m (s.ctx e.2.ctx).prio) 0,
    x.2.foldl (fun (m : Nat) (e : Nat × Block) => max m e.2.since) 0, x.1]

/-- The fewest blocks among candidates whose saving makes a test of the remaining state true. -/
def State.fewest (s : State) (cands : List (Nat × List (Nat × Block))) (ok : Nat → State → Bool) : Option (Nat × List (Nat × Block)) :=
  leastBy (fun a b => s.choiceKey a < s.choiceKey b)
    (cands.flatMap fun (c : Nat × List (Nat × Block)) => ((sublistsOf c.2).filter fun l => ok c.1 (s.without (l.map (·.1)))).map fun l => (c.1, l))

/-- Marks blocks for a save by the chip. -/
def State.markSlice (s : State) (l : List (Nat × Block)) : State :=
  l.foldl (fun (s : State) (e : Nat × Block) => s.updBlock e.1 fun b => { b with slice := true }) s

/-- The block id of a waiter. -/
def Waits.bid : Waits → Nat
  | .fresh _ bid _ => bid
  | .saved x => x.block.bid
  | .shadow x _ => x.bid

/-- The blocks that are to leave for a time slice, and have not left yet. -/
def State.leaving (s : State) : List Nat := (s.blocks.filter fun (e : Nat × Block) => e.2.slice && !e.2.ended).map (·.1)

/-- Whether a block still waits for room on this chip, or has it and is to come. -/
def State.stillWaits (s : State) (grid bid : Nat) : Bool := s.comers.any fun w => w.grid = grid && w.bid = bid

/-- Whether room on a core is being made, or kept, for another block than this one (R302). -/
def State.barred (s : State) (core grid bid : Nat) : Bool :=
  s.slicing.any fun x => x.2.2 = core && (x.1 != grid || x.2.1 != bid) && s.stillWaits x.1 x.2.1

/-- BLOCK_ADMISSION (R122, R292, R370): a block that the tables place on this chip goes onto a core with room; where two cores could
take it in free mode, either may. -/
def execBlockAdmission (grid bid core : Nat) (s : State) : Host.Outcome State Fault Refusal :=
  match s.hytur.tables.grids.find grid with
  | none => .next s
  | some g =>
    let ctx := g.ctxRow % 64
    if !s.awaits grid bid || !s.ctxRuns g.ctxRow || s.rerunning ctx || (s.core core).readmit != [] || s.barred core grid bid then .next s
    else if g.stream then
      if core != 128 + ctx % 32 then .next s else .next ((s.seat grid bid g core .stream 0 id).getD s)
    else if 128 ≤ core || s.savedAhead ctx core then .next s
    else if (s.ctx ctx).dmode then
      let (pos, turn, clock) := s.turnOf grid bid core g.record
      if core != s.dcore g.record bid || (s.positions.get (0, 0) (positionKey grid core pos)).1 != turn then .next s
      else .next ((s.seat grid bid g core .kernel clock fun b => { b with pos := pos }).getD s)
    else .next ((s.seat grid bid g core .kernel 0 id).getD s)

/-- BLOCK_RESTORE (R302, R304, R427): a saved block returns to its core when its room is free; an image that cannot be read makes it
FAULTED with MACHINE_CHECK. -/
def execBlockRestore (grid bid : Nat) (s : State) : Host.Outcome State Fault Refusal :=
  match s.images.find? fun x => x.block.grid = grid && x.block.bid = bid && s.mayReturn x && s.ownRoom x && !s.barred x.block.core grid bid with
  | some x =>
    let wid := x.block.wids.headD 0
    let t := s.restore x
    .next (if s.imageError x || s.coreError x.block.ctx x.block.core then t.faultBlock x.key Code.machineCheck wid (BitVec.ofNat 64 (s.chip * 2 ^ 54 + s.faultEntry x.block wid)) else t)
  | none => .next s

/-- TIME_SLICE (R302): every 1 µs, room is made for the oldest waiter of the highest priority, for which it is kept until that block comes;
what is leaving already counts as gone. -/
def execTimeSlice (s : State) : Host.Outcome State Fault Refusal :=
  if s.clock.time < s.sliceAt + usTicks then .next s
  else
    let t := { s with sliceAt := s.clock.time, slicing := s.slicing.filter fun x => s.stillWaits x.1 x.2.1 }
    match leastBy s.waitsBefore s.waiters with
    | none => .next t
    | some w =>
      let rest := t.slicing.filter fun x => x.1 != w.grid || x.2.1 != w.bid
      if t.slicing.any fun x => x.1 = w.grid && x.2.1 = w.bid && (s.without s.leaving).waitsFit x.2.2 w then .next t
      else match s.fewest (((s.waitsCores w).filter fun c => !rest.any fun x => x.2.2 = c).map fun c => (c, s.holders c w)) (fun c s => (s.without s.leaving).waitsFit c w) with
        | some (c, l) => .next { t.markSlice l with slicing := rest ++ [(w.grid, w.bid, c)] }
        | none => .next { t with slicing := rest }

/-! ## Re-execution and shadow runs (R383, R386) -/

/-- Whether engine work of a context is queued or in flight on the chip. -/
def State.engineBusy (s : State) (ctx : Nat) : Bool :=
  s.blocks.any fun (e : Nat × Block) => e.2.ctx = ctx && (!e.2.copies.isEmpty || !e.2.acp.isEmpty
    || ((s.core e.2.core).mq ++ (s.core e.2.core).mwait).any fun x => x.blk = e.1)

/-- SERIALISED_REEXECUTION (R383): a block whose digest mismatches is admitted afresh on its core, alone, once its context's engine
work has completed; where the core lacks room the fewest blocks of the context are saved. -/
def execSerialisedReexecution (blk : Nat) (s : State) : Host.Outcome State Fault Refusal :=
  match s.block? blk with
  | none => .next s
  | some o =>
    match s.hytur.tables.grids.find o.grid with
    | none => .next s
    | some g =>
      let second := s.blocks.any fun (e : Nat × Block) => e.2.ctx = o.ctx && e.2.rerun = 2
      if o.rerun != 1 || second || s.engineBusy o.ctx || (s.ctx o.ctx).suspended || (s.core o.core).readmit != [] then .next s
      else match s.seat o.grid o.bid g o.core .rerun 0 fun b => { b with rerunOf := blk, pos := o.pos } with
        | some t => .next (t.updBlock blk fun b => { b with rerun := 2 })
        | none =>
          let mine := s.blocks.filter fun (e : Nat × Block) => e.2.ctx = o.ctx && e.2.core = o.core && !e.2.ended && e.2.kind != .stream
          match s.fewest [(o.core, mine)] (fun c s => s.waitsFit c (.fresh o.grid o.bid g)) with
          | some (_, l) => .next (s.markSlice l)
          | none => .next s

/-- SHADOW_RUN (R386): a witness admits the block on its lowest-numbered core with room; where the context cannot run here, the
result is inconclusive. -/
def execShadowRun (grid bid : Nat) (s : State) : Host.Outcome State Fault Refusal :=
  match s.shadows.find? (fun x => x.grid = grid && x.bid = bid), s.hytur.tables.grids.find grid with
  | some x, some g =>
    let ctx := g.ctxRow % 64
    let rest := { s with shadows := s.shadows.erase x }
    if !((s.ctxs.find ctx).any fun c => c.gen = g.ctxRow / 64 && c.usable) then
      .next (rest.orderDigest { grid := grid, bid := bid, ctx := ctx } 3 3 0 x.expected x.subject s.chip)
    else if !s.ctxRuns g.ctxRow then .next s
    else
      let f := fun (b : Block) => { b with observed := x.observed, expected := x.expected, subject := x.subject, started := true }
      match (List.range 128).find? fun c => (s.core c).readmit = [] && !s.savedAhead ctx c && !s.barred c grid bid && s.waitsFit c (.shadow x g) with
      | some c => .next ((rest.seat grid bid g c .shadow 0 f).getD s)
      | none => .next s
  | _, _ => .next s

end Sys2Proof.Machine
end

