-- ==== Sys2Proof/Machine/Flags.lean ====
section
/-!
DEFINITION. Conditions. Arithmetic raises no flags (R85): a comparison writes mask bits or a scalar 1 or 0 (R88, R94, R95,
R114), and these are computed here.
-/

namespace Sys2Proof.Machine

/-- ICMP's condition code applied to two integers (R87). -/
def intCond (code : Nat) (a b : Int) : Bool :=
  match code with
  | 0 => a = b | 1 => a != b | 2 => a < b | 3 => a ≤ b | 4 => b < a | _ => b ≤ a

/-- A word as an integer, signed or unsigned (R88). -/
def intOf {w : Nat} (u : Bool) (a : BitVec w) : Int := if u then (a.toNat : Int) else a.toInt

/-- ICMP of two words under a modifier (R87, R88). -/
def icmp {w : Nat} (m : Nat) (a b : BitVec w) : Bool := intCond (m % 8) (intOf (m / 8 % 2 = 1) a) (intOf (m / 8 % 2 = 1) b)

/-- The order of two values that are no NaN: less, equal, or neither (R94); +0 equals −0. -/
def valLt (a b : Val) : Bool :=
  match a, b with
  | .inf true, .inf true => false
  | .inf true, _ => true
  | _, .inf true => false
  | .inf false, _ => false
  | _, .inf false => true
  | a, b =>
    let x := a.dyadic
    let y := b.dyadic
    (x.add { n := -y.n, e := y.e }).n < 0

/-- FCMP's condition code (R91, R94). -/
def fltCond (code : Nat) (a b : Val) : Bool :=
  let un := a.isNan || b.isNan
  match code with
  | 0 => !un && !valLt a b && !valLt b a
  | 1 => un || valLt a b || valLt b a
  | 2 => !un && valLt a b
  | 3 => !un && !valLt b a
  | 4 => !un && valLt b a
  | 5 => !un && !valLt a b
  | 6 => !un
  | _ => un

/-- The class bit of a code of a format (R95). -/
def classBit (f : Fmt) (ftz : Bool) (c : Nat) : Nat :=
  match ftzIn f ftz (decodeVal f c) with
  | .inf true => 0
  | .inf false => 7
  | .zero true => 3
  | .zero false => 4
  | .nan _ m => if m / 2 ^ 22 % 2 = 1 then 9 else 8
  | .fin neg m =>
    let sub := m.log2 < 1 - f.bias
    if neg then (if sub then 2 else 1) else (if sub then 5 else 6)

end Sys2Proof.Machine
end

