-- ==== Sys2Proof/Machine/Float.lean ====
section
/-!
DEFINITION. Floating-point instructions: class 2 (R91 to R97).
-/

namespace Sys2Proof.Machine

/-- The format of a type code of classes 2 and 3 (R91). -/
def typeFmt (m : Nat) : Fmt := match m / 16 % 4 with | 1 => .fp16 | 2 => .bf16 | _ => .fp32

/-- What one floating-point element is computed under: format, mode, .ftz, and the lane, PC and draw it may use. -/
structure FpEnv where
  fmt  : Fmt
  mode : Rnd
  ftz  : Bool
  lane : Nat
  pc   : Addr54
  draw : Nat

/-- The environment of a modifier (R91). -/
def FpEnv.of (m lane : Nat) (pc : Addr54) (draw : Nat) : FpEnv :=
  { fmt := typeFmt m, mode := Rnd.ofCode (m / 2 % 8), ftz := m % 2 = 1, lane := lane, pc := pc, draw := draw }

/-- An operand's value, subnormals read as .ftz says (R71). -/
def FpEnv.rd (v : FpEnv) (code : Nat) : Val := ftzIn v.fmt v.ftz (decodeVal v.fmt code)

/-- A result's code: an invalid operation gives the origin NaN (R72), a subnormal is written as .ftz says (R71). -/
def FpEnv.wr (v : FpEnv) (x : Option Val) : Nat :=
  ftzOut v.fmt v.ftz (encodeVal v.fmt v.mode false v.draw (x.getD (nanpay v.fmt v.lane v.pc)))

/-- One element of an instruction with up to three operands. -/
abbrev FpOp := FpEnv → Nat → Nat → Nat → Nat

/-- FADD (R92). -/
def faddOp : FpOp := fun v a b _ => v.wr (addVal v.mode (v.rd a) (v.rd b))

/-- The exact difference: NaNs keep their own sign (R73). -/
def subVal (mode : Rnd) (a b : Val) : Option Val :=
  match firstNan [a, b] with
  | some n => some n
  | none => addVal mode a b.negate

/-- FSUB (R92). -/
def fsubOp : FpOp := fun v a b _ => v.wr (subVal v.mode (v.rd a) (v.rd b))
/-- FMUL (R92). -/
def fmulOp : FpOp := fun v a b _ => v.wr (mulVal (v.rd a) (v.rd b))
/-- FFMA (R92). -/
def ffmaOp : FpOp := fun v a b c => v.wr (fmaVal v.mode (v.rd a) (v.rd b) (v.rd c))
/-- FDIV (R92). -/
def fdivOp : FpOp := fun v a b _ => v.wr (divVal (v.rd a) (v.rd b))
/-- FSQRT (R92). -/
def fsqrtOp : FpOp := fun v a _ _ => v.wr (sqrtVal (v.rd a))

/-- Below in FMIN's order: −0 below +0 (R93). -/
def minLt (a b : Val) : Bool :=
  match a, b with
  | .zero s, .zero t => s && !t
  | _, _ => valLt a b

/-- The smaller, or the larger, of two values (R93). -/
def minMaxVal (larger : Bool) (a b : Val) : Val :=
  match firstNan [a, b] with
  | some n => n
  | none => if larger then (if minLt a b then b else a) else (if minLt b a then b else a)

/-- FMIN (R93). -/
def fminOp : FpOp := fun v a b _ => v.wr (some (minMaxVal false (v.rd a) (v.rd b)))
/-- FMAX (R93). -/
def fmaxOp : FpOp := fun v a b _ => v.wr (some (minMaxVal true (v.rd a) (v.rd b)))

/-- A value's sign set, or a NaN by R73 (R93). -/
def withSign (f : Bool → Bool) : Val → Val
  | .nan s m => (Val.nan s m).quiet
  | .inf s => .inf (f s)
  | .zero s => .zero (f s)
  | .fin s m => .fin (f s) m

/-- FABS (R93). -/
def fabsOp : FpOp := fun v a _ _ => v.wr (some (withSign (fun _ => false) (v.rd a)))
/-- FNEG (R93). -/
def fnegOp : FpOp := fun v a _ _ => v.wr (some (withSign not (v.rd a)))

/-- FRINT (R96): spacing 1; a value that rounds to zero keeps its sign. -/
def frintOp : FpOp := fun v a _ _ =>
  match v.rd a with
  | .fin s m =>
    let n := roundUnits v.mode s m 0 v.draw
    v.wr (some (if n = 0 then .zero s else .fin s { num := n, exp := 0 }))
  | x => v.wr (some x.quiet)

/-- FCLASS (R95): the class mask of one element. -/
def fclassOp : FpOp := fun v a _ _ => 2 ^ classBit v.fmt v.ftz a

/-- Element i of a register of a format (R91). -/
def elemOf (f : Fmt) (x : Word) (i : Nat) : Nat := if f = .fp32 then x.toNat else x.toNat / 2 ^ (16 * i) % 2 ^ 16

/-- Draws of one lane: the r of draw number n of stream 8 (R69). -/
def Block.rdraw (b : Block) (w : Warp) (lane i : Nat) : Nat :=
  (drawOf b.seed (b.lid w.index lane).toNat 8 (w.draw.get 0 lane + BitVec.ofNat 32 i).toNat).toNat / 2 ^ 32

/-- One lane's result: both elements of a packed type, with their draws in order (R91). -/
def fpLane (op : FpOp) (b : Block) (w : Warp) (m : Nat) (pc : Addr54) (lane : Nat) (x y z : Word) : Word :=
  let f := typeFmt m
  let one := fun (i : Nat) => op (FpEnv.of m lane pc (b.rdraw w lane i)) (elemOf f x i) (elemOf f y i) (elemOf f z i)
  if f = .fp32 then BitVec.ofNat 32 (one 0) else BitVec.ofNat 32 (one 0 + 2 ^ 16 * one 1)

/-- Results that an instruction rounds, for its draws under .sr (R70). -/
def roundings (m : Nat) : Nat := if m / 2 % 8 = 5 then (if m / 16 % 4 = 0 then 1 else 2) else 0

/-- The effect of an elementwise floating-point instruction: `draws` says whether bits [3:1] are a rounding mode. -/
def effFp (op : FpOp) (draws : Bool) (cx : Cx) (s : State) : Eff :=
  let b := cx.block s
  let m := if draws then cx.m else cx.m / 16 * 16 + cx.m % 2
  .ok (cx.emit s (if draws then roundings cx.m else 0) fun p w =>
    [cx.lanesWrite p cx.e.dst.toNat fun l => fpLane op b w m cx.pc l (w.vget cx.e.a.toNat l) (cx.vB w l) (cx.vC w l)])

/-- FFMA's effect: the literal replaces C, B is a register (R28). -/
def effFfma (cx : Cx) (s : State) : Eff :=
  let b := cx.block s
  .ok (cx.emit s (roundings cx.m) fun p w =>
    [cx.lanesWrite p cx.e.dst.toNat fun l =>
      fpLane ffmaOp b w cx.m cx.pc l (w.vget cx.e.a.toNat l) (w.vget cx.e.b.toNat l) (cx.vC w l)])

/-- FCMP's effect (R94). -/
def effFcmp (cx : Cx) (s : State) : Eff :=
  let rd := fun (x : Word) => ftzIn .fp32 (cx.m % 2 = 1) (decodeVal .fp32 x.toNat)
  .ok (cx.emit s 0 fun p w => [cx.maskWrite p cx.e.dst.toNat fun l =>
    fltCond (cx.m / 2 % 8) (rd (w.vget cx.e.a.toNat l)) (rd (cx.vB w l))])

/-- FDOT2 of one lane (R97). -/
def fdot2Val (a0 a1 b0 b1 c : Val) (lane : Nat) (pc : Addr54) : Val :=
  match firstNan [a0, a1, b0, b1, c] with
  | some n => n
  | none => match mulVal a0 b0, mulVal a1 b1 with
    | some p, some q => (sumVal [p, q, c]).getD (nanpay .fp32 lane pc)
    | _, _ => nanpay .fp32 lane pc

/-- FDOT2's effect (R97): .ftz acts on c and on the result. -/
def effFdot2 (cx : Cx) (s : State) : Eff :=
  let b := cx.block s
  let f := typeFmt cx.m
  let ftz := cx.m % 2 = 1
  .ok (cx.emit s (if cx.m / 2 % 8 = 5 then 1 else 0) fun p w => [cx.lanesWrite p cx.e.dst.toNat fun l =>
    let x := w.vget cx.e.a.toNat l
    let y := w.vget cx.e.b.toNat l
    let v := fdot2Val (decodeVal f (elemOf f x 0)) (decodeVal f (elemOf f x 1)) (decodeVal f (elemOf f y 0)) (decodeVal f (elemOf f y 1)) (ftzIn .fp32 ftz (decodeVal .fp32 (w.vget cx.e.c.toNat l).toNat)) l cx.pc
    BitVec.ofNat 32 (ftzOut .fp32 ftz (encodeVal .fp32 (Rnd.ofCode (cx.m / 2 % 8)) false (b.rdraw w l 0) v))])

/-- FADD (R92). -/
def execFadd (e : Enc) (s : State) : Host.Outcome State Fault Refusal := s.runLong .fadd e (effFp faddOp true)

/-- The short form of FADD (R21, R92). -/
def execFaddF32 (f : Short) (s : State) : Host.Outcome State Fault Refusal := s.runShort .fadd f (effFp faddOp true)

/-- FSUB (R92). -/
def execFsub (e : Enc) (s : State) : Host.Outcome State Fault Refusal := s.runLong .fsub e (effFp fsubOp true)

/-- The short form of FSUB (R21, R92). -/
def execFsubF32 (f : Short) (s : State) : Host.Outcome State Fault Refusal := s.runShort .fsub f (effFp fsubOp true)

/-- FMUL (R92). -/
def execFmul (e : Enc) (s : State) : Host.Outcome State Fault Refusal := s.runLong .fmul e (effFp fmulOp true)

/-- The short form of FMUL (R21, R92). -/
def execFmulF32 (f : Short) (s : State) : Host.Outcome State Fault Refusal := s.runShort .fmul f (effFp fmulOp true)

/-- FFMA (R92). -/
def execFfma (e : Enc) (s : State) : Host.Outcome State Fault Refusal := s.runLong .ffma e effFfma

/-- FMIN (R93). -/
def execFmin (e : Enc) (s : State) : Host.Outcome State Fault Refusal := s.runLong .fmin e (effFp fminOp false)

/-- The short form of FMIN (R21, R93). -/
def execFminF32 (f : Short) (s : State) : Host.Outcome State Fault Refusal := s.runShort .fmin f (effFp fminOp false)

/-- FMAX (R93). -/
def execFmax (e : Enc) (s : State) : Host.Outcome State Fault Refusal := s.runLong .fmax e (effFp fmaxOp false)

/-- The short form of FMAX (R21, R93). -/
def execFmaxF32 (f : Short) (s : State) : Host.Outcome State Fault Refusal := s.runShort .fmax f (effFp fmaxOp false)

/-- FABS (R93). -/
def execFabs (e : Enc) (s : State) : Host.Outcome State Fault Refusal := s.runLong .fabs e (effFp fabsOp false)

/-- The short form of FABS (R21, R93). -/
def execFabsF32 (f : Short) (s : State) : Host.Outcome State Fault Refusal := s.runShort .fabs f (effFp fabsOp false)

/-- FNEG (R93). -/
def execFneg (e : Enc) (s : State) : Host.Outcome State Fault Refusal := s.runLong .fneg e (effFp fnegOp false)

/-- The short form of FNEG (R21, R93). -/
def execFnegF32 (f : Short) (s : State) : Host.Outcome State Fault Refusal := s.runShort .fneg f (effFp fnegOp false)

/-- FCMP (R94). -/
def execFcmp (e : Enc) (s : State) : Host.Outcome State Fault Refusal := s.runLong .fcmp e effFcmp

/-- FCLASS (R95). -/
def execFclass (e : Enc) (s : State) : Host.Outcome State Fault Refusal := s.runLong .fclass e (effFp fclassOp false)

/-- FRINT (R96). -/
def execFrint (e : Enc) (s : State) : Host.Outcome State Fault Refusal := s.runLong .frint e (effFp frintOp true)

/-- FDIV (R92). -/
def execFdiv (e : Enc) (s : State) : Host.Outcome State Fault Refusal := s.runLong .fdiv e (effFp fdivOp true)

/-- FSQRT (R92). -/
def execFsqrt (e : Enc) (s : State) : Host.Outcome State Fault Refusal := s.runLong .fsqrt e (effFp fsqrtOp true)

/-- FDOT2 (R97). -/
def execFdot2 (e : Enc) (s : State) : Host.Outcome State Fault Refusal := s.runLong .fdot2 e effFdot2

end Sys2Proof.Machine
end

