-- ==== Sys2Proof/Machine/Convert.lean ====
section
/-!
DEFINITION. Conversions: class 4 (R101 to R108). A NaN source is an operand of R73: its quiet bit is set.
-/

namespace Sys2Proof.Machine

/-- Mode and saturation of a rounding class (R101). -/
def roundingClass (c : Nat) : Rnd × Bool := match c with | 1 => (.rn, true) | 2 => (.rz, false) | 3 => (.sr, false) | _ => (.rn, false)

/-- Source and result format of a CVT code (R101). -/
def cvtFmts (code : Nat) : Fmt × Fmt :=
  match code with
  | 0 => (.fp32, .bf16) | 1 => (.fp32, .fp16) | 2 => (.fp32, .e4m3) | 3 => (.fp32, .e5m2) | 4 => (.fp32, .e3m2)
  | 5 => (.fp32, .e2m3) | 6 => (.fp32, .e2m1) | 7 => (.fp32, .i32) | 8 => (.fp32, .u32) | 9 => (.i32, .fp32)
  | 10 => (.u32, .fp32) | 11 => (.bf16, .fp32) | 12 => (.fp16, .fp32) | 13 => (.e4m3, .fp32) | _ => (.e5m2, .fp32)

/-- A code converted between formats (R102). -/
def convert (src dst : Fmt) (mode : Rnd) (sat : Bool) (r code : Nat) : Nat :=
  encodeVal dst mode sat r (decodeVal src (code % 2 ^ src.bits)).quiet

/-- CVT's effect (R102). -/
def effCvt (cx : Cx) (s : State) : Eff :=
  let b := cx.block s
  let (src, dst) := cvtFmts (cx.m % 16)
  let (mode, sat) := roundingClass (cx.m / 16)
  .ok (cx.emit s (if cx.m / 16 = 3 then 1 else 0) fun p w => [cx.lanesWrite p cx.e.dst.toNat fun l =>
    BitVec.ofNat 32 (convert src dst mode sat (b.rdraw w l 0) (w.vget cx.e.a.toNat l).toNat)])

/-- The element format of a PACK code (R103). -/
def packFmt (code : Nat) : Fmt := (Fmt.ofCode code).getD .bf16

/-- Consecutive registers of one lane. -/
def Warp.vrange (w : Warp) (reg l n : Nat) : List Word := (List.range n).map fun i => w.vget (reg + i) l

/-- A number as 32-bit words, low first. -/
def wordsOf (n x : Nat) : List Word := (List.range n).map fun i => BitVec.ofNat 32 (x / 2 ^ (32 * i))

/-- Words as one number, low first. -/
def numOfWords : List Word → Nat
  | [] => 0
  | w :: r => w.toNat + 2 ^ 32 * numOfWords r

/-- PACK's packed string (R104): element i rounds with draw i. -/
def packString (f : Fmt) (mode : Rnd) (sat : Bool) (draw : Nat → Nat) (i : Nat) : List Word → Nat
  | [] => 0
  | x :: r => convert .fp32 f mode sat (draw i) x.toNat + 2 ^ f.bits * packString f mode sat draw (i + 1) r

/-- PACK's effect (R103, R104). -/
def effPack (cx : Cx) (s : State) : Eff :=
  let b := cx.block s
  let f := packFmt (cx.m % 16)
  let n := packCount (cx.m % 16)
  let (mode, sat) := roundingClass (cx.m / 16)
  .ok (cx.emit s (if cx.m / 16 = 3 then n else 0) fun p w =>
    cx.rangeWrite p cx.e.dst.toNat (if n = 16 then 3 else 1) fun l =>
      wordsOf 3 (packString f mode sat (b.rdraw w l) 0 (w.vrange cx.e.a.toNat l (n / 2) ++ w.vrange cx.e.b.toNat l (n / 2))))

/-- UNPACK's effect (R104). -/
def effUnpack (cx : Cx) (s : State) : Eff :=
  let f := packFmt (cx.m % 16)
  let n := packCount (cx.m % 16)
  .ok (cx.emit s 0 fun p w => cx.rangeWrite p cx.e.dst.toNat n fun l =>
    let x := numOfWords (w.vrange cx.e.a.toNat l (if n = 16 then 3 else 1))
    (List.range n).map fun i => BitVec.ofNat 32 (convert f .fp32 .rn false 0 (packedAt f.bits x i)))

/-- The scale format of an MX conversion (R105). -/
def mxScale (m : Nat) : Fmt := if m / 32 = 1 then .sf8 else .e8m0

/-- The 32 FP32 inputs of one lane. -/
def mxInputs (w : Warp) (reg l : Nat) : List Val := (w.vrange reg l 32).map fun x => decodeVal .fp32 x.toNat

/-- The effect of MXENC and IXENC: the packed elements to d on, the scale code to b (R106, R108). -/
def effBlockEnc (words width : Nat) (enc : List Val → Nat × List Nat) (cx : Cx) (s : State) : Eff :=
  .ok (cx.emit s 0 fun p w =>
    let one := fun (l : Nat) => enc (mxInputs w cx.e.a.toNat l)
    cx.rangeWrite p cx.e.dst.toNat words (fun l => wordsOf words (packCodes width (one l).2))
      ++ [cx.lanesWrite p cx.e.b.toNat fun l => BitVec.ofNat 32 (one l).1])

/-- MXENC's effect (R105, R106). -/
def effMxenc (cx : Cx) (s : State) : Eff :=
  let f := elemFmt (cx.m % 16)
  effBlockEnc (mxWords (cx.m % 16)) f.bits (encodeBlock f (mxScale cx.m)) cx s

/-- IXENC's effect (R108). -/
def effIxenc (cx : Cx) (s : State) : Eff := effBlockEnc 4 4 (encodeI4x (mxScale cx.m) (cx.m / 8 % 4)) cx s

/-- A decoded element as FP32 (R107). -/
def mxOut (v : Val) : Word := BitVec.ofNat 32 (encodeVal .fp32 .rn false 0 v)

/-- The effect of MXDEC and IXDEC (R107, R108). -/
def effBlockDec (words : Nat) (f : Fmt) (cx : Cx) (s : State) : Eff :=
  .ok (cx.emit s 0 fun p w => cx.rangeWrite p cx.e.dst.toNat 32 fun l =>
    (decodeBlock f (mxScale cx.m) (numOfWords (w.vrange cx.e.a.toNat l words)) ((w.vget cx.e.b.toNat l).toNat % 256)).map mxOut)

/-- CVT (R101, R102). -/
def execCvt (e : Enc) (s : State) : Host.Outcome State Fault Refusal := s.runLong .cvt e effCvt
/-- PACK (R103, R104). -/
def execPack (e : Enc) (s : State) : Host.Outcome State Fault Refusal := s.runLong .pack e effPack
/-- UNPACK (R103, R104). -/
def execUnpack (e : Enc) (s : State) : Host.Outcome State Fault Refusal := s.runLong .unpack e effUnpack
/-- MXENC (R105, R106). -/
def execMxenc (e : Enc) (s : State) : Host.Outcome State Fault Refusal := s.runLong .mxenc e effMxenc
/-- MXDEC (R105, R107). -/
def execMxdec (e : Enc) (s : State) : Host.Outcome State Fault Refusal :=
  s.runLong .mxdec e (effBlockDec (mxWords (e.modi.toNat % 16)) (elemFmt (e.modi.toNat % 16)))
/-- IXENC (R108). -/
def execIxenc (e : Enc) (s : State) : Host.Outcome State Fault Refusal := s.runLong .ixenc e effIxenc
/-- IXDEC (R108). -/
def execIxdec (e : Enc) (s : State) : Host.Outcome State Fault Refusal := s.runLong .ixdec e (effBlockDec 4 .i4x)

end Sys2Proof.Machine
end

