-- ==== Sys2Proof/Machine/Integer.lean ====
section
/-!
DEFINITION. Integer and bit instructions: classes 0 and 1 (R86 to R90).
-/

namespace Sys2Proof.Machine

/-- An exact result as a word: wrapped, or clamped under .sat (R88). -/
def narrow (w m : Nat) (t : Int) : BitVec w :=
  if m / 16 % 2 = 1 then
    if m / 8 % 2 = 1 then BitVec.ofInt w (clampInt 0 (2 ^ w - 1) t)
    else BitVec.ofInt w (clampInt (-(2 ^ (w - 1))) (2 ^ (w - 1) - 1) t)
  else BitVec.ofInt w t

/-- The operand as R88 reads it under a modifier. -/
def rd (m : Nat) {w : Nat} (a : BitVec w) : Int := intOf (m / 8 % 2 = 1) a

/-- IADD (R88). -/
def iaddOp (m w : Nat) (a b : BitVec w) : BitVec w := narrow w m (rd m a + rd m b)
/-- ISUB (R88). -/
def isubOp (m w : Nat) (a b : BitVec w) : BitVec w := narrow w m (rd m a - rd m b)
/-- IMUL (R88). -/
def imulOp (m w : Nat) (a b : BitVec w) : BitVec w := narrow w m (rd m a * rd m b)
/-- IMULH (R88). -/
def imulhOp (m w : Nat) (a b : BitVec w) : BitVec w := BitVec.ofInt w ((rd m a * rd m b) / (2 ^ w))
/-- IMAD (R88). -/
def imadOp (m w : Nat) (a b c : BitVec w) : BitVec w := narrow w m (rd m a * rd m b + rd m c)
/-- IMIN (R88). -/
def iminOp (m w : Nat) (a b : BitVec w) : BitVec w := if rd m a ≤ rd m b then a else b
/-- IMAX (R88). -/
def imaxOp (m w : Nat) (a b : BitVec w) : BitVec w := if rd m a ≤ rd m b then b else a
/-- IABS (R88). -/
def iabsOp (m w : Nat) (a : BitVec w) : BitVec w := narrow w m (a.toInt.natAbs : Int)
/-- INEG (R88). -/
def inegOp (m w : Nat) (a : BitVec w) : BitVec w := narrow w m (-a.toInt)
/-- LEA (R88). -/
def leaOp (m w : Nat) (a b : BitVec w) : BitVec w := a + b * BitVec.ofNat w (2 ^ (m % 8))

/-- Number of set bits among the low n. -/
def popCount (a : Nat) : Nat → Nat
  | 0 => 0
  | n + 1 => a % 2 + popCount (a / 2) n

/-- Leading zero bits of an n-bit number. -/
def clzNat (a : Nat) : Nat → Nat
  | 0 => 0
  | n + 1 => if a / 2 ^ n % 2 = 1 then 0 else 1 + clzNat a n

/-- Trailing zero bits of an n-bit number. -/
def ctzNat (a : Nat) : Nat → Nat
  | 0 => 0
  | n + 1 => if a % 2 = 1 then 0 else 1 + ctzNat (a / 2) n

/-- The low n bits in reverse order. -/
def revBits (a : Nat) : Nat → Nat
  | 0 => 0
  | n + 1 => a % 2 * 2 ^ n + revBits (a / 2) n

/-- AND (R90). -/
def andOp (w : Nat) (a b : BitVec w) : BitVec w := a &&& b
/-- OR (R90). -/
def orOp (w : Nat) (a b : BitVec w) : BitVec w := a ||| b
/-- XOR (R90). -/
def xorOp (w : Nat) (a b : BitVec w) : BitVec w := a ^^^ b
/-- ANDN (R90). -/
def andnOp (w : Nat) (a b : BitVec w) : BitVec w := a &&& ~~~ b
/-- NOT (R90). -/
def notOp (w : Nat) (a : BitVec w) : BitVec w := ~~~ a
/-- SHL (R90). -/
def shlOp (w : Nat) (a b : BitVec w) : BitVec w := if w ≤ b.toNat then 0 else a <<< b.toNat
/-- SHR (R90). -/
def shrOp (w : Nat) (a b : BitVec w) : BitVec w := if w ≤ b.toNat then 0 else a >>> b.toNat
/-- SAR (R90). -/
def sarOp (w : Nat) (a b : BitVec w) : BitVec w := a.sshiftRight (min b.toNat (w - 1))
/-- ROTL (R90). -/
def rotlOp (w : Nat) (a b : BitVec w) : BitVec w := a.rotateLeft (b.toNat % w)
/-- POPC (R90). -/
def popcOp (w : Nat) (a : BitVec w) : BitVec w := BitVec.ofNat w (popCount a.toNat w)
/-- CLZ (R90). -/
def clzOp (w : Nat) (a : BitVec w) : BitVec w := BitVec.ofNat w (clzNat a.toNat w)
/-- CTZ (R90). -/
def ctzOp (w : Nat) (a : BitVec w) : BitVec w := BitVec.ofNat w (ctzNat a.toNat w)
/-- BREV (R90). -/
def brevOp (w : Nat) (a : BitVec w) : BitVec w := BitVec.ofNat w (revBits a.toNat w)

/-- Position and length of a bit field; length 0 where it is empty (R90). -/
def bitField (w : Nat) (b : BitVec w) : Nat × Nat :=
  let pos := b.toNat % 256
  let len := b.toNat / 256 % 256
  if len = 0 || w ≤ pos then (0, 0) else (pos, min (pos + len) w - pos)

/-- BFE (R90). -/
def bfeOp (m w : Nat) (a b : BitVec w) : BitVec w :=
  let (pos, e) := bitField w b
  if e = 0 then 0
  else
    let x := a.toNat / 2 ^ pos % 2 ^ e
    if m / 16 % 2 = 1 then BitVec.ofInt w (toSigned e x) else BitVec.ofNat w x

/-- BFI (R90). -/
def bfiOp (w : Nat) (a b c : BitVec w) : BitVec w :=
  let (pos, e) := bitField w b
  if e = 0 then c
  else
    let n := c.toNat
    BitVec.ofNat w (n - n / 2 ^ pos % 2 ^ e * 2 ^ pos + a.toNat % 2 ^ e * 2 ^ pos)

/-- BPERM (R90): result bytes from i on. -/
def bpermFrom (w a b : Nat) : Nat → Nat → Nat
  | 0, _ => 0
  | n + 1, i =>
    let sel := b / 2 ^ (4 * i) % 16
    let j := sel % 8
    let byte := if w / 8 ≤ j then 0 else a / 2 ^ (8 * j) % 256
    let byte := if 8 ≤ sel then (if 128 ≤ byte then 255 else 0) else byte
    byte + 256 * bpermFrom w a b n (i + 1)

/-- BPERM (R90). -/
def bpermOp (w : Nat) (a b : BitVec w) : BitVec w := BitVec.ofNat w (bpermFrom w a.toNat b.toNat (w / 8) 0)

/-- ICMP's effect (R88). -/
def effIcmp (cx : Cx) (s : State) : Eff :=
  if cx.S then .ok (cx.emitScalar s cx.e.dst.toNat (if icmp cx.m (cx.sval s cx.e.a.toNat) (cx.sB s) then 1 else 0))
  else .ok (cx.emit s 0 fun p w => [cx.maskWrite p cx.e.dst.toNat fun l => icmp cx.m (w.vget cx.e.a.toNat l) (cx.vB w l)])

/-- SEL's effect (R88). -/
def effSel (cx : Cx) (s : State) : Eff :=
  if cx.S then .ok (cx.emitScalar s cx.e.dst.toNat (if cx.sval s cx.e.c.toNat != 0 then cx.sval s cx.e.a.toNat else cx.sB s))
  else .ok (cx.emitLanes s fun w l => if inSet (w.kget cx.e.c.toNat) l then w.vget cx.e.a.toNat l else cx.vB w l)

/-- BFI's effect: C is a register also beside a literal B (R28, R90). -/
def effBfi (cx : Cx) (s : State) : Eff :=
  if cx.S then .ok (cx.emitScalar s cx.e.dst.toNat (bfiOp 64 (cx.sval s cx.e.a.toNat) (cx.sB s) (cx.sval s cx.e.c.toNat)))
  else .ok (cx.emitLanes s fun w l => bfiOp 32 (w.vget cx.e.a.toNat l) (cx.vB w l) (w.vget cx.e.c.toNat l))

/-- IADD (R88). -/
def execIadd (e : Enc) (s : State) : Host.Outcome State Fault Refusal := s.runLong .iadd e (eff2 (iaddOp e.modi.toNat))

/-- The short form of IADD (R21, R88). -/
def execIaddF32 (f : Short) (s : State) : Host.Outcome State Fault Refusal := s.runShort .iadd f (eff2 (iaddOp 0))

/-- ISUB (R88). -/
def execIsub (e : Enc) (s : State) : Host.Outcome State Fault Refusal := s.runLong .isub e (eff2 (isubOp e.modi.toNat))

/-- The short form of ISUB (R21, R88). -/
def execIsubF32 (f : Short) (s : State) : Host.Outcome State Fault Refusal := s.runShort .isub f (eff2 (isubOp 0))

/-- IMUL (R88). -/
def execImul (e : Enc) (s : State) : Host.Outcome State Fault Refusal := s.runLong .imul e (eff2 (imulOp e.modi.toNat))

/-- The short form of IMUL (R21, R88). -/
def execImulF32 (f : Short) (s : State) : Host.Outcome State Fault Refusal := s.runShort .imul f (eff2 (imulOp 0))

/-- IMULH (R88). -/
def execImulh (e : Enc) (s : State) : Host.Outcome State Fault Refusal := s.runLong .imulh e (eff2 (imulhOp e.modi.toNat))

/-- IMIN (R88). -/
def execImin (e : Enc) (s : State) : Host.Outcome State Fault Refusal := s.runLong .imin e (eff2 (iminOp e.modi.toNat))

/-- The short form of IMIN (R21, R88). -/
def execIminF32 (f : Short) (s : State) : Host.Outcome State Fault Refusal := s.runShort .imin f (eff2 (iminOp 0))

/-- IMAX (R88). -/
def execImax (e : Enc) (s : State) : Host.Outcome State Fault Refusal := s.runLong .imax e (eff2 (imaxOp e.modi.toNat))

/-- The short form of IMAX (R21, R88). -/
def execImaxF32 (f : Short) (s : State) : Host.Outcome State Fault Refusal := s.runShort .imax f (eff2 (imaxOp 0))

/-- LEA (R88). -/
def execLea (e : Enc) (s : State) : Host.Outcome State Fault Refusal := s.runLong .lea e (eff2 (leaOp e.modi.toNat))

/-- IMAD (R88). -/
def execImad (e : Enc) (s : State) : Host.Outcome State Fault Refusal := s.runLong .imad e (eff3 (imadOp e.modi.toNat))

/-- IABS (R88). -/
def execIabs (e : Enc) (s : State) : Host.Outcome State Fault Refusal := s.runLong .iabs e (eff1 (iabsOp e.modi.toNat))

/-- The short form of IABS (R21, R88). -/
def execIabsF32 (f : Short) (s : State) : Host.Outcome State Fault Refusal := s.runShort .iabs f (eff1 (iabsOp 0))

/-- INEG (R88). -/
def execIneg (e : Enc) (s : State) : Host.Outcome State Fault Refusal := s.runLong .ineg e (eff1 (inegOp e.modi.toNat))

/-- The short form of INEG (R21, R88). -/
def execInegF32 (f : Short) (s : State) : Host.Outcome State Fault Refusal := s.runShort .ineg f (eff1 (inegOp 0))

/-- ICMP (R88). -/
def execIcmp (e : Enc) (s : State) : Host.Outcome State Fault Refusal := s.runLong .icmp e effIcmp

/-- SEL (R88). -/
def execSel (e : Enc) (s : State) : Host.Outcome State Fault Refusal := s.runLong .sel e effSel

/-- AND (R90). -/
def execAnd (e : Enc) (s : State) : Host.Outcome State Fault Refusal := s.runLong .and e (eff2 andOp)

/-- The short form of AND (R21, R90). -/
def execAndF32 (f : Short) (s : State) : Host.Outcome State Fault Refusal := s.runShort .and f (eff2 andOp)

/-- OR (R90). -/
def execOr (e : Enc) (s : State) : Host.Outcome State Fault Refusal := s.runLong .or e (eff2 orOp)

/-- The short form of OR (R21, R90). -/
def execOrF32 (f : Short) (s : State) : Host.Outcome State Fault Refusal := s.runShort .or f (eff2 orOp)

/-- XOR (R90). -/
def execXor (e : Enc) (s : State) : Host.Outcome State Fault Refusal := s.runLong .xor e (eff2 xorOp)

/-- The short form of XOR (R21, R90). -/
def execXorF32 (f : Short) (s : State) : Host.Outcome State Fault Refusal := s.runShort .xor f (eff2 xorOp)

/-- ANDN (R90). -/
def execAndn (e : Enc) (s : State) : Host.Outcome State Fault Refusal := s.runLong .andn e (eff2 andnOp)

/-- The short form of ANDN (R21, R90). -/
def execAndnF32 (f : Short) (s : State) : Host.Outcome State Fault Refusal := s.runShort .andn f (eff2 andnOp)

/-- SHL (R90). -/
def execShl (e : Enc) (s : State) : Host.Outcome State Fault Refusal := s.runLong .shl e (eff2 shlOp)

/-- The short form of SHL (R21, R90). -/
def execShlF32 (f : Short) (s : State) : Host.Outcome State Fault Refusal := s.runShort .shl f (eff2 shlOp)

/-- SHR (R90). -/
def execShr (e : Enc) (s : State) : Host.Outcome State Fault Refusal := s.runLong .shr e (eff2 shrOp)

/-- The short form of SHR (R21, R90). -/
def execShrF32 (f : Short) (s : State) : Host.Outcome State Fault Refusal := s.runShort .shr f (eff2 shrOp)

/-- SAR (R90). -/
def execSar (e : Enc) (s : State) : Host.Outcome State Fault Refusal := s.runLong .sar e (eff2 sarOp)

/-- The short form of SAR (R21, R90). -/
def execSarF32 (f : Short) (s : State) : Host.Outcome State Fault Refusal := s.runShort .sar f (eff2 sarOp)

/-- ROTL (R90). -/
def execRotl (e : Enc) (s : State) : Host.Outcome State Fault Refusal := s.runLong .rotl e (eff2 rotlOp)

/-- BPERM (R90). -/
def execBperm (e : Enc) (s : State) : Host.Outcome State Fault Refusal := s.runLong .bperm e (eff2 bpermOp)

/-- NOT (R90). -/
def execNot (e : Enc) (s : State) : Host.Outcome State Fault Refusal := s.runLong .not e (eff1 notOp)

/-- The short form of NOT (R21, R90). -/
def execNotF32 (f : Short) (s : State) : Host.Outcome State Fault Refusal := s.runShort .not f (eff1 notOp)

/-- POPC (R90). -/
def execPopc (e : Enc) (s : State) : Host.Outcome State Fault Refusal := s.runLong .popc e (eff1 popcOp)

/-- CLZ (R90). -/
def execClz (e : Enc) (s : State) : Host.Outcome State Fault Refusal := s.runLong .clz e (eff1 clzOp)

/-- CTZ (R90). -/
def execCtz (e : Enc) (s : State) : Host.Outcome State Fault Refusal := s.runLong .ctz e (eff1 ctzOp)

/-- BREV (R90). -/
def execBrev (e : Enc) (s : State) : Host.Outcome State Fault Refusal := s.runLong .brev e (eff1 brevOp)

/-- BFE (R90). -/
def execBfe (e : Enc) (s : State) : Host.Outcome State Fault Refusal := s.runLong .bfe e (eff2 (bfeOp e.modi.toNat))

/-- BFI (R90). -/
def execBfi (e : Enc) (s : State) : Host.Outcome State Fault Refusal := s.runLong .bfi e effBfi

end Sys2Proof.Machine
end

