-- ==== Sys2Proof/Machine/Lane.lean ====
section
/-!
DEFINITION. Mask and cross-lane instructions: class 5 (R109 to R115).
-/

namespace Sys2Proof.Machine

/-! ## Masks (R109) -/

/-- The effect of a mask instruction with a mask result. -/
def effMask (f : Lanes → Lanes → Lanes) (cx : Cx) (s : State) : Eff :=
  .ok (cx.emit s 0 fun p w => [.mask cx.e.dst.toNat p.lanes (f (w.kget cx.e.a.toNat) (w.kget cx.e.b.toNat))])

/-- KMOV's effect by direction. -/
def effKmov (cx : Cx) (s : State) : Eff :=
  .ok (cx.emit s 0 fun p w =>
    if cx.m % 4 = 1 then [.scal cx.e.dst.toNat (w.kget cx.e.a.toNat &&& allSet cx.W)]
    else if cx.m % 4 = 2 then [.mask cx.e.dst.toNat p.lanes (cx.sval s cx.e.a.toNat)]
    else [.mask cx.e.dst.toNat p.lanes (w.kget cx.e.a.toNat)])

/-- KPOP's effect. -/
def effKpop (cx : Cx) (s : State) : Eff :=
  .ok (cx.emit s 0 fun _ w => [.scal cx.e.dst.toNat (BitVec.ofNat 64 (members cx.W (w.kget cx.e.a.toNat)).length)])

/-- KFIRST's effect. -/
def effKfirst (cx : Cx) (s : State) : Eff :=
  .ok (cx.emit s 0 fun _ w => [.scal cx.e.dst.toNat (BitVec.ofNat 64 ((members cx.W (w.kget cx.e.a.toNat)).head?.getD 64))])

/-! ## Elements (R110) -/

/-- The present elements in ascending number with a value read from each: (e, value). -/
def Cx.elems {α : Type} (cx : Cx) (s : State) (f : Warp → Nat → α) : List (Nat × α) :=
  cx.parts.flatMap fun p => (cx.lanesOf p).map fun l => (cx.elem p l, f (s.warpD p.wid) l)

/-- Elements of the scope: its declared warps × W (R111). -/
def Cx.count (cx : Cx) (s : State) : Nat := (declared (cx.block s) cx.e.scope cx.e.sel.toNat cx.wid).length * cx.W

/-- A vector result from a function of the element number. -/
def Cx.emitElems (cx : Cx) (s : State) (f : Nat → Word) : State :=
  cx.emit s 0 fun p _ => [cx.lanesWrite p cx.e.dst.toNat fun l => f (cx.elem p l)]

/-- A mask result from a function of the element number. -/
def Cx.emitBits (cx : Cx) (s : State) (f : Nat → Bool) : State :=
  cx.emit s 0 fun p _ => [cx.maskWrite p cx.e.dst.toNat fun l => f (cx.elem p l)]

/-- The 32-bit a of every present element. -/
def Cx.avals (cx : Cx) (s : State) : List (Nat × Word) := cx.elems s fun w l => w.vget cx.e.a.toNat l

/-- The source element of SHFL (R111). -/
def shflSource (mode n e b : Nat) : Nat :=
  match mode with
  | 0 => b
  | 1 => (e + b) % n
  | 2 => Nat.xor e b
  | _ =>
    let g := min (b / 2 ^ 8 % 32) 11
    let base := e - e % 2 ^ g
    base + ((((e - base : Nat) : Int) + toSigned 8 b) % (2 ^ g : Nat)).toNat

/-- SHFL's and BCAST's scalar or literal b (R111, R112). -/
def Cx.bScalar (cx : Cx) (s : State) : Nat := match cx.lit with | some x => x.toNat | none => (cx.sval s cx.e.b.toNat).toNat % 2 ^ 32

/-- SHFL's effect (R111); a literal takes B's place under either bkind (R28), which is the model's reading (assumption 73). -/
def effShfl (cx : Cx) (s : State) : Eff :=
  let av := cx.avals s
  let n := cx.count s
  let vec := !cx.S && cx.lit.isNone
  .ok (cx.emit s 0 fun p w => [cx.lanesWrite p cx.e.dst.toNat fun l =>
    let e := cx.elem p l
    let j := shflSource (cx.m % 4) n e (if vec then (w.vget cx.e.b.toNat l).toNat else cx.bScalar s)
    match if j < n then av.lookup j else none with
    | some x => x
    | none => if cx.m / 16 % 2 = 0 then w.vget cx.e.a.toNat l else 0])

/-- BCAST's effect (R112), with a literal as in SHFL (assumption 73). -/
def effBcast (cx : Cx) (s : State) : Eff :=
  let av := cx.avals s
  let j := if !cx.S && cx.lit.isNone then (match cx.elems s fun w l => w.vget cx.e.b.toNat l with | x :: _ => x.2.toNat | [] => 0)
    else cx.bScalar s
  .ok (cx.emit s 0 fun p w => [cx.lanesWrite p cx.e.dst.toNat fun l => (av.lookup j).getD (w.vget cx.e.a.toNat l)])

/-! ## RED and SCAN (R113, R78) -/

/-- One step of an operation other than .fadd (R113). -/
def redOp (op : Nat) (x y : Word) : Word :=
  match op with
  | 0 => x + y
  | 1 => if y.toInt < x.toInt then y else x
  | 2 => if x.toInt < y.toInt then y else x
  | 3 => if y.toNat < x.toNat then y else x
  | 4 => if x.toNat < y.toNat then y else x
  | 5 => x &&& y
  | 6 => x ||| y
  | 7 => x ^^^ y
  | _ => BitVec.ofNat 32 (encodeVal .fp32 .rn false 0 (minMaxVal (op = 10) (decodeVal .fp32 x.toNat) (decodeVal .fp32 y.toNat)))

/-- The identity that the first present element of an exclusive SCAN receives (R113). -/
def redIdentity (op : Nat) : Word :=
  match op with
  | 1 => 0x7FFFFFFF | 2 => 0x80000000 | 3 => 0xFFFFFFFF | 5 => 0xFFFFFFFF | 8 => 0x80000000 | 9 => 0x7F800000
  | 10 => 0xFF800000 | _ => 0

/-- One step of an operation (R78, R113); a new element of a lane. -/
def stepOp (op lane : Nat) (pc : Addr54) (x y : Word) : Word := if op = 8 then fadd32 lane pc x y else redOp op x y

/-- One level of the tree (R78) on (index, lowest lane, value), ascending. -/
def treeLevel (pc : Addr54) : List (Nat × Nat × Word) → List (Nat × Nat × Word)
  | (i, l, x) :: (j, m, y) :: r =>
    if i / 2 = j / 2 then (i / 2, l, fadd32 m pc x y) :: treeLevel pc r else (i / 2, l, x) :: treeLevel pc ((j, m, y) :: r)
  | [(i, l, x)] => [(i / 2, l, x)]
  | [] => []

/-- The levels of the tree until one element is left (R78). -/
def treeSum (pc : Addr54) : Nat → List (Nat × Nat × Word) → Word
  | 0, l => match l with | (_, _, x) :: _ => x | [] => 0
  | n + 1, l => match l with
    | [] => 0
    | [(_, _, x)] => x
    | l => treeSum pc n (treeLevel pc l)

/-- RED's result over the present elements (R113). -/
def redAll (op W : Nat) (pc : Addr54) (l : List (Nat × Word)) : Word :=
  if op = 8 then treeSum pc 12 (l.map fun e => (e.1, e.1 % W, e.2))
  else match l with
    | [] => 0
    | e :: r => r.foldl (fun (x : Word) (y : Nat × Word) => redOp op x y.2) e.2

/-- RED's effect (R113). -/
def effRed (cx : Cx) (s : State) : Eff :=
  let x := redAll (cx.m % 16) cx.W cx.pc (cx.avals s)
  .ok (if cx.S then cx.emitScalar s cx.e.dst.toNat (x.zeroExtend 64) else cx.emitElems s fun _ => x)

/-- SCAN's results in ascending e (R113): `prev` is the inclusive result of the last present element. -/
def scanFrom (op W : Nat) (pc : Addr54) (excl : Bool) : Option Word → List (Nat × Word) → List (Nat × Word)
  | _, [] => []
  | none, (e, x) :: r => (e, if excl then redIdentity op else x) :: scanFrom op W pc excl (some x) r
  | some v, (e, x) :: r =>
    let y := stepOp op (e % W) pc v x
    (e, if excl then v else y) :: scanFrom op W pc excl (some y) r

/-- SCAN's effect (R113). -/
def effScan (cx : Cx) (s : State) : Eff :=
  let out := scanFrom (cx.m % 16) cx.W cx.pc (cx.m / 16 % 2 = 1) none (cx.avals s)
  .ok (cx.emitElems s fun e => (out.lookup e).getD 0)

/-! ## VOTE and MATCH (R114, R115) -/

/-- The result of a VOTE other than .mask and .count (R114). -/
def voteOf (op : Nat) (l : List (Nat × Word)) : Bool :=
  let yes := (l.filter fun e => e.2 != 0).length
  match op with
  | 2 => yes = l.length
  | 3 => yes != 0
  | 4 => yes % 2 = 1
  | 5 => l.length < 2 * yes
  | _ => match l with | [] => true | e :: r => r.all fun x => x.2 = e.2

/-- VOTE's effect (R114). -/
def effVote (cx : Cx) (s : State) : Eff :=
  let av := cx.avals s
  let op := cx.m % 8
  let own := fun (e : Nat) => (av.lookup e).getD 0 != 0
  .ok (if op = 0 then
      (if cx.S then cx.emitScalar s cx.e.dst.toNat (setOf ((av.filter fun e => e.2 != 0).map (·.1))) else cx.emitBits s own)
    else if op = 1 then cx.emitScalar s cx.e.dst.toNat (BitVec.ofNat 64 (av.filter fun e => e.2 != 0).length)
    else if cx.S then cx.emitScalar s cx.e.dst.toNat (if voteOf op av then 1 else 0)
    else cx.emitBits s fun _ => voteOf op av)

/-- MATCH's effect (R115). -/
def effMatch (cx : Cx) (s : State) : Eff :=
  let av := cx.elems s fun w l => if cx.m % 2 = 1 then w.vpair cx.e.a.toNat l else (w.vget cx.e.a.toNat l).zeroExtend 64
  let ref := if cx.m / 2 % 2 = 1 then av.getLast? else av.head?
  .ok (cx.emitBits s fun e => (av.lookup e).isSome && av.lookup e = ref.map (·.2))

/-- KAND (R109). -/
def execKand (e : Enc) (s : State) : Host.Outcome State Fault Refusal := s.runLong .kand e (effMask fun a b => a &&& b)
/-- The short form of KAND (R21, R109). -/
def execKandF32 (f : Short) (s : State) : Host.Outcome State Fault Refusal := s.runShort .kand f (effMask fun a b => a &&& b)
/-- KOR (R109). -/
def execKor (e : Enc) (s : State) : Host.Outcome State Fault Refusal := s.runLong .kor e (effMask fun a b => a ||| b)
/-- The short form of KOR (R21, R109). -/
def execKorF32 (f : Short) (s : State) : Host.Outcome State Fault Refusal := s.runShort .kor f (effMask fun a b => a ||| b)
/-- KXOR (R109). -/
def execKxor (e : Enc) (s : State) : Host.Outcome State Fault Refusal := s.runLong .kxor e (effMask fun a b => a ^^^ b)
/-- The short form of KXOR (R21, R109). -/
def execKxorF32 (f : Short) (s : State) : Host.Outcome State Fault Refusal := s.runShort .kxor f (effMask fun a b => a ^^^ b)
/-- KNOT (R109). -/
def execKnot (e : Enc) (s : State) : Host.Outcome State Fault Refusal := s.runLong .knot e (effMask fun a _ => ~~~ a)
/-- The short form of KNOT (R21, R109). -/
def execKnotF32 (f : Short) (s : State) : Host.Outcome State Fault Refusal := s.runShort .knot f (effMask fun a _ => ~~~ a)
/-- KMOV (R109). -/
def execKmov (e : Enc) (s : State) : Host.Outcome State Fault Refusal := s.runLong .kmov e effKmov
/-- The short form of KMOV (R21, R109). -/
def execKmovF32 (f : Short) (s : State) : Host.Outcome State Fault Refusal := s.runShort .kmov f effKmov
/-- KPOP (R109). -/
def execKpop (e : Enc) (s : State) : Host.Outcome State Fault Refusal := s.runLong .kpop e effKpop
/-- KFIRST (R109). -/
def execKfirst (e : Enc) (s : State) : Host.Outcome State Fault Refusal := s.runLong .kfirst e effKfirst
/-- SHFL (R111). -/
def execShfl (e : Enc) (s : State) : Host.Outcome State Fault Refusal := s.runLong .shfl e effShfl
/-- BCAST (R112). -/
def execBcast (e : Enc) (s : State) : Host.Outcome State Fault Refusal := s.runLong .bcast e effBcast
/-- RED (R113). -/
def execRed (e : Enc) (s : State) : Host.Outcome State Fault Refusal := s.runLong .red e effRed
/-- SCAN (R113). -/
def execScan (e : Enc) (s : State) : Host.Outcome State Fault Refusal := s.runLong .scan e effScan
/-- VOTE (R114). -/
def execVote (e : Enc) (s : State) : Host.Outcome State Fault Refusal := s.runLong .vote e effVote
/-- MATCH (R115). -/
def execMatchOp (e : Enc) (s : State) : Host.Outcome State Fault Refusal := s.runLong .matchOp e effMatch

end Sys2Proof.Machine
end

