-- ==== Sys2Proof/Machine/Tables.lean ====
section
/-!
DEFINITION. The scheduler's tables (R289 to R296): what applying a delivered event does to them, the admission pass, and the state
digest.
-/

namespace Sys2Proof.Machine

/-- What an application decides beside the rows, for chips to enact. -/
inductive Effect where
  | gridEnd (grid code : Nat) (g : GridRow)
  | refused (stream : Bool) (record : Attach)
  | opened (row : Nat)
  | freed (row : Nat)
  | suspend (row : Nat) (on : Bool)
  | unblock (grid bid index : Nat) (t : DWord)
  | witness (chip grid bid : Nat) (observed expected : DWord) (subject : Nat)
  | finish (grid bid subject : Nat)
  | out (chip : Nat)
  | announce (joiner sponsor : Nat)
  | enter (joiner : Nat)
deriving DecidableEq, Repr

/-- An application in progress: the tables, the words of the changed block rows (R296), and the effects. -/
structure App where
  t  : Tables
  ch : List DWord := []
  fx : List Effect := []

/-- An application with an effect. -/
def App.emit (a : App) (e : Effect) : App := { a with fx := a.fx ++ [e] }

/-! ## Rows -/

/-- The code of a block state (R296). -/
def BlockSt.code : BlockSt → Nat
  | .free => 0 | .pending => 1 | .placed => 2 | .running => 3 | .parked => 4 | .done => 5 | .faulted => 6 | .lost => 7

/-- A grid row. -/
def Tables.grid (t : Tables) (g : Nat) : GridRow := t.grids.get {} g

/-- The context row that a slot's current opening has (R289). -/
def Tables.ctxRowOf (t : Tables) (slot : Nat) : Nat := t.gens.get 1023 slot * 64 + slot

/-- A context row. -/
def Tables.ctx (t : Tables) (row : Nat) : CtxRow := t.ctxs.get {} row

/-- Tables with a grid row changed. -/
def Tables.updGrid (t : Tables) (g : Nat) (f : GridRow → GridRow) : Tables := { t with grids := t.grids.modify g f }

/-- Whether one block row comes before another: by grid row, then block id. -/
def BlockRow.before (a b : BlockRow) : Bool := a.grid < b.grid || (a.grid = b.grid && a.bid < b.bid)

/-- A block row written, or freed; the change is folded (R296). One that is freed or goes back to PENDING has no warp off-core (R365). -/
def App.setRow (a : App) (r : BlockRow) : App :=
  let rest := a.t.blocks.filter fun x => !(x.grid = r.grid && x.bid = r.bid)
  let word := BitVec.ofNat 64 (r.grid * 2 ^ 48) ^^^ BitVec.ofNat 64 (r.st.code * 2 ^ 40) ^^^ BitVec.ofNat 64 (r.chip % 1024 * 2 ^ 30) ^^^ BitVec.ofNat 64 r.bid
  let k := (r.grid * 2 ^ 32 + r.bid) * 256
  { a with
    t := { a.t with
      blocks := if r.st = .free then rest else insertBy BlockRow.before r rest
      off := if r.st = .free || r.st = .pending then a.t.off.clear k (k + 256) else a.t.off }
    ch := a.ch ++ [word] }

/-- The block rows of a grid, by ascending block id. -/
def Tables.rowsOf (t : Tables) (g : Nat) : List BlockRow := t.blocks.filter fun r => r.grid = g

/-- A change of an edge that is SET. -/
def Tables.updEdge (t : Tables) (e : Nat) (f : Edge → Edge) : Tables := { t with edges := t.edges.modify e f }

/-- The edges that a grid's record names. -/
def GridRow.edgeIn (g : GridRow) : Nat := recField g.record 0xA4 2

/-- The edge that a grid produces. -/
def GridRow.edgeOut (g : GridRow) : Nat := recField g.record 0xA6 2

/-- A live grid ends (R290, R291, R295): code 0 DONE, 1 FAULTED, 2 cancelled. Its rows are freed, its edges given back, and a context
that closes is freed with its last grid. -/
def App.endGrid (a : App) (key : Nat × Nat × Nat) (g code : Nat) : App :=
  let r := a.t.grid g
  if !r.st.live then a
  else
    let a := (a.t.rowsOf g).foldl (fun (a : App) x => a.setRow { x with st := .free }) a
    let new := { r with st := if code = 1 then .faulted else .done, cancelled := code = 2, ended := key, tookIn := false, tookOut := false }
    let t := a.t.updGrid g fun _ => new
    let t := if r.tookIn then t.updEdge r.edgeIn fun e => { e with free := e.free + 1 } else t
    let t := if r.tookOut then t.updEdge r.edgeOut fun e =>
        if code = 0 then { e with ready := e.ready + 1 } else { e with free := e.free + 1 } else t
    let a := { a with t := t }.emit (.gridEnd g code new)
    if (a.t.ctx r.ctxRow).st = .closing && a.t.liveGrids r.ctxRow = 0 then
      { a with t := { a.t with ctxs := a.t.ctxs.modify r.ctxRow fun c => { c with st := .free } } }.emit (.freed r.ctxRow)
    else a

/-- A chip leaves the view (R291): its blocks follow the last column of the block table, then the grids that lost a block end. -/
def App.chipOut (a : App) (key : Nat × Nat × Nat) (c : Nat) (st : ChipSt) : App :=
  let old := a.t.chipSt c
  if old != .member && old != .joining then a
  else
    let a := { a with t := { a.t with chips := a.t.chips.set c { (a.t.chips.get ({} : ChipRow) c) with st := st } } }.emit (.out c)
    let rows := a.t.blocks.filter fun r => r.chip = c && (r.st.held || (r.st = .pending && r.saved))
    let kept := fun (r : BlockRow) => recField (a.t.grid r.grid).record 4 4 / 2 % 2 = 1 && !(a.t.grid r.grid).stream
    let a := rows.foldl (fun (a : App) r => a.setRow (if kept r then { r with st := .pending, saved := false, off := 0 } else { r with st := .lost })) a
    (rows.filter fun r => !kept r).foldl (fun (a : App) r => a.endGrid key r.grid 1) a

/-! ## Events (R283, R291) -/

/-- The record of a stream program's row (R290, R297): one block of one warp at its entry. -/
def streamRecord (m : Msg) : Attach :=
  let entry := bodyField m 8 8
  BitVec.ofNat 4096 (1 + entry % 2 ^ 54 / 4 * 4 * 2 ^ (8 * 8) + bodyField m 0x18 8 * 2 ^ (8 * 0x10) + 2 ^ (8 * 0x20) + 2 ^ (8 * 0x24) + 2 ^ (8 * 0x28)
    + 2 ^ (8 * 0x2D) + entry % 2 ^ 54 * 2 ^ (8 * 0x40) + (msgOrigin m + msgCtx m % 32 * 2 ^ 10) * 2 ^ (8 * 0x48) + msgOseq m % 2 ^ 32 * 2 ^ (8 * 0x4C)
    + 0xFFFFFFFF * 2 ^ (8 * 0xA4) + 2 ^ (8 * 0x180 + entry / 2 ^ 54))

/-- The first key from n on that a map does not hold. -/
def freeKey {α : Type} : Map α → Nat → Nat
  | [], n => n
  | (k, _) :: r, n => if k = n then freeKey r (n + 1) else n

/-- Whether one key of R287 is below another. -/
def keyBefore (a b : Nat × Nat × Nat) : Bool := a.1 < b.1 || (a.1 = b.1 && (a.2.1 < b.2.1 || (a.2.1 = b.2.1 && a.2.2 < b.2.2)))

/-- The grid row that a new grid takes (R290). -/
def Tables.freeGrid (t : Tables) : Option Nat :=
  let n := freeKey t.grids 0
  if n < 65536 then some n
  else (leastBy (fun (a b : Nat × GridRow) => keyBefore a.2.ended b.2.ended) (t.grids.filter fun e => !e.2.st.live)).map (·.1)

/-- A new grid (R290, R291, R295). -/
def App.newGrid (a : App) (e : Ev) (row : Nat) (stream : Bool) (record : Attach) : App :=
  match a.t.freeGrid with
  | none => a.emit (.refused stream record)
  | some n =>
    let m := e.msg
    let g : GridRow := { st := .waiting, ctxRow := row, stamp := msgStamp m, origin := msgOrigin m, oseq := msgOseq m, stream := stream, record := record, arg := BitVec.ofNat 64 (if stream then bodyField m 0x10 8 else 0) }
    let a := { a with t := { a.t with grids := a.t.grids.set n g } }
    let unset := fun (x : Nat) => x != 0xFFFF && (a.t.edges.find x).isNone
    if unset g.edgeIn || unset g.edgeOut then a.endGrid (evKey e) n 1 else a

/-- A kind 5 SUBMIT (R291): ignored while slots are claimed or ready. -/
def App.setEdge (a : App) (m : Msg) : App :=
  let n := bodyField m 2 2
  let cap := bodyField m 4 2
  let busy := match a.t.edges.find n with | some x => x.free != x.cap || x.ready != 0 | none => false
  if 4096 ≤ n || busy then a
  else { a with t := { a.t with edges := if cap = 0 then a.t.edges.del n else a.t.edges.set n { cap := cap, free := cap } } }

/-- A SUBMIT (R289 to R291). -/
def App.submit (a : App) (e : Ev) : App :=
  let m := e.msg
  let kind := bodyField m 0 1
  let slot := msgCtx m
  let row := a.t.ctxRowOf slot
  let c := a.t.ctx row
  if kind = 3 then
    if c.st != .free then a
    else
      let g := (a.t.gens.get 1023 slot + 1) % 1024
      let new : CtxRow := { st := .opened, prio := bodyField m 1 1, dmode := bodyField m 2 1 % 2 = 1, detect := bodyField m 2 1 / 2 % 2 = 1, slice := bodyField m 4 4, desc := bodyField m 8 8 }
      { a with t := { a.t with gens := a.t.gens.set slot g, ctxs := a.t.ctxs.set (g * 64 + slot) new } }.emit (.opened (g * 64 + slot))
  else if c.st != .opened then a
  else if kind = 4 then
    if a.t.liveGrids row = 0 then { a with t := { a.t with ctxs := a.t.ctxs.set row { c with st := .free } } }.emit (.freed row)
    else { a with t := { a.t with ctxs := a.t.ctxs.set row { c with st := .closing } } }
  else if kind = 5 then a.setEdge m
  else if kind = 1 then a.newGrid e row true (streamRecord m)
  else match e.att with
    | some r => a.newGrid e row false r
    | none => a

/-- The row that an event's body names: grid row and block id. -/
def Tables.named (t : Tables) (m : Msg) (goff : Nat) : Option BlockRow := t.row (bodyField m goff 2) (bodyField m 4 4)

/-- FINISH (R290, R291, R381). -/
def App.finish (a : App) (e : Ev) : App :=
  match a.t.named e.msg 0 with
  | none => a
  | some x =>
    if !x.st.held then a
    else
      let a := (a.setRow { x with st := .done }).setRow { x with st := .free }
      let dig := BitVec.ofNat 64 (bodyField e.msg 8 8)
      let a := { a with t := a.t.updGrid x.grid fun g => { g with dones := g.dones + 1, digest := g.digest + foldWords [BitVec.ofNat 64 x.bid, dig] } }
      if gridBlocks (a.t.grid x.grid).record ≤ (a.t.grid x.grid).dones then a.endGrid (evKey e) x.grid 0 else a

/-- FAULT (R291). -/
def App.fault (a : App) (key : Nat × Nat × Nat) (grid bid : Nat) : App :=
  match a.t.row grid bid with
  | none => a
  | some x => if x.st.held then (a.setRow { x with st := .faulted }).endGrid key x.grid 1 else a

/-- BLOCK (R291, R358). -/
def App.block (a : App) (m : Msg) : App :=
  match a.t.named m 0 with
  | none => a
  | some x =>
    if x.st != .running && x.st != .parked then a
    else
      let k := (bodyField m 0 2 * 2 ^ 32 + bodyField m 4 4) * 256 + bodyField m 2 1
      let a := { a with t := { a.t with off := a.t.off.set k (bodyField m 8 8) } }
      a.setRow { x with st := .parked, off := x.off + 1 }

/-- UNBLOCK (R291, R365). -/
def App.unblock (a : App) (m : Msg) : App :=
  match a.t.named m 0 with
  | none => a
  | some x =>
    let k := (bodyField m 0 2 * 2 ^ 32 + bodyField m 4 4) * 256 + bodyField m 2 1
    if x.st != .parked || a.t.off.find k != some (bodyField m 8 8) then a
    else
      let a := { a with t := { a.t with off := a.t.off.del k } }.emit (.unblock x.grid x.bid (bodyField m 2 1) (BitVec.ofNat 64 (bodyField m 8 8)))
      a.setRow { x with st := if x.off ≤ 1 then .running else .parked, off := x.off - 1 }

/-- CANCEL (R291); a kind 0 that names a grid of another context than its own has no effect (assumption 74). -/
def App.cancel (a : App) (e : Ev) : App :=
  let row := a.t.ctxRowOf (msgCtx e.msg)
  let mine := (a.t.grids.filter fun (x : Nat × GridRow) => x.2.st.live && x.2.ctxRow = row).map (·.1)
  let gs := if bodyField e.msg 0 1 = 1 then mine else mine.filter fun g => g = bodyField e.msg 2 2
  gs.foldl (fun (a : App) g => a.endGrid (evKey e) g 2) a

/-- PREEMPT (R291). -/
def App.preempt (a : App) (m : Msg) : App :=
  let row := a.t.ctxRowOf (msgCtx m)
  let act := bodyField m 0 1
  if (a.t.ctx row).st = .free || (act != 1 && act != 2) then a
  else { a with t := { a.t with ctxs := a.t.ctxs.modify row fun c => { c with suspended := act = 1 } } }.emit (.suspend row (act = 1))

/-- The witness of a kind 2 DIGEST (R385). -/
def Tables.witnessOf (t : Tables) (g : GridRow) (subject : Nat) : Option Nat :=
  match (t.candidates g.record).filter fun c => c != subject with
  | c :: _ => some c
  | [] => (t.view.filter fun c => c != subject).head?

/-- DIGEST (R385, R391). -/
def App.digest (a : App) (e : Ev) : App :=
  let m := e.msg
  let kind := bodyField m 0 1
  let result := bodyField m 1 1
  let grid := bodyField m 2 2
  let bid := bodyField m 4 4
  let subject := bodyField m 0x18 2
  if kind = 0x10 then a.chipOut (evKey e) grid .fenced
  else if kind = 3 && result = 0 then a.chipOut (evKey e) subject .fenced
  else if !(a.t.grid grid).st.live then a
  else if kind = 2 then
    match a.t.witnessOf (a.t.grid grid) subject with
    | some c => a.emit (.witness c grid bid (BitVec.ofNat 64 (bodyField m 8 8)) (BitVec.ofNat 64 (bodyField m 0x10 8)) subject)
    | none => a.endGrid (evKey e) grid 1
  else if kind = 3 then
    if result = 1 then a.emit (.finish grid bid subject) else a.fault (evKey e) grid bid
  else a

/-- JOIN (R291, R398, R400). -/
def App.join (a : App) (m : Msg) : App :=
  let c := bodyField m 2 2
  let st := a.t.chipSt c
  if bodyField m 0 1 = 1 then
    let a := if st = .gone || st = .fenced then
        { a with t := { a.t with chips := a.t.chips.set c { (a.t.chips.get ({} : ChipRow) c) with st := .joining } } }
      else a
    if st = .member then a else a.emit (.announce c (bodyField m 4 2))
  else if bodyField m 0 1 = 2 && st != .member then
    { a with t := { a.t with chips := a.t.chips.set c { st := .member, oseq := bodyField m 8 8 } } }.emit (.enter c)
  else a

/-- An event's own transition. -/
def App.event (a : App) (e : Ev) : App :=
  match msgType e.msg with
  | 1 => a.submit e
  | 2 => a.finish e
  | 3 => a.block e.msg
  | 4 => a.unblock e.msg
  | 5 => a.fault (evKey e) (bodyField e.msg 0 2) (bodyField e.msg 4 4)
  | 6 => a.chipOut (evKey e) (msgOrigin e.msg) .gone
  | 7 => a.join e.msg
  | 8 => a.digest e
  | 9 => a.cancel e
  | 10 => a.preempt e.msg
  | _ => a

/-! ## Starts (R290, R291) -/

/-- Streams that run on a control core of a chip. -/
def Tables.streamsOn (t : Tables) (chip cc : Nat) : Nat :=
  (t.blocks.filter fun r => r.chip = chip && (r.st = .running || r.st = .parked) && (t.grid r.grid).stream && (t.grid r.grid).ctxRow % 32 = cc).length

/-- Whether a stamp is at or after a grid's start. -/
def GridRow.due (g : GridRow) (stamp : Nat) : Bool := recField g.record 0x38 8 ≤ stamp

/-- A grid row after its start transition. -/
def GridRow.started (g : GridRow) (stamp : Nat) : GridRow :=
  if g.st = .admitted && g.due stamp then { g with st := .running } else g

/-- A PLACED block row's start transition; a seventeenth stream program of a control core stays PLACED. -/
def App.startRow (a : App) (r : BlockRow) : App :=
  let g := a.t.grid r.grid
  if g.stream && 16 ≤ a.t.streamsOn r.chip (g.ctxRow % 32) then a else a.setRow { r with st := .running }

/-- The start transitions that a stamp triggers: of grid rows, then of PLACED block rows. -/
def App.start (a : App) (stamp : Nat) : App :=
  let t : Tables := { a.t with grids := a.t.grids.map fun (e : Nat × GridRow) => (e.1, e.2.started stamp) }
  (t.blocks.filter fun (r : BlockRow) => r.st = .placed && (t.grid r.grid).due stamp).foldl App.startRow { a with t := t }

/-! ## The admission pass (R293, R294) -/

/-- Warps of a grid's block as the tables count them (R293). -/
def GridRow.warps (g : GridRow) : Nat := recField g.record 0x2D 1

/-- A chip's committed warp slots (R293). -/
def Tables.committed (t : Tables) (c : Nat) : Nat :=
  t.blocks.foldl (fun (n : Nat) r => if r.st.held && r.chip = c then n + (t.grid r.grid).warps else n) 0

/-- Whether a grid is a gang. -/
def GridRow.gang (g : GridRow) : Bool := !g.stream && recField g.record 4 4 % 2 = 1

/-- Whether a grid has blocks to place. -/
def Tables.wants (t : Tables) (n : Nat) (g : GridRow) : Bool :=
  g.next < gridBlocks g.record || (t.rowsOf n).any fun r => r.st = .pending

/-- Why a plan ends. -/
inductive PlanEnd where
  | all | room | rows
deriving DecidableEq, Repr

/-- The chip for a block (R293): the one that saved it; in D-mode by its logical core; otherwise the one with the fewest committed
slots. -/
def choosePlace (dmode : Bool) (cores : Nat) (comm : Map Nat) (bid : Nat) (saved : Option Nat) : Option Nat :=
  match saved with
  | some c => if (comm.find c).isSome then some c else none
  | none =>
    if dmode then (comm[bid % cores % max 1 comm.length]?).map (·.1)
    else (leastBy (fun (a b : Nat × Nat) => a.2 < b.2) comm).map (·.1)

/-- Places a list of blocks, each with the chip that saved it where one did, while their chips can take them. -/
def planList (dmode : Bool) (cores warps : Nat) : Map Nat → List (Nat × Option Nat) → List (Nat × Nat) × Map Nat × PlanEnd
  | comm, [] => ([], comm, .all)
  | comm, (bid, saved) :: r =>
    match choosePlace dmode cores comm bid saved with
    | none => ([], comm, .room)
    | some c =>
      if 4096 < comm.get 0 c + warps then ([], comm, .room)
      else
        let (l, m, x) := planList dmode cores warps (comm.set c (comm.get 0 c + warps)) r
        ((bid, c) :: l, m, x)

/-- Places blocks without rows from `bid` on, `n` of them, while rows and room last. -/
def planNew (dmode : Bool) (cores warps : Nat) : Nat → Nat → Nat → Map Nat → List (Nat × Nat) × PlanEnd
  | 0, _, _, _ => ([], .all)
  | n + 1, bid, rows, comm =>
    if rows = 0 then ([], .rows)
    else match choosePlace dmode cores comm bid none with
      | none => ([], .room)
      | some c =>
        if 4096 < comm.get 0 c + warps then ([], .room)
        else
          let (l, x) := planNew dmode cores warps n (bid + 1) (rows - 1) (comm.set c (comm.get 0 c + warps))
          ((bid, c) :: l, x)

/-- The blocks of a grid in the order of R293 with their chips, until one cannot be placed. -/
def Tables.plan (t : Tables) (n : Nat) (g : GridRow) (comm : Map Nat) : List (Nat × Nat) × PlanEnd :=
  let dmode := (t.ctx g.ctxRow).dmode && !g.stream
  let cores := lcoresOf g.record
  let pend := (t.rowsOf n).filter fun r => r.st = .pending
  let (l1, comm1, x1) := planList dmode cores g.warps comm
    ((pend.filter (·.saved)).map (fun r => (r.bid, some r.chip)) ++ (pend.filter fun r => !r.saved).map fun r => (r.bid, none))
  if x1 != .all then (l1, x1)
  else
    let (l2, x2) := planNew dmode cores g.warps (gridBlocks g.record - g.next) g.next (2 ^ 20 - t.blocks.length) comm1
    (l1 ++ l2, x2)

/-- Places the blocks of a plan; the first placement of a grid takes its edge slots (R293, R295). A grid whose start is 0 is RUNNING in
this pass already; its block rows, and other grids, start with a later event (R291). -/
def App.commit (a : App) (stamp n : Nat) (l : List (Nat × Nat)) : App :=
  if l.isEmpty then a
  else
    let a := l.foldl (fun (a : App) (p : Nat × Nat) =>
      let old := (a.t.row n p.1).getD { grid := n, bid := p.1 }
      let a := { a with t := a.t.updGrid n fun g => { g with next := max g.next (p.1 + 1) } }
      a.setRow { old with st := .placed, chip := p.2, since := stamp }) a
    let g := a.t.grid n
    if g.st != .waiting then a
    else
      let took := fun (e : Nat) => e != 0xFFFF
      let t := if took g.edgeOut then a.t.updEdge g.edgeOut fun e => { e with free := e.free - 1 } else a.t
      let t := if took g.edgeIn then t.updEdge g.edgeIn fun e => { e with ready := e.ready - 1 } else t
      { a with t := t.updGrid n fun g => { g with st := if recField g.record 0x38 8 = 0 then .running else .admitted, tookIn := took g.edgeIn, tookOut := took g.edgeOut } }

/-- The edge gate of a WAITING grid (R293). -/
def Tables.gate (t : Tables) (g : GridRow) : Bool :=
  g.st != .waiting || ((g.edgeOut = 0xFFFF || (t.edges.find g.edgeOut).any fun e => 0 < e.free)
    && (g.edgeIn = 0xFFFF || (t.edges.find g.edgeIn).any fun e => 0 < e.ready))

/-- Whether one victim is taken before another (R294): lowest priority, newest SUBMIT, highest block id. -/
def Tables.victimBefore (t : Tables) (x y : BlockRow) : Bool :=
  let gx := t.grid x.grid
  let gy := t.grid y.grid
  let px := (t.ctx gx.ctxRow).prio
  let py := (t.ctx gy.ctxRow).prio
  let kx := (gx.stamp, gx.origin, gx.oseq)
  let ky := (gy.stamp, gy.origin, gy.oseq)
  px < py || (px = py && (keyBefore ky kx || (kx = ky && y.bid < x.bid)))

/-- The victims of a grid in order, a gang's blocks together (R294). -/
def Tables.victimGroups (t : Tables) (g : GridRow) : List (List BlockRow) :=
  let cands := t.candidates g.record
  let vs := t.blocks.filter fun r => r.st = .running && cands.contains r.chip && !(t.grid r.grid).stream
    && (t.ctx (t.grid r.grid).ctxRow).prio < (t.ctx g.ctxRow).prio
  (sortBy t.victimBefore vs).foldl (fun (l : List (List BlockRow)) r =>
    if (t.grid r.grid).gang then
      if l.any fun x => x.any fun y => y.grid = r.grid then l else l ++ [(t.rowsOf r.grid).filter fun x => x.st = .running]
    else l ++ [[r]]) []

/-- The warps that candidates would hold without some blocks. -/
def Tables.commWithout (t : Tables) (cands : List Nat) (gone : List BlockRow) : Map Nat :=
  cands.map fun c => (c, t.committed c - (gone.filter fun r => r.chip = c).foldl (fun n r => n + (t.grid r.grid).warps) 0)

/-- The fewest victims, in order, that make room for a grid's next block, or for the whole of a gang (R294). -/
def Tables.victims (t : Tables) (n : Nat) (g : GridRow) (cands : List Nat) : List BlockRow → List (List BlockRow) → Option (List BlockRow)
  | _, [] => none
  | taken, x :: r =>
    let taken := taken ++ x
    let (l, why) := t.plan n g (t.commWithout cands taken)
    if (if g.gang then why = .all else !l.isEmpty) then some taken else Tables.victims t n g cands taken r

/-- How one grid's turn in the pass ends. -/
inductive PassEnd where
  | on (a : App) | stop (a : App) | again (a : App)

/-- One grid's turn in the admission pass (R293, R294). -/
def App.passGrid (a : App) (key : Nat × Nat × Nat) (stamp n : Nat) : PassEnd :=
  let g := a.t.grid n
  let cands := a.t.candidates g.record
  if !g.st.live then .on a
  else if cands.isEmpty then .on (a.endGrid key n 1)
  else if !a.t.gate g then .on a
  else
    let (l, why) := a.t.plan n g (a.t.commWithout cands [])
    let a := a.commit stamp n (if g.gang && why != .all then [] else l)
    match why with
    | .all => .on a
    | .rows => .stop a
    | .room =>
      let g := a.t.grid n
      match a.t.victims n g cands [] (a.t.victimGroups g) with
      | some vs => .again (vs.foldl (fun (a : App) r => a.setRow { r with st := .pending, saved := true }) a)
      | none => if g.gang then .stop a else .on a

/-- The grids of the pass in their order (R293). -/
def Tables.passOrder (t : Tables) : List Nat :=
  (sortBy (fun (a b : Nat × GridRow) =>
    let pa := (t.ctx a.2.ctxRow).prio
    let pb := (t.ctx b.2.ctxRow).prio
    pb < pa || (pa = pb && keyBefore (a.2.stamp, a.2.origin, a.2.oseq) (b.2.stamp, b.2.origin, b.2.oseq)))
    (t.grids.filter fun (e : Nat × GridRow) => e.2.st.live && !(t.ctx e.2.ctxRow).suspended && t.wants e.1 e.2)).map (·.1)

/-- The pass over a list of grids. -/
def App.passList (a : App) (key : Nat × Nat × Nat) (stamp : Nat) : List Nat → PassEnd
  | [] => .stop a
  | n :: r => match a.passGrid key stamp n with
    | .on a => App.passList a key stamp r
    | x => x

/-- The admission pass; each run that begins again has taken a victim that was RUNNING. -/
def App.pass (key : Nat × Nat × Nat) (stamp : Nat) : Nat → App → App
  | 0, a => a
  | fuel + 1, a => match a.passList key stamp a.t.passOrder with
    | .on a | .stop a => a
    | .again a => App.pass key stamp fuel a

/-! ## Application (R288 to R296, R388) -/

/-- The eight words of a message. -/
def msgWords (m : Msg) : List DWord := wordsOf64 m.toNat 8

/-- Applies an event: the starts it triggers, its own transition, the admission pass, and the state digest; a JOIN enter resets the digest
instead, but one of a chip that is a member already, which changes nothing and is only folded. -/
def Tables.apply (t : Tables) (e : Ev) : Tables × List Effect :=
  let stamp := msgStamp e.msg
  let a := ({ t := t : App }.start stamp).event e
  let lossy := msgType e.msg = 6
  let entered : Bool := msgType e.msg = 7 && bodyField e.msg 0 1 = 2 && t.chipSt (bodyField e.msg 2 2) != .member
  let c := msgOrigin e.msg
  let a := if lossy then a else { a with t := { a.t with chips := a.t.chips.modify c fun r => { r with oseq := (msgOseq e.msg + 1) % 2 ^ 38 } } }
  let a := if entered then { a with t := { a.t with chips := a.t.chips.modify (bodyField e.msg 2 2) fun r => { r with oseq := bodyField e.msg 8 8 } } } else a
  let a := App.pass (evKey e) stamp (a.t.blocks.length + 1) a
  if entered then ({ a.t with sd := 0, position := 0 }, a.fx)
  else
    let h := a.ch.foldl (fun (h : DWord) d => mix64 (h ^^^ d)) (foldWords (msgWords e.msg))
    ({ a.t with sd := mix64 (a.t.sd + h), position := a.t.position + 1 }, a.fx)

end Sys2Proof.Machine
end

