-- ==== Sys2Proof/Machine/Wire.lean ====
section
/-!
DEFINITION. The porter on the wire: binding queues (R322 to R324), sending and retransmitting packets (R325, R328, R329, R339), and
answering them (R325, R328 to R332).
-/

namespace Sys2Proof.Machine

/-! ## Binding (R323, R324) -/

/-- A field of a 64-byte command. -/
def cmdField (m : Msg) (off size : Nat) : Nat := fieldAt m.toNat off size

/-- Whether a context slot is open on the chip with a generation. -/
def State.openGen (s : State) (slot gen : Nat) : Bool := (s.ctxs.find slot).any fun c => c.gen = gen

/-- A queue's QPN on the wire (R323). -/
def Queue.qpn (x : Queue) (q : Nat) : Nat := x.inc * 256 + q

/-- Unbinds a queue (R323): what is outstanding ends FLUSHED, its posted requests go. -/
def State.unbindQueue (s : State) (q : Nat) : State :=
  if (s.queue q).st = .unbound then s
  else
    let s := s.errorQueue q
    ({ s with posted := s.posted.filter fun p => p.queue != q }).updQueue q fun x => { x with st := .unbound, unboundAt := some s.clock.time, replay := [], ackDue := none, writing := none, sending := [], unsent := [] }

/-- Binds a queue (R323, R339). -/
def State.bindQueue (s : State) (m : Msg) : State :=
  let q := cmdField m 1 1
  s.updQueue q fun x => { st := .ready, inc := if x.inc = 65535 then 1 else x.inc + 1, slot := cmdField m 2 1, gen := cmdField m 4 2, port := cmdField m 3 1, chip := cmdField m 6 2 % 1024, rqpn := cmdField m 8 4, rkey := BitVec.ofNat 32 (cmdField m 0x14 4), ring := BitVec.ofNat 64 (cmdField m 0x18 8), gid := BitVec.ofNat 128 (cmdField m 0x20 16), spsn := cmdField m 0xC 4, epsn := cmdField m 0x10 4, rate := 1600000, alpha := 65536, bucket := 0, filledAt := s.clock.time, periodAt := s.clock.time }

/-- Whether a porter control command is well formed and fits its queue's state (R324). -/
def State.controlOk (s : State) (m : Msg) : Bool :=
  let x := s.queue (cmdField m 1 1)
  let op := cmdField m 0 1
  s.openGen (cmdField m 2 1) (cmdField m 4 2)
    && (match op with
      | 1 => x.st = .unbound && cmdField m 3 1 ≤ 16 && cmdField m 8 4 < 2 ^ 24 && cmdField m 0xC 4 < 2 ^ 24 && cmdField m 0x10 4 < 2 ^ 24
          && (cmdField m 3 1 = 16 || (cmdField m 6 2 < 1024 && cmdField m 0x20 16 = 0))
      | 2 => x.st != .unbound
      | 3 => x.st = .error
      | _ => false)

/-- The answer to a porter control command (R322). -/
def State.answerControl (s : State) (m : Msg) (status : Nat) : State :=
  let q := cmdField m 1 1
  s.answerHost 2 (BitVec.ofNat 512 (setField (setField m.toNat 0x38 1 status) 0x3C 4 ((s.queue q).qpn q)))

/-- Whether a bind has to wait for 1 ms after its queue's last unbind (R323). -/
def State.bindWaits (s : State) (m : Msg) : Bool :=
  cmdField m 0 1 = 1 && s.controlOk m && (match (s.queue (cmdField m 1 1)).unboundAt with
    | some t => s.clock.time < t + 1000 * usTicks
    | none => false)

/-- Performs a porter control command and answers it. -/
def State.control (s : State) (m : Msg) : State :=
  if !s.controlOk m then s.answerControl m 1
  else
    let q := cmdField m 1 1
    let s := match cmdField m 0 1 with
      | 1 => s.bindQueue m
      | 2 => s.unbindQueue q
      | _ => s.updQueue q fun x => { x with st := .ready, times := [], retries := 0, resend := none }
    s.answerControl m 0

/-- Performs the commands that wait on the porter control queue, up to a bind whose moment has not come. -/
def State.drainControl (s : State) : List Msg → State
  | [] => { s with binds := [] }
  | m :: r => if s.bindWaits m then { s with binds := m :: r } else State.drainControl (s.control m) r

/-- Whether firmware has bound the well-known queue pairs (R322, R432). -/
def State.booted (s : State) : Bool := s.platform.boot != .rom && s.platform.boot != .firmware

/-- A command arrives on the porter control queue: it is performed behind those that wait (R322, R323). -/
def State.controlArrives (s : State) (m : Msg) : State := if s.booted then s.drainControl (s.binds ++ [m]) else s

/-- Firmware binds the well-known queue pairs to the host endpoint of its configuration (R322, R432). -/
def State.bindWellKnown (s : State) : State :=
  (List.range 3).foldl (fun (s : State) k =>
    s.updQueue (256 + k) fun _ => { st := .ready, port := 16, rqpn := s.platform.config.hostQpns.getD k 0, gid := s.platform.config.hostGid, rate := 1600000, alpha := 65536, filledAt := s.clock.time, periodAt := s.clock.time }) s

/-- BIND (R323, R324). -/
def execBind (m : Msg) (s : State) : Host.Outcome State Fault Refusal := .next (s.controlArrives m)
/-- UNBIND (R323, R324). -/
def execUnbind (m : Msg) (s : State) : Host.Outcome State Fault Refusal := .next (s.controlArrives m)
/-- RESET (R323, R324). -/
def execReset (m : Msg) (s : State) : Host.Outcome State Fault Refusal := .next (s.controlArrives m)
/-- BIND_DELAY (R323): a bind that waited is performed once its moment has come, with the commands behind it. -/
def execBindDelay (s : State) : Host.Outcome State Fault Refusal := .next (s.drainControl s.binds)

/-! ## Packets -/

/-- A packet with empty fields. -/
def emptyPacket : Packet := { intact := true, form := true, ect := false, src := 0, dst := 0, pkey := 0xFFFF, qpn := 0, psn := 0, addr := 0, rkey := 0, len := 0, first := true, last := true, data := [], swapAdd := 0, compare := 0, code := 0, echo := 0, ce := false }

/-- A PSN some packets on (R328). -/
def psnAdd (p n : Nat) : Nat := (p + n) % 2 ^ 24

/-- How far one PSN is behind another. -/
def psnSub (a b : Nat) : Nat := (a + 2 ^ 24 - b % 2 ^ 24) % 2 ^ 24

/-- The PSN of the oldest packet that no ACK covers. -/
def Queue.oldest (x : Queue) : Nat := psnSub x.spsn x.times.length

/-- The GID of a chip on the fabric (R320): the pod prefix, and the chip's number as interface identifier. -/
def State.fabricGid (s : State) (chip : Nat) : BitVec 128 := s.platform.config.podPrefix ++ BitVec.ofNat 64 chip

/-- Sends a packet of a queue through its port (R320): between the GIDs of the two ends, its data packets ECT(0) (assumption 66). -/
def State.sendPacket (s : State) (q op : Nat) (p : Packet) : State :=
  let x := s.queue q
  let host : Bool := x.port = 16
  s.send (.packet q op { p with ect := op ≤ 6, src := if host then s.platform.config.portGid else s.fabricGid s.chip, dst := if host then x.gid else s.fabricGid x.chip })

/-- Whether a received frame is taken (R320, R321): nothing of it is damaged and its P_Key is 0xFFFF. -/
def takenFrame (p : Packet) : Bool := p.intact && p.pkey = 0xFFFF

/-- The well-known queue pair that a packet names and whose other end sends it: one of port H from the host endpoint (R322), or 0x20 of a fabric
port from the chip at its other end (R399). -/
def State.wellKnownQueue (s : State) (p : Packet) : Nat :=
  let n := p.qpn.toNat
  let c := p.src.toNat % 1024
  if 0x10 ≤ n && n ≤ 0x12 && p.dst = s.platform.config.portGid && p.src = s.platform.config.hostGid then 256 + (n - 0x10)
  else if n = 0x20 && p.src = s.fabricGid c && p.dst = s.fabricGid s.chip then 512 + c
  else 2047

/-- The queue that a packet's destination names: none where its incarnation is not the current one (R328), or a well-known queue pair is not bound
to its sender. -/
def State.target (s : State) (p : Packet) : Option Nat :=
  let n := p.qpn.toNat
  let q := if n < 256 then s.wellKnownQueue p else n % 256
  if takenFrame p && (s.queue q).st != .unbound && (n < 256 || n / 256 = (s.queue q).inc) then some q else none

/-- A packet that its queue receives, counted, and its CE mark with it (R339). -/
def State.heardPacket (s : State) (q : Nat) (p : Packet) : State :=
  let s := s.countDie 0 25
  if p.ce then (s.updQueue q fun x => { x with ce := x.ce + 1 }).countDie 0 27 else s

/-! ## Translating chunks (R315, R325) -/

/-- How an engine's range ends. -/
inductive Chunks where
  | ok (l : List (Nat × Nat))
  | mig (va : Nat)
  | bad (code va : Nat)

/-- A translation by an engine that may be in the middle of a chunk (R315). -/
def State.inChunk (s : State) (ctx va : Nat) (acc : Access) : Option (Nat × Nat) → Trans
  | some (c, base) => if c = va / 65536 then .ok (base + va % 65536) else s.translateEngine ctx va acc
  | none => s.translateEngine ctx va acc

/-- The pieces of a range of virtual bytes: physical address and length, each inside one 64-byte sector, every chunk translated. -/
def State.chunks (s : State) (ctx : Nat) (acc : Access) (held : Option (Nat × Nat)) : Nat → Nat → Nat → Chunks
  | 0, _, _ => .ok []
  | fuel + 1, va, n =>
    if n = 0 then .ok []
    else
      let k := min n (64 - va % 64)
      match s.inChunk ctx (va % 2 ^ 54) acc held with
      | .migrating => .mig (va % 2 ^ 54)
      | .pageFault => .bad Code.pageFault (va % 2 ^ 54)
      | .permission => .bad Code.permission (va % 2 ^ 54)
      | .ok pa => match State.chunks s ctx acc held fuel (va + k) (n - k) with
        | .ok l => .ok ((pa, k) :: l)
        | x => x

/-- The pieces of a whole range, each chunk translated afresh. -/
def State.range (s : State) (ctx : Nat) (acc : Access) (va n : Nat) : Chunks := s.chunks ctx acc none (n / 64 + 2) va n

/-- The pieces of a range of a command that may be in the middle of a chunk. -/
def State.rangeOf (s : State) (ctx : Nat) (acc : Access) (c : Cmd) (va n : Nat) : Chunks := s.chunks ctx acc c.chunk (n / 64 + 2) va n

/-- The chunk that a command is in the middle of once it has passed n bytes from va on, with `left` bytes to go (R315). -/
def chunkAfter (va n left : Nat) (l : List (Nat × Nat)) : Option (Nat × Nat) :=
  let e := va + n - 1
  match l.getLast? with
  | some (pa, k) => if left = 0 || n = 0 || (e + 1) % 65536 = 0 then none else some (e % 2 ^ 54 / 65536, pa + k - 1 - e % 65536)
  | none => none

/-- Reads pieces. -/
def State.readPieces (s : State) : List (Nat × Nat) → List Byte × State
  | [] => ([], s)
  | (pa, k) :: r =>
    let (b, s) := s.loadGlb pa k
    let (bs, s) := State.readPieces s r
    (b ++ bs, s)

/-- Writes pieces: a landing counts as a store (R325). -/
def State.writePieces (s : State) : List (Nat × Nat) → List Byte → State
  | [], _ => s
  | (pa, k) :: r, bs => State.writePieces (s.storeGlb pa (bs.take k)) r (bs.drop k)

/-- How many bytes of a range come before its first piece that an uncorrectable error marks (R427): none where no piece is marked. -/
def State.badPiece (s : State) : List (Nat × Nat) → Option Nat
  | [] => none
  | (pa, k) :: r => if s.locError none k (.glb pa) then some 0 else (State.badPiece s r).map (k + ·)

/-! ## The requester -/

/-- The chunk that a byte of a local or remote operand lies in, as a pod address. -/
def chunkOf (chip va : Nat) : DWord := BitVec.ofNat 64 (chip * 2 ^ 54 + va / 65536 * 65536)

/-- FORMAT_WINDOW in the block that placed a command, for the pieces of its local operand that lie in a window that is off (R319). -/
def State.windowFaults (s : State) (c : Cmd) (write : Bool) : Nat → List (Nat × Nat) → State
  | _, [] => s
  | va, (pa, k) :: r =>
    let s := match c.blk with
      | some b => if s.resident b then s.holdWindow b (BitVec.ofNat 64 (s.chip * 2 ^ 54 + va % 2 ^ 54)) write pa else s
      | none => s
    State.windowFaults s c write (va + k) r

/-- A queue's bucket filled up to now (R339): in units of 1/10,000 byte, at r Mb/s and 0.8 ns a tick, at most 4 KiB. -/
def Queue.fill (x : Queue) (now : Nat) : Queue :=
  { x with bucket := min (4096 * 10000) (x.bucket + x.rate * (now - x.filledAt)), filledAt := now }

/-- The command whose packet a queue sends next: the first with packets left, not behind a PCOUNT (R326, R333). -/
def nextToSend : List Cmd → Option Cmd
  | [] => none
  | c :: r => match c.kind with
    | .pcount _ _ => none
    | _ => if c.sent < c.packets then some c else nextToSend r

/-- What a packet of a command carries (R325). -/
inductive Payload where
  | ok (op : Nat) (p : Packet) (chunk : Option (Nat × Nat)) (s : State)
  | mig (va : Nat)
  | bad (code va : Nat)

/-- The bytes from an offset of a PUT's source on. -/
def State.putBytes (s : State) (x : Queue) (c : Cmd) (off n : Nat) : Payload :=
  if c.forward then .ok 1 { emptyPacket with data := (c.data.drop off).take n } none s
  else match s.rangeOf x.slot .read c (va54 c.local_ + off) n with
    | .mig va => .mig va
    | .bad code va => .bad code va
    | .ok l => match s.badPiece l with
      | some k => .bad Code.machineCheck (va54 c.local_ + off + k)
      | none =>
        let (bs, s) := (s.windowFaults c false (va54 c.local_ + off) l).readPieces l
        .ok 1 { emptyPacket with data := bs } (chunkAfter (va54 c.local_ + off) n (c.len - off - n) l) s

/-- The next packet of a command, but for its QPN and PSN. -/
def State.payload (s : State) (x : Queue) (c : Cmd) : Payload :=
  let base : Packet := { emptyPacket with addr := if x.port = 16 then c.remote else BitVec.ofNat 64 (va54 c.remote), rkey := x.rkey, len := c.len }
  match c.kind with
  | .put none =>
    let off := 4096 * c.sent
    match s.putBytes x c off (min 4096 (c.len - off)) with
    | .ok _ p h s => .ok 1 { base with data := p.data, first := c.sent = 0, last := c.sent + 1 = c.packets } h s
    | y => y
  | .put (some tag) => match s.putBytes x c 0 c.len with
    | .ok _ p h s => .ok 5 { base with addr := 0, data := bytesOf 4 tag.toNat ++ bytesOf 4 0 ++ p.data } h s
    | y => y
  | .get => .ok 2 base none s
  | .patom false v _ => .ok 3 { base with swapAdd := v } none s
  | .patom true v w => .ok 4 { base with compare := v, swapAdd := w } none s
  | .send => .ok 5 { base with addr := 0, data := c.data } none s
  | .pcount _ _ => .bad 0 0

/-! ## Answers (R338, R339) -/

/-- The number of the first packet of a queue whose arrival holds its ACK (R338). -/
def State.heldFrom (s : State) (q : Nat) : Option Nat :=
  (s.jobs.find? fun j => j.queue = some q && j.inc = (s.queue q).inc && j.arrival).map (·.psn)

/-- Whether an answer of a number covers a held arrival too, so that it waits for it (R338, assumption 68). -/
def heldBack (h : Option Nat) (psn : Nat) : Bool := h.any fun a => psnSub psn a < 2 ^ 23

/-- The bytes of a packet that pacing counts: its payload. -/
def packetSize (op : Nat) (p : Packet) : Nat := if op = 1 || op = 5 || op = 6 then p.data.length else 0

/-- The answer of a queue that goes next: the first that no arrival holds. -/
def State.nextAnswer (s : State) (q : Nat) : Option (Nat × Packet) :=
  (s.queue q).unsent.find? fun e => !heldBack (s.heldFrom q) e.2.psn.toNat

/-- An answer leaves. -/
def State.sendAnswer (s : State) (q : Nat) (e : Nat × Packet) : State :=
  (s.updQueue q fun x => { x with unsent := x.unsent.erase e }).sendPacket q e.1 e.2

/-- The answers without payload that nothing holds, and that stand behind none with payload, leave at once. -/
def State.flushAnswers (q : Nat) : Nat → State → State
  | 0, s => s
  | n + 1, s => match s.nextAnswer q with
    | some e => if packetSize e.1 e.2 = 0 then State.flushAnswers q n (s.sendAnswer q e) else s
    | none => s

/-- Sends an answer on a queue: behind those that wait, for an arrival that holds its ACK (R338), or for the queue's pace (R339). -/
def State.reply (s : State) (q op psn : Nat) (f : Packet → Packet) : State :=
  let p := f { emptyPacket with qpn := BitVec.ofNat 24 (s.queue q).rqpn, psn := BitVec.ofNat 24 psn }
  State.flushAnswers q ((s.queue q).unsent.length + 1) (s.updQueue q fun x => { x with unsent := x.unsent ++ [(op, p)] })

/-! ## Pacing (R339) -/

/-- The payload of a command's next packet (R325). -/
def Cmd.nextSize (c : Cmd) : Nat :=
  match c.kind with
  | .put none => min 4096 (c.len - 4096 * c.sent)
  | .put (some _) => c.len + 8
  | .send => c.len
  | _ => 0

/-- The payload of the packet that a queue would send next, an answer before a command; none where nothing can go. -/
def State.nextSize (s : State) (q : Nat) : Option Nat :=
  let x := s.queue q
  match s.nextAnswer q with
  | some e => some (packetSize e.1 e.2)
  | none =>
    if x.st != .ready || x.resend.isSome || s.recordWaits q then none
    else match nextToSend x.cmds with
      | some c => if c.mig.isSome then none else some c.nextSize
      | none => none

/-- Whether pacing admits a packet of a queue: its bucket holds the packet's size. -/
def State.admitted (s : State) (q : Nat) : Bool :=
  (s.nextSize q).any fun n => n * 10000 ≤ ((s.queue q).fill s.clock.time).bucket

/-- Whether it is a queue's turn at its port, which serves the admitted ones round-robin: none stands between the queue served last and it. -/
def State.portTurn (s : State) (q : Nat) : Bool :=
  let port := (s.queue q).port
  let away := fun (r : Nat) => (r + 2047 - s.served.get 2047 port) % 2048
  s.admitted q && s.queues.all fun (e : Nat × Queue) => e.2.port != port || !s.admitted e.1 || away q ≤ away e.1

/-- A port has served a queue with a packet of n payload bytes. -/
def State.serveQueueAt (s : State) (q n : Nat) : State :=
  { s with served := s.served.set (s.queue q).port q }.updQueue q fun x =>
    let y := x.fill s.clock.time
    { y with bucket := y.bucket - n * 10000 }

/-- PACED_PACKET_SEND (R325, R339): in its turn at its port, a queue sends its next packet when its bucket holds the packet's size. -/
def execPacedPacketSend (q : Nat) (s : State) : Host.Outcome State Fault Refusal :=
  let x := s.queue q
  if !s.portTurn q then .next s
  else match s.nextAnswer q with
    | some e => .next (State.flushAnswers q x.unsent.length ((s.serveQueueAt q (packetSize e.1 e.2)).sendAnswer q e))
    | none => match nextToSend x.cmds with
      | none => .next s
      | some c => match s.payload x c with
        | .mig va => .next (s.updCmd q c.id fun c => { c with mig := some (BitVec.ofNat 54 va) })
        | .bad code va =>
          let s := s.failCmd q c 7 code (some (chunkOf s.chip va))
          .next (if code = Code.machineCheck then (match c.blk with | some b => s.orderMachineCheck b 0xFFFF | none => s) else s)
        | .ok op p h t =>
          let t := (t.serveQueueAt q p.data.length).updQueue q fun x => { x with spsn := psnAdd x.spsn 1, times := x.times ++ [s.clock.time] }
          let t := t.updCmd q c.id fun c => { c with sent := c.sent + 1, chunk := h }
          .next ((t.countDie 0 24).sendPacket q op { p with qpn := BitVec.ofNat 24 x.rqpn, psn := BitVec.ofNat 24 x.spsn })

/-- Go-back-N (R328): what no ACK covers is to be sent again. -/
def State.goBack (s : State) (q : Nat) : State :=
  let n := (s.queue q).times.length
  (s.updQueue q fun x => { x with spsn := x.oldest, times := [], cmds := x.cmds.map fun c => { c with sent := c.acked, got := if c.packets ≤ c.acked then c.got else 0, chunk := none } }).countDie 0 (if n = 0 then 63 else 26)

/-- The command that the oldest packet without an ACK belongs to. -/
def Queue.oldestCmd (x : Queue) : Option Cmd := x.cmds.find? fun c => c.acked < c.packets

/-- A retransmission, or RETRY_EXCEEDED after the seventh of one PSN without progress (R328). -/
def State.retransmit (s : State) (q : Nat) : State :=
  let x := s.queue q
  if 7 ≤ x.retries then
    match x.oldestCmd with
    | some c => s.failCmd q c 3 0 none
    | none => s
  else (s.updQueue q fun x => { x with retries := x.retries + 1 }).goBack q

/-- RETRANSMIT_TIMEOUT (R328): no ACK has covered the oldest packet for 32 µs. -/
def execRetransmitTimeout (q : Nat) (s : State) : Host.Outcome State Fault Refusal :=
  let x := s.queue q
  match x.times with
  | [] => .next s
  | t :: _ =>
    if x.st != .ready || s.clock.time < t + 40000 || x.cmds.any (fun c => c.mig.isSome) then .next s else .next (s.retransmit q)

/-- Commands with n packets covered by an ACK; one that needs an answer of its own stops it. The rest of n comes back. -/
def ackCmds : Nat → List Cmd → List Cmd × Nat
  | n, [] => ([], n)
  | n, c :: r =>
    if n = 0 then (c :: r, 0)
    else
      let stop : Bool := match c.kind with | .get | .patom _ _ _ => c.acked < c.sent | _ => false
      let k := min n (c.sent - c.acked)
      if stop then (c :: r, n)
      else
        let (l, m) := ackCmds (n - k) r
        ({ c with acked := c.acked + k } :: l, m)

/-- Covers the packets below a PSN (R328). -/
def State.cover (s : State) (q below : Nat) : State :=
  let x := s.queue q
  let n := psnSub below x.oldest
  if x.times.length < n then s
  else
    let (l, m) := ackCmds n x.cmds
    s.updQueue q fun x => { x with cmds := l, times := x.times.drop (n - m), retries := if m < n then 0 else x.retries }

/-- A reaction to congestion (R339). -/
def State.react (s : State) (q : Nat) (echo : Nat) : State :=
  let x := s.queue q
  let recent := match x.reacted with | some t => s.clock.time < t + 5000 | none => false
  if echo = 0 || recent then s
  else
    let a := x.alpha + (65536 - x.alpha) / 16
    s.updQueue q fun x => { x.fill s.clock.time with alpha := a, rate := max 100 (x.rate - x.rate * a / 131072), reacted := some s.clock.time, periodAt := s.clock.time }

/-- ACKNOWLEDGE (R328, R339). -/
def execAcknowledge (p : Packet) (s : State) : Host.Outcome State Fault Refusal :=
  match s.target p with
  | none => .next s
  | some q => .next (((s.heardPacket q p).cover q (psnAdd p.psn.toNat 1)).react q p.echo.toNat)

/-- The command that an answer of its own belongs to: the one whose packet is the oldest, with that PSN. -/
def Queue.answered (x : Queue) (psn : Nat) : Option Cmd :=
  if psn = x.oldest && !x.times.isEmpty then x.oldestCmd else none

/-- ATOMIC_ACKNOWLEDGE (R347): the old value of a PATOM. -/
def execAtomicAcknowledge (p : Packet) (s : State) : Host.Outcome State Fault Refusal :=
  match s.target p with
  | none => .next s
  | some q =>
    let s := ((s.heardPacket q p).cover q p.psn.toNat).react q p.echo.toNat
    match (s.queue q).answered p.psn.toNat with
    | none => .next s
    | some c => match c.kind with
      | .patom _ _ _ => .next ((s.updCmd q c.id fun c => { c with data := p.data.take 8, acked := 1 }).updQueue q fun x => { x with times := x.times.drop 1, retries := 0 })
      | _ => .next s

/-- READ_RESPONSE (R325, R346): the next bytes of a GET land; with the last the request is answered. -/
def execReadResponse (p : Packet) (s : State) : Host.Outcome State Fault Refusal :=
  match s.target p with
  | none => .next s
  | some q =>
    let s := (s.heardPacket q p).cover q p.psn.toNat
    let x := s.queue q
    match x.answered p.psn.toNat with
    | none => .next s
    | some c =>
      let off := if p.first then 0 else c.got
      let fits := off + p.data.length ≤ c.len
      let done := p.last && off + p.data.length = c.len
      if c.kind != .get || c.mig.isSome then .next s
      else if !fits || (p.last && !done) then .next (s.updCmd q c.id fun c => { c with got := 0 })
      else match s.rangeOf x.slot .write c (va54 c.local_ + off) p.data.length with
        | .mig va => .next (s.updCmd q c.id fun c => { c with mig := some (BitVec.ofNat 54 va), got := 0 })
        | .bad code va => .next (s.failCmd q c 7 code (some (chunkOf s.chip va)))
        | .ok l =>
          let s := (s.windowFaults c true (va54 c.local_ + off) l).writePieces l p.data
          let s := s.updCmd q c.id fun c => { c with got := off + p.data.length, acked := if done then 1 else c.acked, chunk := chunkAfter (va54 c.local_ + off) p.data.length (c.len - off - p.data.length) l }
          .next (if done then s.updQueue q fun x => { x with times := x.times.drop 1, retries := 0 } else s)

/-- The address in a refused command's PORTER record (R327): the chunk of the byte that the target names, or else of the first byte of the
oldest packet without an answer; a host's address where the queue leaves through port H (assumption 67). -/
def Queue.failedAt (x : Queue) (c : Cmd) (p : Packet) : DWord :=
  let first := (if x.port = 16 then c.remote.toNat else va54 c.remote) + 4096 * c.acked
  let va := if 9 ≤ p.data.length then numOf ((p.data.drop 1).take 8) else first
  if x.port = 16 then BitVec.ofNat 64 (va / 65536 * 65536) else chunkOf x.chip va

/-- Whether a NAK names a packet that has been sent and has no answer (R328). -/
def Queue.nakCounts (x : Queue) (psn : Nat) : Bool := psnSub psn x.oldest < x.times.length

/-- NAK (R321, R328, R335): a sequence error is sent again, and so is a refusal of a later packet while an earlier one has no answer yet; a refusal
of the oldest ends its command, and the queue's next packet takes the refused number, which the target still expects (assumption 40). A NAK of
any other number is an old one. -/
def execNak (p : Packet) (s : State) : Host.Outcome State Fault Refusal :=
  match s.target p with
  | none => .next s
  | some q =>
    let s := ((s.heardPacket q p).cover q p.psn.toNat).react q p.echo.toNat
    let x := s.queue q
    if !x.nakCounts p.psn.toNat then .next s
    else if p.code = 0x60 || p.psn.toNat != x.oldest then .next (s.retransmit q)
    else match x.oldestCmd with
      | none => .next s
      | some c =>
        let at_ := x.failedAt c p
        let s := s.updQueue q fun x => { x with spsn := x.oldest }
        if p.code = 0x62 then .next (s.failCmd q c 1 (p.data.headD 0).toNat (some at_)) else .next (s.failCmd q c 2 0 (some at_))

/-- RNR_NAK (R329, R339): the packet is sent again after 10 µs; its echo counts as any NAK's. -/
def execRnrNak (p : Packet) (s : State) : Host.Outcome State Fault Refusal :=
  match s.target p with
  | none => .next s
  | some q =>
    let s := ((s.heardPacket q p).cover q p.psn.toNat).react q p.echo.toNat
    if !(s.queue q).nakCounts p.psn.toNat then .next s
    else .next ((s.goBack q).updQueue q fun x => { x with resend := some (s.clock.time + 12500) })

/-- RNR_RESEND (R329). -/
def execRnrResend (q : Nat) (s : State) : Host.Outcome State Fault Refusal :=
  match (s.queue q).resend with
  | some t => .next (if t ≤ s.clock.time then s.updQueue q fun x => { x with resend := none } else s)
  | none => .next s

/-- CNP (R321): discarded. -/
def execCnp (_p : Packet) (s : State) : Host.Outcome State Fault Refusal := .next s

/-- CONGESTION_PERIOD (R339): a queue's period timer reaches 55 µs. -/
def execCongestionPeriod (q : Nat) (s : State) : Host.Outcome State Fault Refusal :=
  let x := s.queue q
  if x.st = .unbound || s.clock.time < x.periodAt + 68750 then .next s
  else .next (s.updQueue q fun x => { x.fill s.clock.time with alpha := x.alpha - x.alpha / 16, rate := min 1600000 (x.rate + 5000), periodAt := s.clock.time })

/-! ## The responder -/

/-- The ACK of everything performed before the first arrival that holds its own (R338), with the CE echo (R328, R339). -/
def State.sendAck (s : State) (q : Nat) : State :=
  let x := s.queue q
  (s.reply q 7 (psnSub ((s.heldFrom q).getD x.epsn) 1) fun p => { p with echo := BitVec.ofNat 6 (min 63 x.ce) }).updQueue q fun x => { x with ackDue := none, ce := 0 }

/-- ACK_COALESCING (R328): the ACK of what has been performed is sent. -/
def execAckCoalescing (q : Nat) (s : State) : Host.Outcome State Fault Refusal :=
  if (s.queue q).ackDue.isNone then .next s else .next (s.sendAck q)

/-- A NAK of a request, with the CE echo (R328, R339); of a failed access it names the fault and the byte (assumption 67). -/
def State.sendNak (s : State) (q psn code fault va : Nat) : State :=
  s.reply q 9 psn fun p => { p with code := BitVec.ofNat 8 code, data := if fault = 0 then [] else bytesOf 1 fault ++ bytesOf 8 va, echo := BitVec.ofNat 6 (min 63 (s.queue q).ce) }

/-- An RNR NAK (R329), with the CE echo (R339). -/
def State.sendRnr (s : State) (q psn : Nat) : State :=
  (s.reply q 10 psn fun p => { p with echo := BitVec.ofNat 6 (min 63 (s.queue q).ce) }).countDie 0 28

/-- What a request packet meets first (R325, R328). -/
inductive Arrival where
  | drop (s : State)
  | now (q ctx : Nat) (s : State)
  | again (q ctx : Nat) (s : State)

/-- A packet that finds no queue is dropped silently (R321), but that management datagrams and connection management, on queue pair 1, are answered
with NAK Invalid Request; the answer goes back to queue pair 1 of their sender (assumption 66). -/
def State.unknown (s : State) (p : Packet) : State :=
  if takenFrame p && p.qpn = 1 && s.booted then s.send (.packet 1 9 { emptyPacket with src := p.dst, dst := p.src, qpn := 1, psn := p.psn, code := 0x61 }) else s

/-- Whether a queue takes a request: by its R_Key (R325); queue pair 0x20 takes WRITEs alone, of its snapshot, while the chip asks to join (R399). -/
def State.takesRequest (s : State) (q : Nat) (p : Packet) (write : Bool) : Bool :=
  p.form && (if q < 256 then s.openGen (p.rkey.toNat % 64) (p.rkey.toNat / 64) else 512 ≤ q && write && s.hytur.join = .asked)

/-- A request packet against its queue's incarnation, its expected PSN, its form (R321) and the R_Key. -/
def State.arrival (s : State) (p : Packet) (write : Bool := false) : Arrival :=
  match s.target p with
  | none => .drop (s.unknown p)
  | some q =>
    let s := s.heardPacket q p
    let x := s.queue q
    let k := p.rkey.toNat
    let d := psnSub p.psn.toNat x.epsn
    if d != 0 && d < 2 ^ 23 then
      .drop (if x.naked = some x.epsn then s else (s.sendNak q x.epsn 0x60 0 0).updQueue q fun x => { x with naked := some x.epsn })
    else if !s.takesRequest q p write then .drop (s.sendNak q p.psn.toNat 0x61 0 0)
    else if d = 0 then .now q (k % 64) s else .again q (k % 64) s

/-- A request packet that has been performed: the expected PSN rises, and an ACK is due. -/
def State.performed (s : State) (q : Nat) (ack : Bool) : State :=
  s.updQueue q fun x =>
    { x with
      epsn := psnAdd x.epsn 1
      naked := none
      ackDue := if ack then (match x.ackDue with | some t => some t | none => some s.clock.time) else x.ackDue }

/-- The start of the snapshot in firmware-reserved DRAM, above the spill regions (R308, R399; assumption 23). -/
def snapshotBase : Nat := 0xBF00000000

/-- The pieces of a WRITE's range: of a context's space, or, on queue pair 0x20, of the firmware-reserved DRAM that takes a snapshot (R399). -/
def State.writeRange (s : State) (q ctx va n : Nat) : Chunks :=
  if q < 512 then s.range ctx .write va n
  else if snapshotBase ≤ va && va + n ≤ 0xC000000000 then .ok [(va, n)]
  else .bad Code.permission va

/-! ## A firmware image over port H (R432) -/

/-- Whether a packet is one for the ROM that waits for an image (R432): to queue pair 0x30. -/
def State.romTakes (s : State) (p : Packet) : Bool := s.platform.boot = .rom && s.platform.waits && takenFrame p && p.qpn = 0x30

/-- The ROM answers a packet; the number of the sender's queue pair is not stated: it is taken to be 0x30 too (assumption 30). -/
def State.romAnswer (s : State) (p : Packet) (op psn code : Nat) : State :=
  s.send (.packet 259 op { emptyPacket with src := p.dst, dst := p.src, qpn := 0x30, psn := BitVec.ofNat 24 psn, code := BitVec.ofNat 8 code })

/-- A packet to queue pair 0x30 in its order (R328): performed once, from PSN 0 on, and acknowledged. -/
def State.romPacket (s : State) (p : Packet) (perform : State → State) : State :=
  let x := s.queue 259
  let d := psnSub p.psn.toNat x.epsn
  if d != 0 && d < 2 ^ 23 then
    (if x.naked = some x.epsn then s else (s.romAnswer p 9 x.epsn 0x60).updQueue 259 fun x => { x with naked := some x.epsn })
  else if !p.form then s.romAnswer p 9 p.psn.toNat 0x61
  else if d != 0 then s.romAnswer p 7 (psnSub x.epsn 1) 0
  else perform ((s.updQueue 259 fun x => { x with epsn := psnAdd x.epsn 1, naked := none }).romAnswer p 7 p.psn.toNat 0)

/-- The bytes of a WRITE to queue pair 0x30 enter the image that the ROM loads, at the WRITE's address (R432). -/
def State.imageWrite (s : State) (p : Packet) : State :=
  s.romPacket p fun s =>
    let a := if p.first then p.addr.toNat else ((s.queue 259).writing.getD p.addr.toNat)
    let load := p.data.zipIdx.foldl (fun (m : Map Byte) x => m.set (a + x.2) x.1) s.platform.loading
    { s with platform := { s.platform with loading := load } }.updQueue 259 fun x => { x with writing := if p.last then none else some (a + p.data.length) }

/-- RDMA_WRITE (R325, R328, R329): one packet lands; a duplicate is only acknowledged. One to queue pair 0x30 loads an image (R432). -/
def execRdmaWrite (p : Packet) (s : State) : Host.Outcome State Fault Refusal :=
  if s.romTakes p then .next (s.imageWrite p)
  else match s.arrival p true with
  | .drop s => .next s
  | .again q _ s => .next (s.updQueue q fun x => { x with ackDue := some s.clock.time })
  | .now q ctx s =>
    let va := if p.first then va54 p.addr else ((s.queue q).writing.getD (va54 p.addr))
    match s.writeRange q ctx va p.data.length with
    | .mig _ => .next (s.sendRnr q p.psn.toNat)
    | .bad code va => .next (s.sendNak q p.psn.toNat 0x62 code va)
    | .ok l => .next (((s.writePieces l p.data).updQueue q fun x => { x with writing := if p.last then none else some (va + p.data.length) }).performed q true)

/-- The packets of a READ's answer (R321). -/
def State.sendReads (s : State) (q psn : Nat) (bs : List Byte) : State :=
  let n := max 1 ((bs.length + 4095) / 4096)
  (List.range n).foldl (fun (s : State) i =>
    s.reply q 6 psn fun p => { p with data := (bs.drop (4096 * i)).take 4096, first := i = 0, last := i + 1 = n }) s

/-- RDMA_READ_REQUEST (R325, R328): answered from memory, a duplicate again. -/
def execRdmaReadRequest (p : Packet) (s : State) : Host.Outcome State Fault Refusal :=
  let answer := fun (q ctx : Nat) (s : State) (fresh : Bool) =>
    match s.range ctx .read (va54 p.addr) p.len with
    | .mig _ => s.sendRnr q p.psn.toNat
    | .bad code va => s.sendNak q p.psn.toNat 0x62 code va
    | .ok l => match s.badPiece l with
      | some k => s.sendNak q p.psn.toNat 0x62 Code.machineCheck (va54 p.addr + k)
      | none =>
        let (bs, s) := s.readPieces l
        (if fresh then s.performed q false else s).sendReads q p.psn.toNat bs
  match s.arrival p with
  | .drop s => .next s
  | .again q ctx s => .next (answer q ctx s false)
  | .now q ctx s => .next (answer q ctx s true)

/-- The answer to an atomic. -/
def State.sendAtomic (s : State) (q psn : Nat) (old : DWord) : State :=
  let x := s.queue q
  (s.reply q 8 psn fun p => { p with data := bytesOf 8 old.toNat, echo := BitVec.ofNat 6 (min 63 x.ce) }).updQueue q fun x => { x with ce := 0 }

/-- An atomic request (R325, R328): performed at the home agent; a duplicate is answered from the replay cache. -/
def State.atomicRequest (s : State) (p : Packet) (cas : Bool) : State :=
  match s.arrival p with
  | .drop s => s
  | .again q _ s => match (s.queue q).replay.find? fun e => e.1 = p.psn.toNat with
    | some e => s.sendAtomic q p.psn.toNat e.2
    | none => s
  | .now q ctx s =>
    if va54 p.addr % 8 != 0 then s.sendNak q p.psn.toNat 0x61 0 0
    else match s.translateEngine ctx (va54 p.addr) .atom with
      | .migrating => s.sendRnr q p.psn.toNat
      | .pageFault => s.sendNak q p.psn.toNat 0x62 Code.pageFault (va54 p.addr)
      | .permission => s.sendNak q p.psn.toNat 0x62 Code.permission (va54 p.addr)
      | .ok pa =>
        if inAperture pa then s.sendNak q p.psn.toNat 0x62 Code.formatAtomic (va54 p.addr)
        else if s.locError none 8 (.glb pa) then s.sendNak q p.psn.toNat 0x62 Code.machineCheck (va54 p.addr)
        else
          let (bs, s) := s.loadGlb pa 8
          let old := BitVec.ofNat 64 (numOf bs)
          let new := if cas then (if old = p.compare then p.swapAdd else old) else old + p.swapAdd
          let s := (s.storeGlb pa (bytesOf 8 new.toNat)).performed q false
          let s := s.updQueue q fun x => { x with replay := (x.replay ++ [(p.psn.toNat, old)]).drop (x.replay.length - 15) }
          s.sendAtomic q p.psn.toNat old

/-- ATOMIC_FETCH_AND_ADD (R325). -/
def execAtomicFetchAndAdd (p : Packet) (s : State) : Host.Outcome State Fault Refusal := .next (s.atomicRequest p false)
/-- ATOMIC_COMPARE_AND_SWAP (R325). -/
def execAtomicCompareAndSwap (p : Packet) (s : State) : Host.Outcome State Fault Refusal := .next (s.atomicRequest p true)

/-! ## Tagged SENDs (R329 to R332) -/

/-- A flag of a posted request. -/
def Posted.flag (r : Posted) (i : Nat) : Bool := fieldAt r.body.toNat 0 1 / 2 ^ i % 2 = 1

/-- Whether a request's block is on its core, so that its landing can be taken (R332): not saved, and not wholly off-core. -/
def State.canLand (s : State) (r : Posted) : Bool :=
  match r.blk with
  | none => false
  | some k => match s.block? k with
    | none => false
    | some b => !b.ended && b.wids.any fun wid => (s.warp? wid).any fun w => w.live != 0 && w.offcore.isNone

/-- The record of a posted arrival (R334): queue, posting number, length, the posting grid's site. -/
def State.arrivalJob (s : State) (q : Nat) (r : Posted) (status bytes : Nat) (enable : Option (Nat × Nat)) : State :=
  let x := s.queue q
  let own := BitVec.ofNat 64 (fieldAt r.body.toNat 0x20 8)
  let ring := if own = 0 then x.ring else own
  if ring = 0 then (s.enable enable).updQueue q fun x => { x with ackDue := match x.ackDue with | some t => some t | none => some s.clock.time }
  else s.addJob { id := 0, ctx := x.slot, header := ring, queue := some q, inc := x.inc, blk := r.blk, arrival := true, psn := psnSub x.epsn 1, enable := enable, record := completion status 0 q 4 bytes r.number r.site }

/-- Step 2 of R331: the forward, where its queue is still bound as at POST. -/
def State.forward (s : State) (q : Nat) (r : Posted) (data : List Byte) : State × Bool :=
  let fq := fieldAt r.body.toNat 1 1
  let x := s.queue fq
  if x.st = .unbound || x.inc != r.fqInc || x.slot != (s.queue q).slot || x.gen != (s.queue q).gen then (s, false)
  else
    let tag := if r.flag 5 then some (BitVec.ofNat 32 (fieldAt r.body.toNat 0x14 4)) else none
    (s.placeCmd fq { id := 0, kind := .put tag, remote := BitVec.ofNat 64 (fieldAt r.body.toNat 0x18 8), len := data.length, forward := true, data := data, blk := r.blk, site := r.site }, true)

/-- Step 1 of R331: the data land at the tile's offset. -/
def State.land (s : State) (key : Nat) (b : Block) (pool t off : Nat) (data : List Byte) : State :=
  let o := b.pbase + b.tileOffset pool t + off
  if data.isEmpty then s
  else (s.writeSpad b.core o data).watchAccess b.core 2 { kind := 3, core := b.core } [(0xFF, o, data.length)] |>.updBlock key id

/-- An arrival that lands nothing (R331): its record, PORTER in the posting block. -/
def State.badArrival (s : State) (q : Nat) (r : Posted) (status bytes : Nat) : State :=
  (s.arrivalJob q r status bytes none).holdPorter r.blk q status none

/-- An arrival that matches a request (R331). -/
def State.matched (s : State) (q : Nat) (r : Posted) (data : List Byte) : State :=
  let s := { s with posted := s.posted.erase r }
  let s := ((s.updQueue q fun x => { x with count := x.count + 1 }).performed q false).countDie 0 30
  let n := r.body.toNat
  let key := r.blk.getD 0
  let b := s.block key
  let h := b.handle? (BitVec.ofNat 64 (fieldAt n 8 4))
  let stale := match h with
    | some (pool, t, gen) => let x := b.tile (tileKey pool t); x.free || x.gen != gen
    | none => true
  if fieldAt n 0x10 4 < data.length then s.badArrival q r 6 data.length
  else if r.flag 0 && stale then s.badArrival q r 5 data.length
  else
    let s := match h with
      | some (pool, t, _) => if r.flag 0 then s.land key b pool t (fieldAt n 0xC 4) data else s
      | none => s
    let (s, placed) := if r.flag 1 then s.forward q r data else (s, true)
    let enable := if r.flag 3 then some (fieldAt n 2 1, fieldAt n 4 4) else none
    if r.flag 2 || !placed then s.arrivalJob q r (if placed then 0 else 4) data.length enable
    else (s.enable enable).updQueue q fun x => { x with ackDue := some s.clock.time }

/-- A SEND packet of a porter queue (R321, R328, R329, R331, R332): the data of a message of several packets are put together, and its last
packet finds the posted request (assumption 69). -/
def State.sendArrives (s : State) (p : Packet) : State :=
  match s.arrival { p with rkey := BitVec.ofNat 32 ((s.queue (p.qpn.toNat % 256)).gen * 64 + (s.queue (p.qpn.toNat % 256)).slot) } with
  | .drop s => s
  | .again q _ s => s.updQueue q fun x => { x with ackDue := some s.clock.time }
  | .now q _ s =>
    let data := (if p.first then [] else (s.queue q).sending) ++ p.data
    if !p.last then (s.updQueue q fun x => { x with sending := data }).performed q true
    else if data.length < 8 then s.sendNak q p.psn.toNat 0x61 0 0
    else
      let tag := BitVec.ofNat 32 (numOf (data.take 4))
      match s.posted.find? fun r => r.queue = q && r.inc = (s.queue q).inc && r.tag = tag && r.armed with
      | none => s.sendRnr q p.psn.toNat
      | some r => if r.flag 0 && !s.canLand r then s.sendRnr q p.psn.toNat
        else (s.updQueue q fun x => { x with sending := [] }).matched q r (data.drop 8)

/-! ## The well-known queue pairs of port H (R322) -/

/-- Which well-known queue pair a packet names: 0 submission, 1 management, 2 porter control. -/
def wellKnownOf (p : Packet) : Option Nat := if p.qpn = 0x10 then some 0 else if p.qpn = 0x11 then some 1 else if p.qpn = 0x12 then some 2 else none

/-- A message of another length than 64 bytes is refused: its answer carries only the status (R322). -/
def State.refuseMessage (s : State) (k : Nat) : State :=
  s.answerHost k (BitVec.ofNat 512 (setField 0 (if k = 1 then 5 else 0x38) 1 1))

/-- A SEND to a well-known queue pair (R321, R322, R328): PSNs count from 0, a message is performed once and in order, and acknowledged;
`perform` is what its queue does with 64 bytes. A message of several packets is another than 64 bytes long. -/
def State.wellKnownSend (s : State) (k : Nat) (p : Packet) (perform : Msg → State → State) : State :=
  let q := 256 + k
  if s.target p != some q then s
  else
    let s := s.heardPacket q p
    let x := s.queue q
    let d := psnSub p.psn.toNat x.epsn
    if d != 0 && d < 2 ^ 23 then
      (if x.naked = some x.epsn then s else (s.sendNak q x.epsn 0x60 0 0).updQueue q fun x => { x with naked := some x.epsn })
    else if !p.form then s.sendNak q p.psn.toNat 0x61 0 0
    else if d != 0 then s.sendAck q
    else
      let s := (s.performed q false).sendAck q
      if !p.last then s
      else if p.first && p.data.length = 64 then perform (BitVec.ofNat 512 (numOf p.data)) s
      else s.refuseMessage k

end Sys2Proof.Machine
end

