-- ==== Sys2Proof/Machine/Sched.lean ====
section
/-!
DEFINITION. The order service on this chip (R282 to R288): hearing messages, delivering events, and enacting what their application
decides here (R292, R298 to R300, R356, R385, R388, R392).
-/

namespace Sys2Proof.Machine

/-! ## What is held of each origin (R286, R287) -/

/-- What the chip knows of a member. -/
def State.peer (s : State) (c : Nat) : Peer := s.hytur.peers.get {} c

/-- The state with that changed. -/
def State.updPeer (s : State) (c : Nat) (f : Peer → Peer) : State :=
  s.updHytur fun h => { h with peers := h.peers.set c (f (h.peers.get {} c)) }

/-- The oseq space (R280). -/
abbrev oseqs : Nat := 2 ^ 38

/-- Whether one oseq comes before another. -/
def oseqBefore (a b : Nat) : Bool := a != b && (b + oseqs - a) % oseqs < 2 ^ 37

/-- The first oseq from n on that no event of a list has. -/
def nextHeld (oseqsHeld : List Nat) : Nat → Nat → Nat
  | 0, n => n
  | fuel + 1, n => if oseqsHeld.contains n then nextHeld oseqsHeld fuel ((n + 1) % oseqs) else n

/-- The oseq up to which the chip holds every event of an origin, and one more (R287). -/
def Hytur.heldUpTo (h : Hytur) (c : Nat) : Nat :=
  let l := (h.undelivered.filter fun e => msgOrigin e.msg = c && msgType e.msg != 6).map fun e => msgOseq e.msg
  nextHeld l l.length (h.tables.chips.get ({} : ChipRow) c).oseq

/-- Any message of a member ends a suspicion of it (R393). -/
def State.hears (s : State) (c : Nat) : State :=
  (s.updHytur fun h => { h with suspects := h.suspects.del c }).updPeer c fun p => { p with lastHeard := s.clock.time }

/-- A message of a member has been heard: the horizon rises where every event up to its oseq is held, otherwise a gap stands (R286,
R287). -/
def State.heard (s : State) (c oseq stamp : Nat) : State :=
  let n := s.hytur.heldUpTo c
  let now := s.clock.time
  (s.updHytur fun h => { h with suspects := h.suspects.del c }).updPeer c fun p =>
    let p := { p with lastHeard := now }
    if oseqBefore oseq n then
      { p with horizon := max p.horizon stamp, gapSince := match p.gapSince with
        | some (t, l) => if oseqBefore l n then none else some (t, l)
        | none => none }
    else { p with gapSince := match p.gapSince with
        | some (t, l) => some (t, if oseqBefore l oseq then oseq else l)
        | none => some (now, oseq) }

/-! ## Contexts (R298 to R300, R317) -/

/-- A format window as its entry gives it (R317). -/
def windowOf (ctx entry n : Nat) : FmtWindow :=
  { ctx := ctx, entry := entry, on := true, alias_ := fieldAt n 0 8, packed := fieldAt n 8 8, scales := fieldAt n 0x10 8, size := fieldAt n 0x18 4, elem := fieldAt n 0x1C 1, scale := fieldAt n 0x1D 1 }

/-- The alias range of a window. -/
def FmtWindow.aliasRange (w : FmtWindow) : Nat × Nat := (w.alias_, w.alias_ + w.size * 65536)

/-- The ordinary ranges of a window: its blocks of elements, its scales. -/
def FmtWindow.dramRanges (w : FmtWindow) : List (Nat × Nat) :=
  [(w.packed, w.packed + w.size * 1024 * blockBytes w.elem), (w.scales, w.scales + w.size * 1024)]

/-- Whether a window's own fields keep R317 and R300. -/
def FmtWindow.ok (w : FmtWindow) : Bool :=
  w.alias_ % 65536 = 0 && apertureLo ≤ w.alias_ && w.aliasRange.2 ≤ apertureHi && w.packed % 64 = 0 && 1 ≤ w.size
    && [3, 4, 5, 6, 7, 8, 10].contains w.elem && (w.scale = 11 || w.scale = 12) && w.dramRanges.all fun r => r.2 ≤ dramTop

/-- Whether the windows of a list keep apart (R317). -/
def windowsApart (l : List FmtWindow) : Bool :=
  disjointAll (l.map FmtWindow.aliasRange) && disjointAll (l.flatMap FmtWindow.dramRanges)

/-- The valid windows of a descriptor, by ascending entry. -/
def descWindows (ctx n : Nat) : List FmtWindow :=
  (List.range 16).filterMap fun i =>
    let e := fieldAt n (0x100 + 32 * i) 32
    if fieldAt e 0x1E 1 % 2 = 1 then some (windowOf ctx i e) else none

/-- The die windows of a descriptor: base and size in 64 KiB units. -/
def descDies (n : Nat) : List (Nat × Nat) := (List.range 4).map fun d => (fieldAt n (0x40 + 4 * d) 2, fieldAt n (0x42 + 4 * d) 2)

/-- Whether a context's die windows lie in their dies and beside those of other usable contexts (R300). -/
def State.diesOk (s : State) (slot : Nat) (dies : List (Nat × Nat)) : Bool :=
  (List.range 4).all fun d =>
    let (b, z) := dies.getD d (0, 0)
    z = 0 || (b + z ≤ 512 && s.ctxs.all fun (e : Nat × Ctx) =>
      let (b2, z2) := e.2.diewin.getD d (0, 0)
      e.1 = slot || !e.2.usable || z2 = 0 || max b b2 ≥ min (b + z) (b2 + z2))

/-- Whether a descriptor passes the checks of R300. -/
def State.descOk (s : State) (slot desc n : Nat) : Bool :=
  let root := fieldAt n 8 8
  let cloak := fieldAt n 0x20 8
  let size := fieldAt n 0x28 8
  let ws := descWindows slot n
  desc % 1024 = 0 && desc + 1024 ≤ dramTop && !s.rangeError desc 1024 && fieldAt n 0 4 = 1
    && root % 65536 = 0 && fieldAt n 0x10 8 % 65536 = 0 && fieldAt n 0x10 8 < 2 ^ 54 && cloak % 65536 = 0 && size % 65536 = 0
    && root + 65536 ≤ dramTop && cloak + size ≤ dramTop && 2 ^ 23 ≤ size && s.diesOk slot (descDies n)
    && ws.all FmtWindow.ok && windowsApart (s.windows.map (·.2) ++ ws) && s.windows.length + ws.length ≤ 16

/-- Windows given to the lowest free slots of the chip, in order (R317). -/
def takeWindows (m : Map FmtWindow) (l : List FmtWindow) : Map FmtWindow := l.foldl (fun (m : Map FmtWindow) w => m.set (freeKey m 0) w) m

/-- A core without the translations and instructions of a context (R8). -/
def Core.forget (c : Core) (ctx : Nat) : Core :=
  { c with tlb := c.tlb.filter fun t => t.1 != ctx, icache := c.icache.filter fun (e : Nat × List Byte) => e.1 / 2 ^ 54 != ctx }

/-- Opens a context on the chip (R298 to R300): the descriptor is read once, and the slot's TLB entries go. -/
def State.openCtx (s : State) (row : Nat) : State :=
  let slot := row % 64
  let c := s.hytur.tables.ctx row
  let (bs, s) := if c.desc + 1024 ≤ dramTop then s.loadGlb c.desc 1024 else (bytesOf 1024 0, s)
  let n := numOf bs
  let ok := s.descOk slot c.desc n
  let ctx : Ctx := { gen := row / 64, usable := ok, prio := c.prio, dmode := c.dmode, detect := c.detect, slice := c.slice, suspended := c.suspended, desc := c.desc, root := fieldAt n 8 8, faultBase := fieldAt n 0x10 8, rring := BitVec.ofNat 64 (fieldAt n 0x18 8), cloak := fieldAt n 0x20 8, cloaksz := fieldAt n 0x28 8, hang := if fieldAt n 0x30 1 = 0 then 24 else fieldAt n 0x30 1, diewin := descDies n }
  { s with
    ctxs := s.ctxs.set slot ctx
    windows := if ok then takeWindows s.windows (descWindows slot n) else s.windows
    cores := s.cores.map fun (e : Nat × Core) => (e.1, e.2.forget slot) }

/-- The die scratchpads without what stands in a context's windows (R8, R176). -/
def clearDies (m : Map Byte) (c : Ctx) : Map Byte :=
  (List.range 4).foldl (fun (m : Map Byte) d =>
    let (base, size) := c.diewin.getD d (0, 0)
    m.clear (d * 2 ^ 25 + base * 65536) (d * 2 ^ 25 + (base + size) * 65536)) m

/-- Ends a context on the chip (R7, R8, R323): its queues are unbound and their last records written (R327), its windows, with what they
hold, and its settings go. -/
def State.closeCtx (s : State) (row : Nat) : State :=
  let slot := row % 64
  let gen := row / 64
  if (s.ctxs.find slot).all fun c => c.gen != gen then s
  else
    let s := s.drainAlias
    let s := s.queues.foldl (fun (s : State) (e : Nat × Queue) => if e.1 < 256 && e.2.slot = slot && e.2.gen = gen then s.unbindQueue e.1 else s) s
    let mine := fun (b : Block) => b.ctx = slot
    let s := (s.jobs.filter fun j => j.ctx = slot).foldl State.claimJob s
    { s with
      jobs := s.jobs.filter fun j => j.ctx != slot
      blocks := s.blocks.filter fun (e : Nat × Block) => !mine e.2
      warps := s.warps.filter fun (e : Nat × Warp) => !mine (s.block e.2.blk)
      images := s.images.filter fun x => !mine x.block
      shadows := s.shadows.filter fun x => ((s.hytur.tables.grids.find x.grid).map (·.ctxRow)) != some row
      windows := s.windows.filter fun (e : Nat × FmtWindow) => e.2.ctx != slot
      inject := s.inject.del slot
      dieSpad := if (s.ctx slot).usable then clearDies s.dieSpad (s.ctx slot) else s.dieSpad
      cores := s.cores.map fun (e : Nat × Core) => (e.1, e.2.forget slot)
      ctxs := s.ctxs.del slot }

/-! ## EVWAIT (R356) -/

/-- A warp whose EVWAIT is met: the value in its window, the lanes released. -/
def Warp.metEvent (w : Warp) (W : Nat) (dmode : Bool) (p : Park) (win dst : Nat) (x clock : DWord) : Warp :=
  (w.fillWindow win [.scal dst x]).release W dmode p clock

/-- The parked EVWAITs of a warp that a test picks, met one after another. -/
def Warp.meetEvents (w : Warp) (W : Nat) (dmode : Bool) (test : DWord → Bool) (x clock : DWord) : Warp :=
  w.allParks.foldl (fun (w : Warp) p => match p.place with
    | .evwait code dst win => if test code then w.metEvent W dmode p win dst x clock else w
    | _ => w) w

/-- Meets EVWAITs of warps on cores and in images, by their block and the awaited code. -/
def State.wakeEvents (s : State) (test : Block → DWord → Bool) (x : DWord) : State :=
  let s := s.warps.foldl (fun (s : State) (e : Nat × Warp) =>
    let b := s.block e.2.blk
    s.updWarp e.1 fun w => w.meetEvents b.width (s.dmode b) (test b) x (s.floorClock b)) s
  s.images.foldl (fun (s : State) (i : Image) => i.warps.foldl (fun (s : State) (e : Nat × Warp) =>
    let hits := e.2.allParks.any fun p => match p.place with | .evwait code _ _ => test i.block code | _ => false
    if !hits then s
    else
      let w := s.readImageWarp i.base i.block e.2
      let w := w.meetEvents i.block.width (s.dmode i.block) (test i.block) x (s.floorClock i.block)
      let s := s.writeImageWarp i.base i.block w
      { s with images := s.images.map fun (y : Image) =>
          if y.key = i.key then { y with warps := y.warps.map fun (z : Nat × Warp) => if z.1 = e.1 then (z.1, w) else z } else y }) s) s

/-- Records the outcome of a LAUNCH and meets the EVWAITs that name it. -/
def State.outcome (s : State) (record : Attach) (x : DWord) : State :=
  let (_, scc, seq) := siteOf record
  let cc := scc / 1024 % 32
  if scc % 1024 != s.chip then s
  else
    let v := BitVec.ofNat 32 seq
    let s := s.updControl cc fun c => { c with outcomes := c.outcomes.map fun o => if o.1 = v && o.2.1 = 0 then (v, 1, x) else o }
    s.wakeEvents (fun b code => code.toNat / 2 ^ 56 = 1 && lo32 code = v && controlOf b.core = cc) x

/-! ## Fencing (R391, R392) -/

/-- The notice that a chip orders before it fences itself (R391). -/
def State.orderNotice (s : State) (reason : Nat) : State :=
  let t := s.hytur.tables
  s.originate 8 0 (mkBody [(0, 1, 0x10), (1, 1, reason), (2, 2, s.chip), (8, 8, t.position), (0x10, 8, t.sd.toNat)])

/-- A core's started matrix entry performed to the end of its segment (R210, R392). -/
def State.endSegment (s : State) (core : Nat) : State :=
  match (s.core core).mq with
  | e :: _ =>
    let e := { e with limit := some (e.chunk + segmentChunks e.type) }
    if e.started && !s.entryError e then s.performEntry core e else s
  | [] => s

/-- What a fenced chip discards (R392): blocks, images, shadow runs, queued and engine work, queue bindings, posted requests, the test
injection. Started matrix entries end at their segment. -/
def State.discard (s : State) : State :=
  let s := s.queues.foldl (fun (s : State) (e : Nat × Queue) => if e.1 < 256 then s.unbindQueue e.1 else s) s
  let s := s.cores.foldl (fun (s : State) (e : Nat × Core) => s.endSegment e.1) s
  { s with
    blocks := []
    warps := []
    images := []
    shadows := []
    spent := []
    ordered := []
    late := []
    positions := []
    slicing := []
    posted := []
    inject := []
    ctxs := s.ctxs.map fun (e : Nat × Ctx) => (e.1, { e.2 with rooms := [], saved := [], floors := [], stopping := [] })
    cores := s.cores.map fun (e : Nat × Core) => (e.1, { e.2 with mq := [], mwait := [], readmit := [], marks := [], mbclock := [], inflight := [], lastCtx := none }) }

/-- A chip leaves the view (R390, R392). -/
def State.leaveView (s : State) : State :=
  let t := s.discard
  { t with
    queues := t.queues.filter fun (e : Nat × Queue) => e.1 < 512
    platform := { s.platform with boot := .joining }
    hytur := { s.hytur with fenced := true, fenceAt := s.clock.time, join := .none, sponsoring := [], snapshots := [], call := none, suspects := [] } }

/-- A chip that fences itself, or is fenced by the tables (R390, R392). -/
def State.fence (s : State) : State := if s.hytur.fenced then s else s.leaveView

/-- A chip fences itself with a notice (R390, R391). -/
def State.fenceSelf (s : State) (reason : Nat) : State :=
  if s.hytur.fenced || !s.isMember then s
  else ((s.orderNotice reason).updHytur fun h => { h with reason := reason }).fence

/-! ## Enacting rows (R291, R292) -/

/-- Ends what a block on this chip holds, without a FINISH (R291). -/
def State.abort (s : State) (key : Nat) : State :=
  let again := (s.blocks.filter fun (e : Nat × Block) => e.2.kind = .rerun && e.2.rerunOf = key).map (·.1)
  let s := again.foldl (fun (s : State) k => s.removeBlock k true) s
  let images := s.images.filter fun x => !(x.block.kind = .rerun && x.block.rerunOf = key)
  let s := { s with images := images }
  let s := if (s.block key).ended then s else s.removeBlock key true
  s.closeRerun key 0 0

/-- What the tables want of a block on this chip: 0 nothing any more, 1 to stand, 2 to be saved. -/
def State.rowWants (s : State) (b : Block) : Nat :=
  match s.hytur.tables.row b.grid b.bid with
  | some r => if r.chip != s.chip then 0 else if r.st.held then 1 else if r.st = .pending && r.saved then 2 else 0
  | none => 0

/-- Drops a block's image (R291): its room, its landing requests (R332), its D-mode position (R371). -/
def State.dropImage (s : State) (x : Image) : State :=
  let b := x.block.exitAll (x.warps.map (·.2))
  (((s.dropRoom b.ctx x.key).flushPosted x.key b.ctx).leavePosition b)

/-- Aborts the blocks whose rows are no longer here, and drops their images (R291). -/
def State.abortFreed (s : State) : State :=
  let gone := s.blocks.filter fun (e : Nat × Block) => !e.2.alone && (!e.2.ended || e.2.rerun != 0) && s.rowWants e.2 = 0
  let s := gone.foldl (fun (s : State) (e : Nat × Block) => s.abort e.1) s
  let out := s.images.filter fun x => !x.block.alone && s.rowWants x.block = 0
  let s := out.foldl State.dropImage { s with images := s.images.filter fun x => x.block.alone || s.rowWants x.block != 0 }
  { s with spent := s.spent.filter fun (g, b) => s.rowWants { grid := g, bid := b } != 0 }

/-- Marks the victims on this chip (R292, R294). -/
def State.markVictims (s : State) : State :=
  { s with blocks := s.blocks.map fun (e : Nat × Block) =>
      if e.2.alone || e.2.ended then e else (e.1, { e.2 with victim := s.rowWants e.2 = 2 }) }

/-- FAULT events of blocks that are placed here while their context is unusable on this chip (R300). -/
def State.faultUnusable (s : State) : State :=
  (s.hytur.tables.blocks.filter fun r => r.st.held && r.chip = s.chip && !s.spent.contains (r.grid, r.bid)).foldl (fun (s : State) r =>
    let ctx := (s.hytur.tables.grid r.grid).ctxRow % 64
    if (s.ctxs.find ctx).any fun c => !c.usable then
      { s.orderFault { grid := r.grid, bid := r.bid, ctx := ctx } Code.launchInvalid 0xFFFF 0 with spent := (r.grid, r.bid) :: s.spent }
    else s) s

/-- Whether an event is this chip's FINISH or FAULT of a block, ordered since its grid was. -/
def State.endEvent (s : State) (g : GridRow) (grid bid : Nat) (e : Ev) : Bool :=
  msgOrigin e.msg = s.chip && (msgType e.msg = 2 || msgType e.msg = 5) && bodyField e.msg 0 2 = grid && bodyField e.msg 4 4 = bid
    && g.stamp < msgStamp e.msg

/-- Orders the end of a block again where its event met a row that was PENDING and the row is placed here once more (assumption 22). -/
def State.orderAgain (s : State) : State :=
  s.spent.foldl (fun (s : State) (x : Nat × Nat) =>
    let g := s.hytur.tables.grid x.1
    if !s.heldHere x.1 x.2 || s.hytur.undelivered.any (s.endEvent g x.1 x.2) then s
    else match s.hytur.tail.reverse.find? (s.endEvent g x.1 x.2) with
      | some e => s.originate (msgType e.msg) (msgCtx e.msg) (bodyField e.msg 0 40)
      | none => s) s

/-! ## Enacting effects -/

/-- The end of a grid on this chip (R265, R356): its outcome, its detector entries, its D-mode positions. -/
def State.gridEnded (s : State) (grid code : Nat) (g : GridRow) : State :=
  let s := if g.stream then s
    else s.outcome g.record (BitVec.ofNat 64 (code + grid * 2 ^ 16 + min g.dones (2 ^ 32 - 1) * 2 ^ 32))
  { s with
    positions := s.positions.clear (grid * 8192) ((grid + 1) * 8192)
    ctxs := s.ctxs.map fun (e : Nat × Ctx) => (e.1, if e.1 = g.ctxRow % 64 then { e.2 with floors := e.2.floors.del grid } else e.2)
    homes := s.homes.map fun (e : Nat × Home) => (e.1, { e.2 with detector := e.2.detector.filter fun (x : Nat × Nat × Nat × Bool) => x.2.1 != grid, untracked := e.2.untracked.filter fun x => x % 65536 != grid }) }

/-- The subject of a witness whose result is 1 orders the FINISH of its block (R385). -/
def State.orderWitnessed (s : State) (grid bid : Nat) : State :=
  match s.blocks.find? fun (e : Nat × Block) => e.2.grid = grid && e.2.bid = bid && e.2.rerun = 4 with
  | some (key, b) => (s.originate 2 b.ctx (mkBody [(0, 2, grid), (4, 4, bid), (8, 8, b.observed.toNat), (0x10, 4, b.folded)])).closeRerun key 0 0
  | none => s

/-- The bytes of a snapshot: its length in the joiner's DRAM is that of its rows (assumption 23). -/
def Tables.snapshotBytes (t : Tables) : Nat :=
  64 * (t.chips.length + t.ctxs.length + t.blocks.length + t.edges.length) + 576 * t.grids.length

/-- A number for a truth value. -/
def bit01 (b : Bool) : Nat := if b then 1 else 0

/-- The rows of a snapshot as numbers (R399, assumption 23), table by table: chips, contexts, generations, grids with their records, blocks, edges,
warps off-core, and the roll call number with the digest and its position. -/
def Tables.snapshotRows (t : Tables) (r : Nat) : Nat → List (List Nat)
  | 0 => t.chips.map fun (e : Nat × ChipRow) => [e.1, (match e.2.st with | .gone => 0 | .joining => 1 | .member => 2 | .fenced => 3), e.2.oseq]
  | 1 => t.ctxs.map fun (e : Nat × CtxRow) => [e.1, (match e.2.st with | .free => 0 | .opened => 1 | .closing => 2), e.2.prio, bit01 e.2.dmode, bit01 e.2.detect, e.2.slice, bit01 e.2.suspended, e.2.desc]
  | 2 => t.gens.map fun (e : Nat × Nat) => [e.1, e.2]
  | 3 => t.grids.map fun (e : Nat × GridRow) =>
    [e.1, (match e.2.st with | .free => 0 | .waiting => 1 | .admitted => 2 | .running => 3 | .done => 4 | .faulted => 5), e.2.ctxRow, e.2.stamp, e.2.origin, e.2.oseq, bit01 e.2.stream,
      e.2.record.toNat, e.2.arg.toNat, e.2.next, e.2.dones, e.2.digest.toNat, bit01 e.2.tookIn, bit01 e.2.tookOut, bit01 e.2.cancelled, e.2.ended.1, e.2.ended.2.1, e.2.ended.2.2]
  | 4 => t.blocks.map fun x => [x.grid, x.bid, x.st.code, x.chip, x.off, bit01 x.saved, x.since]
  | 5 => t.edges.map fun (e : Nat × Edge) => [e.1, e.2.cap, e.2.free, e.2.ready, e.2.claimed]
  | 6 => t.off.map fun (e : Nat × Nat) => [e.1, e.2]
  | 7 => [[r, t.sd.toNat, t.position]]
  | _ => []

/-- The fabric port that leads to a neighbour (R279, R431). -/
def State.portTo (s : State) (c : Nat) : Nat := ((s.platform.config.neighbours.find? fun n => n.2.1 = c).map (·.1)).getD 0

/-- Queue pair 0x20 of the fabric port that leads to a chip, taken up anew (R399). -/
def State.openPair (s : State) (c : Nat) : State :=
  s.updQueue (512 + c) fun _ => { st := .ready, port := s.portTo c, chip := c, rqpn := 0x20, rate := 1600000, alpha := 65536, filledAt := s.clock.time, periodAt := s.clock.time }

/-- A message that is no event: to every member of the view (R393), or to one chip (R397). -/
def State.sendMsg (s : State) (type : Nat) (body : Nat) (att : Option Attach := none) (dest : Option Nat := none) : State :=
  s.send (.message (mkMsg s.clock.time 0 type 0 s.chip body) att dest)

/-- The sponsor's snapshot (R399): an RDMA WRITE of the tables through queue pair 0x20 into the joiner's firmware-reserved DRAM. -/
def State.sendSnapshot (s : State) (joiner : Nat) : State :=
  let t := s.hytur.tables
  let n := t.snapshotBytes
  let rows := t.snapshotRows s.hytur.r
  ((s.openPair joiner).placeCmd (512 + joiner) { id := 0, kind := .put none, remote := BitVec.ofNat 64 (joiner * 2 ^ 54 + snapshotBase), len := n, forward := true, data := (List.range n).map (Config.snapshotByte rows) }).updHytur fun h =>
    { h with sponsoring := h.sponsoring.set joiner (some 0), snapshots := h.snapshots.set joiner (t.position, t.sd, n) }

/-- The contexts that the tables hold OPEN are opened again on a chip that enters (R400); queues of others are unbound. -/
def State.reopen (s : State) : State :=
  let rows := (s.hytur.tables.ctxs.filter fun (e : Nat × CtxRow) => e.2.st = .opened).map (·.1)
  let s := s.drainAlias
  let s := { s with
    ctxs := []
    windows := []
    dieSpad := s.ctxs.foldl (fun (m : Map Byte) (e : Nat × Ctx) => if e.2.usable then clearDies m e.2 else m) s.dieSpad
    cores := s.ctxs.foldl (fun (m : Map Core) (e : Nat × Ctx) => m.map fun (x : Nat × Core) => (x.1, x.2.forget e.1)) s.cores }
  let s := rows.foldl (fun (s : State) r => s.openCtx r) s
  s.queues.foldl (fun (s : State) (e : Nat × Queue) => if 256 ≤ e.1 || s.openGen e.2.slot e.2.gen then s else s.unbindQueue e.1) s

/-- A chip enters the view (R388, R400): every chip's digest history begins again; the entering chip takes up its place. -/
def State.entered (s : State) (joiner : Nat) : State :=
  let now := s.clock.time
  let s := s.updHytur fun h =>
    { h with
      history := [(0, 0)]
      r := 0
      decisions := []
      confirmed := []
      calls := []
      answers := []
      confirms := []
      call := none
      cuts := h.cuts.del joiner
      suspects := h.suspects.del joiner
      sponsoring := h.sponsoring.del joiner
      snapshots := h.snapshots.del joiner }
  let s := s.updPeer joiner fun p => { p with lastHeard := now, agree := none, asked := none, endAt := none }
  if joiner != s.chip then s
  else
    let t := s.hytur.tables
    ({ s with platform := { s.platform with boot := .member } }.updHytur fun h =>
      { h with fenced := false, reason := 0, join := .none, tried := [], nextOseq := (t.chips.get ({} : ChipRow) joiner).oseq, cuts := [], suspects := [], peers := h.peers.map fun (e : Nat × Peer) => (e.1, { e.2 with lastHeard := now }) }).reopen

/-- The porter queues that are bound to a lost chip enter ERROR (R395). -/
def State.loseQueues (s : State) (c : Nat) : State :=
  s.queues.foldl (fun (s : State) (e : Nat × Queue) => if e.2.st = .ready && e.2.chip = c && e.2.port != 16 then s.errorQueue e.1 else s) s

/-- Enacts one effect of an applied event. -/
def State.enact (s : State) (e : Ev) : Effect → State
  | .gridEnd g code row => s.gridEnded g code row
  | .refused stream r => if stream then s else s.outcome r 3
  | .opened row => s.openCtx row
  | .freed row => s.closeCtx row
  | .suspend row on => s.updCtx (row % 64) fun c => if c.gen = row / 64 then { c with suspended := on } else c
  | .unblock grid bid index t => s.unblock grid bid index t
  | .witness c grid bid observed expected subject =>
    if c = s.chip then { s with shadows := s.shadows ++ [{ grid := grid, bid := bid, observed := observed, expected := expected, subject := subject, since := s.clock.time }] } else s
  | .finish grid bid subject => if subject = s.chip then s.orderWitnessed grid bid else s
  | .out c => if c = s.chip then s.fence else if msgType e.msg = 6 then s.loseQueues c else s
  | .announce joiner sponsor => if sponsor = s.chip then s.sendSnapshot joiner else s
  | .enter joiner => s.entered joiner

/-- Enacts an application on this chip (R292); a fenced chip enacts nothing but its own leaving (R392), and so its detectors keep the entries of
grids that end meanwhile (R266, assumption 74). -/
def State.enactAll (s : State) (e : Ev) (fx : List Effect) : State :=
  if s.hytur.fenced then s
  else if fx.contains (.out s.chip) then s.fence
  else (((fx.foldl (fun (s : State) x => s.enact e x) s.abortFreed).markVictims).faultUnusable).orderAgain

/-! ## Delivery (R287, R288, R389) -/

/-- An event applied to the tables, kept in the tail, its digest in the history. -/
def State.applyEvent (s : State) (e : Ev) : State × List Effect :=
  let (t, fx) := s.hytur.tables.apply e
  let s := s.updHytur fun h =>
    { h with
      tables := t
      undelivered := h.undelivered.erase e
      tail := (h.tail ++ [{ e with att := none }]).drop (h.tail.length + 1 - 2 ^ 22)
      history := (h.history ++ [(t.position, t.sd)]).drop (h.history.length - 1023)
      delivered := msgStamp e.msg }
  (s.countDie 0 32, fx)

/-- Whether the chip holds every event of a lost chip below its cut (R395): its own horizon had reached the cut, or it holds all up to the last
that the chip it asked has named (assumption 64). -/
def State.cutHeld (s : State) (c cut : Nat) : Bool := cut ≤ (s.peer c).horizon || (s.peer c).endAt.any fun n => !oseqBefore (s.hytur.heldUpTo c) n

/-- The horizon of a member: the chip's own is its pod time, a lost chip's is unbounded once its events are held (R287, R395). -/
def State.belowHorizon (s : State) (stamp c : Nat) : Bool :=
  if c = s.chip then stamp < s.clock.time else stamp < (s.peer c).horizon || (s.hytur.cuts.find c).any (s.cutHeld c)

/-- Whether one event is delivered before another (R287). -/
def evBefore (a b : Ev) : Bool := keyBefore (evKey a) (evKey b)

/-- The event that is delivered next (R287). -/
def State.deliverable (s : State) : Option Ev :=
  match leastBy evBefore s.hytur.undelivered with
  | some e => if s.hytur.tables.view.all fun c => s.belowHorizon (msgStamp e.msg) c then some e else none
  | none => none

/-- A delivered event goes on to a joiner that this chip sponsors, behind the joiner's SNAPSHOT; the sponsoring ends where, before READY, the tail no
longer covers the gap (R399). -/
def State.forwardOne (s : State) (e : Ev) (j : Nat) (n : Option Nat) : State :=
  if n.any fun k => 2 ^ 22 ≤ k then
    (s.sendMsg 0x27 (mkBody [(0, 2, s.chip), (2, 1, 1)]) none (some j)).updHytur fun h => { h with sponsoring := h.sponsoring.del j, snapshots := h.snapshots.del j }
  else
    let s := if (s.hytur.snapshots.find j).isSome then s else s.send (.message e.msg e.att (some j))
    s.updHytur fun h => { h with sponsoring := h.sponsoring.set j (n.map (· + 1)) }

/-- A delivered event goes on to every joiner that this chip sponsors (R399). -/
def State.forwardTo (s : State) (e : Ev) : State := s.hytur.sponsoring.foldl (fun (s : State) (x : Nat × Option Nat) => s.forwardOne e x.1 x.2) s

/-- Whether the scheduler's tables hold a word with an uncorrectable error (R427). -/
def State.schedError (s : State) : Bool := s.platform.errors.contains .sched

/-- EVENT_DELIVERY (R287 to R296): the next event is applied, and this chip enacts what names it; a table word with an uncorrectable
error fences the chip without a notice (R427). -/
def execEventDelivery (s : State) : Host.Outcome State Fault Refusal :=
  if !s.isMember then .next s
  else match s.deliverable with
    | none => .next s
    | some e =>
      if s.schedError then .next s.fence
      else
        let (s, fx) := s.applyEvent e
        let s := s.forwardTo e
        let s := s.wakeEvents (fun b code => code.toNat / 2 ^ 56 = 2 && code.toNat / 2 ^ 40 % 256 = msgType e.msg && b.ctx = msgCtx e.msg) (BitVec.ofNat 64 (msgStamp e.msg))
        .next (s.enactAll e fx)

/-! ## Hearing events (R280, R286) -/

/-- Whether a message keeps R280: its CRC, its reserved bits. -/
def msgOk (m : Msg) : Bool := crcOk m && msgField m 8 8 / 2 ^ 62 = 0 && msgField m 0x38 4 = 0

/-- Whether the headers are those of a Hytur datagram (R279): through a fabric port, hop limit 255, UDP port 47,211, a right UDP checksum,
link-local addresses. -/
def headOk (h : Head) : Bool := h.port < 16 && h.hop = 255 && h.dport = 47211 && h.sum && h.linkLocal

/-- Whether a datagram is taken (R279, R280). -/
def datagramOk (d : Datagram) : Bool := headOk d.head && msgOk d.msg

/-- The headers of what the chip sends as a Hytur datagram through a fabric port (R279); none for anything else. -/
def Out.head (port : Nat) : Out → Option Head
  | .datagram _ | .lantern _ | .request _ | .message _ _ _ => some { port := port, hop := 255, dport := 47211, sum := true, linkLocal := true, pcp := 7 }
  | .packet _ _ _ | .ptp _ _ | .scanOut _ | .smbus _ => none

/-- Whether an event message is taken: a grid SUBMIT has its record, and their digests agree (R283). -/
def evOk (m : Msg) (att : Option Attach) : Bool :=
  msgOk m && 1 ≤ msgType m && msgType m ≤ 10
    && (if msgType m = 1 && bodyField m 0 1 = 2 then
      match att with
      | some r => recordDigest r = BitVec.ofNat 64 (bodyField m 0x10 8)
      | none => false
    else true)

/-- Whether the chip has an event already: delivered, or held. -/
def State.hasEvent (s : State) (m : Msg) : Bool :=
  oseqBefore (msgOseq m) (s.hytur.tables.chips.get ({} : ChipRow) (msgOrigin m)).oseq
    || s.hytur.undelivered.any fun e => msgOrigin e.msg = msgOrigin m && msgOseq e.msg = msgOseq m

/-- Whether an event lies behind the cut of a lost chip (R395). -/
def State.cutOff (s : State) (m : Msg) : Bool := match s.hytur.cuts.find (msgOrigin m) with | some c => c ≤ msgStamp m | none => false

/-- A joiner sends READY once it has come within 64 positions of its sponsor's last lantern (R400). -/
def State.tryReady (s : State) : State :=
  let h := s.hytur
  if h.join = .replaying && h.sponsorLast.any fun p => p ≤ h.tables.position + 64 then
    (s.sendMsg 0x26 (mkBody [(0, 8, h.tables.position)]) none (some h.sponsor)).updHytur fun h => { h with join := .readySent }
  else s

/-- A forwarded event at a joiner (R400): applied at once. Of what it decides the chip enacts only its own entering, and its leaving where its row
becomes FENCED or GONE (R390); another's entering begins the histories again (R388), and a LOSS gives the number of the next roll call (R395). -/
def State.replay (s : State) (e : Ev) : State :=
  let (s, fx) := s.applyEvent e
  if fx.contains (.out s.chip) then s.leaveView
  else
    let s := s.updHytur fun h => { h with joinAt := s.clock.time, replayed := h.replayed + 1, r := if msgType e.msg = 6 then max h.r (bodyField e.msg 0 4 + 1) else h.r }
    match fx.findSome? fun x => match x with | .enter j => some j | _ => none with
    | some j => if j = s.chip then (s.entered j).faultUnusable else (s.entered j).tryReady
    | none => s.tryReady

/-- HYTUR_EVENT_MESSAGE (R280, R286, R287): an event that is new is kept and forwarded; at a joiner it is replayed. -/
def execHyturEventMessage (d : Datagram) (att : Option Attach) (s : State) : Host.Outcome State Fault Refusal :=
  let m := d.msg
  let o := msgOrigin m
  if !headOk d.head || !evOk m att then .next s
  else if s.hytur.join = .replaying || s.hytur.join = .readySent then
    .next (if msgType m != 6 && oseqBefore (msgOseq m) (s.hytur.tables.chips.get ({} : ChipRow) o).oseq then s else s.replay { msg := m, att := att })
  else if !s.isMember || o = s.chip || msgType m = 6 then .next s
  else if s.cutOff m then .next s
  else if s.hasEvent m then .next (s.hears o)
  else
    let e : Ev := { msg := m, att := att }
    let s := (s.updHytur fun h => { h with undelivered := h.undelivered ++ [e] }).heard o (msgOseq m) (msgStamp m)
    .next (if s.hytur.fenced then s else s.send (.datagram e))

/-! ## Lanterns (R285, R389) -/

/-- How many members of the view disagree with the chip, by lanterns of the last 100 µs (R389). -/
def State.disagreeing (s : State) : Nat :=
  (s.hytur.tables.view.filter fun c => c != s.chip && match (s.peer c).agree with
    | some (ok, t) => !ok && s.clock.time < t + 125000
    | none => false).length

/-- Whether they exceed half of the view. -/
def State.outvoted (s : State) : Bool := s.hytur.tables.view.length < 2 * s.disagreeing

/-- A lantern's digest compared with the chip's own at its position (R389). -/
def State.compare (s : State) (m : Msg) : State :=
  match s.hytur.history.find? fun x => x.1 = bodyField m 8 8 with
  | some x => s.updPeer (msgOrigin m) fun p => { p with agree := some (x.2 = BitVec.ofNat 64 (bodyField m 0 8), msgStamp m) }
  | none => s

/-- LANTERN (R285 to R287, R389, R400). -/
def execLantern (d : Datagram) (s : State) : Host.Outcome State Fault Refusal :=
  let m := d.msg
  let o := msgOrigin m
  let h := s.hytur
  let joins := h.join = .replaying || h.join = .readySent
  if !datagramOk d || msgType m != 0 || o = s.chip || (s.peer o).lanterns.contains (msgStamp m) then .next s
  else
    let s := s.updPeer o fun p => { p with lanterns := msgStamp m :: p.lanterns }
    let s := ((s.heard o (msgOseq m) (msgStamp m)).compare m)
    if joins then
      let s := if o = h.sponsor then s.updHytur fun h => { h with sponsorLast := some (bodyField m 8 8) } else s
      .next (if s.outvoted then (s.sendMsg 0x27 (mkBody [(0, 2, s.chip), (2, 1, 2)]) none (some h.sponsor)).leaveView.updHytur fun h => { h with reason := 4 } else s.tryReady)
    else if !s.isMember || s.hytur.fenced then .next s
    else
      let s := s.send (.lantern m)
      .next (if s.outvoted then s.fenceSelf 1 else s)

/-- LANTERN_EMIT (R285, R391, R427). -/
def execLanternEmit (s : State) : Host.Outcome State Fault Refusal :=
  let h := s.hytur
  if !s.isMember || s.schedError || s.clock.time < h.lastLantern + 1250 then .next s
  else
    let m := mkMsg s.clock.time 0 0 ((h.nextOseq + oseqs - 1) % oseqs) s.chip (mkBody [(0, 8, h.tables.sd.toNat), (8, 8, h.tables.position), (0x10, 8, h.delivered)])
    .next (((s.send (.lantern m)).countDie 0 33).updHytur fun h => { h with lastLantern := s.clock.time })

/-! ## Retransmission (R286) -/

/-- A retransmit request: origin, range, the chip that is to answer, 0xFFFF where it is the next one in the tree, and the cut of a lost origin, in a
layout of the model's own (assumption 24). -/
def State.requestEvents (s : State) (o first last : Nat) (answerer : Nat := 0xFFFF) (cut : Nat := 0) : State :=
  (s.countDie 0 34).send (.request (mkMsg s.clock.time 0 0x10 0 s.chip (mkBody [(0, 2, o), (2, 2, answerer), (8, 8, first), (0x10, 8, last), (0x18, 8, cut)])))

/-- A chip asks for the events of a lost chip that it lacks below the cut: the one that reported the cut, or, where that one has left the view
itself, the lowest other member (R395, assumption 64). -/
def State.askLost (s : State) (c cut : Nat) : State :=
  let view := s.hytur.tables.view
  let a := (s.peer c).answerer
  let a := if view.contains a then a else ((view.filter fun x => x != s.chip && x != c).head?).getD a
  (s.requestEvents c (s.hytur.heldUpTo c) (oseqs - 2) a cut).updPeer c fun p => { p with asked := some s.clock.time }

/-- Events of a lost chip that are asked for again after 4 µs, until all below its cut are held (R395). -/
def State.askAgain (s : State) (c : Nat) : Option State :=
  match s.hytur.cuts.find c, (s.peer c).asked with
  | some cut, some t => if s.isMember && !s.cutHeld c cut && t + 5000 ≤ s.clock.time then some (s.askLost c cut) else none
  | _, _ => none

/-- RETRANSMIT_GAP_TIMEOUT (R286, R395): a gap has lasted 4 µs. -/
def execRetransmitGapTimeout (origin : Nat) (s : State) : Host.Outcome State Fault Refusal :=
  if let some t := s.askAgain origin then .next t
  else match (s.peer origin).gapSince with
  | some (t, l) =>
    if !s.isMember || s.clock.time < t + 5000 then .next s
    else .next ((s.requestEvents origin (s.hytur.heldUpTo origin) l).updPeer origin fun p => { p with gapSince := some (s.clock.time, l) })
  | none => .next s

/-- An event as it is sent again: a grid SUBMIT takes its record from its grid row (R288). -/
def State.withRecord (s : State) (e : Ev) : Option Ev :=
  if msgType e.msg != 1 || bodyField e.msg 0 1 != 2 || e.att.isSome then some e
  else (s.hytur.tables.grids.find? fun (g : Nat × GridRow) => (g.2.stamp, g.2.origin, g.2.oseq) = evKey e && !g.2.stream).map fun g => { e with att := some g.2.record }

/-- The oseq behind the last event of a lost chip below a cut that this chip holds. -/
def Hytur.endOf (h : Hytur) (c cut : Nat) : Nat :=
  let l := (h.undelivered.filter fun e => msgOrigin e.msg = c && msgType e.msg != 6 && msgStamp e.msg < cut).map fun e => msgOseq e.msg
  nextHeld l l.length (h.tables.chips.get ({} : ChipRow) c).oseq

/-- A chip that holds every event of a lost chip below its cut answers one that asks it for them, and names the end (R395, assumptions 24 and
64). -/
def State.answerLost (s : State) (m : Msg) (found : List Ev) : State :=
  let o := bodyField m 0 2
  (found.foldl (fun (s : State) e => s.send (.message e.msg e.att (some (msgOrigin m)))) s).sendMsg 0x10
    (mkBody [(0, 2, o), (2, 2, 0xFFFE), (8, 8, s.hytur.endOf o (bodyField m 0x18 8))]) none (some (msgOrigin m))

/-- RETRANSMIT_REQUEST (R286, R393, R395): answered from what is held; what cannot be answered is forwarded. The end of a lost chip's events is
noted. -/
def execRetransmitRequest (d : Datagram) (s : State) : Host.Outcome State Fault Refusal :=
  let m := d.msg
  if !datagramOk d || msgType m != 0x10 || !s.isMember then .next s
  else
    let o := bodyField m 0 2
    let s := if msgOrigin m = s.chip then s else s.hears (msgOrigin m)
    if bodyField m 2 2 = 0xFFFE then .next (if (s.hytur.cuts.find o).isSome then s.updPeer o fun p => { p with endAt := some (bodyField m 8 8) } else s)
    else
    let first := bodyField m 8 8
    let n := (bodyField m 0x10 8 + oseqs - first) % oseqs + 1
    let mine := (s.hytur.tail ++ s.hytur.undelivered).filter fun e => msgOrigin e.msg = o && (msgOseq e.msg + oseqs - first) % oseqs < n
    let found := mine.filterMap s.withRecord
    let cut := bodyField m 0x18 8
    if cut != 0 && bodyField m 2 2 = s.chip && cut ≤ (s.peer o).horizon then .next (s.answerLost m (found.filter fun e => msgStamp e.msg < cut))
    else
    let s := found.foldl (fun (s : State) e => s.send (.datagram e)) s
    .next (if found.length < n && !s.hytur.fenced then s.send (.request m) else s)

/-! ## Snapshots that have been written (R399) -/

/-- SNAPSHOT follows the WRITE, and the events that have passed it meanwhile follow SNAPSHOT; a WRITE that failed ends the sponsoring. -/
def State.snapshotDone (s : State) (j : Nat) (x : Nat × DWord × Nat) : State :=
  let q := s.queue (512 + j)
  if !q.cmds.isEmpty then s
  else
    let n := ((s.hytur.sponsoring.find j).getD none).getD 0
    let s := s.updHytur fun h => { h with snapshots := h.snapshots.del j, sponsoring := if q.st = .ready then h.sponsoring else h.sponsoring.del j }
    if q.st != .ready then s
    else
      let s := s.sendMsg 0x25 (mkBody [(0, 8, x.1), (8, 8, x.2.1.toNat), (0x10, 8, x.2.2), (0x18, 2, s.chip)]) none (some j)
      ((s.hytur.tail.drop (s.hytur.tail.length - n)).filterMap s.withRecord).foldl (fun (s : State) e => s.send (.message e.msg e.att (some j))) s

/-- Every snapshot that has been written. -/
def State.snapshotsDone (s : State) : State := s.hytur.snapshots.foldl (fun (s : State) e => s.snapshotDone e.1 e.2) s

/-! ## The host's submissions (R284, R322) -/

/-- Whether the host may submit a message (R284). -/
def State.hostOk (s : State) (m : Msg) : Bool :=
  let kind := bodyField m 0 1
  let t := s.hytur.tables
  let opening := msgType m = 1 && kind = 3
  s.isMember && !s.hytur.fenced && msgField m 8 8 / 2 ^ 62 = 0 && msgField m 0x38 4 = 0
    && ((msgType m = 1 && (kind = 1 || kind = 3 || kind = 4 || kind = 5)) || msgType m = 4 || msgType m = 9 || msgType m = 10)
    && (opening || (t.ctx (t.ctxRowOf (msgCtx m))).st = .opened
      || s.hytur.undelivered.any fun e => msgType e.msg = 1 && bodyField e.msg 0 1 = 3 && msgCtx e.msg = msgCtx m)

/-- A submission is emitted as an event, or refused; the answer says which (R284, R322). -/
def State.submitOne (s : State) (m : Msg) : State :=
  if s.hostOk m then
    let t := s.originate (msgType m) (msgCtx m) (bodyField m 0 40)
    match t.hytur.undelivered.getLast? with
      | some e => t.answerHost 0 e.msg
      | none => t
  else s.answerHost 0 (BitVec.ofNat 512 (setField m.toNat 0x38 1 1))

/-- Performs submissions in order, up to one that waits for room in the origin queue (R282). -/
def State.drainSubmits (s : State) : List Msg → State
  | [] => { s with submits := [] }
  | m :: r => if s.hostOk m && s.originFull then { s with submits := m :: r } else State.drainSubmits (s.submitOne m) r

/-- A message on the submission queue (R284, R322), performed behind those that wait. Before firmware has bound the queue nothing answers. -/
def State.submit (s : State) (m : Msg) : State := if s.booted then s.drainSubmits (s.submits ++ [m]) else s

/-- HOST_SUBMISSION (R284, R322). -/
def execHostSubmission (m : Msg) (s : State) : Host.Outcome State Fault Refusal := .next (s.submit m)

end Sys2Proof.Machine
end

