-- ==== Sys2Proof/Machine/Repair.lean ====
section
/-!
DEFINITION. Pod repair on this chip (R393 to R400): suspicion, the roll call, fences, sponsoring, joining and founding; and the
pod clock (R277, R278).
-/

namespace Sys2Proof.Machine

/-! ## The roll call (R393 to R395) -/

/-- Whether a chip takes part in roll calls: a member that is not fenced (R392). -/
def State.callsRolls (s : State) : Bool := s.isMember && !s.hytur.fenced

/-- Whether a roll-call message is one of a type from another member of the view. A fenced member still hears them, so that it goes on
delivering until its row is FENCED or GONE, and answers none (R392). -/
def State.rollMsg (s : State) (type : Nat) (d : Datagram) : Bool :=
  let m := d.msg
  datagramOk d && msgType m = type && s.isMember && msgOrigin m != s.chip && s.hytur.tables.view.contains (msgOrigin m)

/-- A chip's horizon for a chip; its own is its pod time (R287). -/
def State.horizonOf (s : State) (c : Nat) : Nat := if c = s.chip then s.clock.time else (s.peer c).horizon

/-- 64 words of 8 bytes as an attachment. -/
def attachWords (ws : List Nat) : Attach := BitVec.ofNat 4096 (numOf ((ws.take 64).flatMap (bytesOf 8)))

/-- The suspects of a CALL as its attachment: ascending, 0xFFFF in unused places (R393). -/
def attachSuspects (l : List Nat) : Attach :=
  BitVec.ofNat 4096 (numOf ((List.range 64).flatMap fun i => bytesOf 2 (l.getD i 0xFFFF)))

/-- The suspects that a CALL's attachment names. -/
def suspectsOf (n : Nat) (a : Attach) : List Nat := (List.range n).map fun i => recField a (2 * i) 2

/-- Calls a roll (R394): a CALL to every member; the caller's own horizons are its first answer. -/
def State.callRoll (s : State) : State :=
  let l := (s.hytur.suspects.map (·.1)).take 64
  let r := s.hytur.r
  (s.sendMsg 0x20 (mkBody [(0, 4, r), (4, 1, l.length)]) (some (attachSuspects l))).updHytur fun h =>
    { h with
      call := some { r := r, at_ := s.clock.time, suspects := l, answers := [(s.chip, l.map s.horizonOf)] }
      calls := (r, s.chip, l, s.clock.time) :: h.calls.filter fun c => !(c.1 = r && c.2.1 = s.chip) }

/-- SUSPICION (R393, R394): nothing has been heard from a member for 50 µs; the chip becomes a caller. -/
def execSuspicion (member : Nat) (s : State) : Host.Outcome State Fault Refusal :=
  let h := s.hytur
  if !s.callsRolls || member = s.chip || !h.tables.view.contains member || (h.suspects.find member).isSome
      || (h.cuts.find member).isSome || s.clock.time < (s.peer member).lastHeard + 62500 then .next s
  else
    let s := s.updHytur fun h => { h with suspects := h.suspects.set member s.clock.time }
    .next (if h.call.isSome then s else s.callRoll)

/-- ANSWER (R394): every member notes what each has answered, so that it knows who reported a horizon (R395). -/
def execAnswer (d : Datagram) (att : Attach) (s : State) : Host.Outcome State Fault Refusal :=
  let m := d.msg
  if !s.rollMsg 0x21 d then .next s
  else
    let s := s.hears (msgOrigin m)
    let said := (bodyField m 0 4, bodyField m 4 2, msgOrigin m, (List.range 64).map fun i => recField att (8 * i) 8)
    .next (s.updHytur fun h =>
      { h with
        answers := if h.answers.contains said then h.answers else h.answers ++ [said]
        call := h.call.map fun x =>
          if x.r = bodyField m 0 4 && bodyField m 4 2 = s.chip && !x.decided then
            { x with answers := x.answers.set (msgOrigin m) ((List.range x.suspects.length).map fun i => recField att (8 * i) 8) }
          else x })

/-- Whether a number is more than half of the view. -/
def State.majority (s : State) (n : Nat) : Bool := s.hytur.tables.view.length < 2 * n

/-- Each suspect of a call with C_s where it is lost, otherwise 0 (R394). -/
def Call.cuts (c : Call) : List (Nat × Nat) :=
  (List.range c.suspects.length).map fun i =>
    let x := c.suspects.getD i 0
    (x, if (c.answers.find x).isSome then 0 else c.answers.foldl (fun (n : Nat) (a : Nat × List Nat) => max n (a.2.getD i 0)) 0)

/-- The words of a DECIDE's attachment. -/
def decideWords (cs : List (Nat × Nat)) : List Nat := (List.range 64).map fun i => (cs.getD i (0, 0)).2

/-- The decision digest (R393). -/
def decisionDigest (ws : List Nat) (cut : Nat) : DWord := foldWords ((ws ++ [cut]).map (BitVec.ofNat 64))

/-- The LOSS event of a lost chip (R395). -/
def lossEvent (d : Decision) (c : Nat × Nat) : Ev :=
  { msg := mkMsg (d.cut + 1) 0 6 (oseqs - 1) c.1 (mkBody [(0, 4, d.r), (8, 8, c.2), (0x10, 2, d.caller)]) }

/-- The suspects of a CALL that this chip has heard last from a caller. -/
def State.callOf (s : State) (r caller : Nat) : Option (List Nat) := (s.hytur.calls.find? fun x => x.1 = r && x.2.1 = caller).map (·.2.2.1)

/-- The suspects of a decision, each with C_s where it is lost, otherwise 0: none before its caller's CALL has come (R394). -/
def Decision.lost (d : Decision) : Option (List (Nat × Nat)) :=
  d.suspects.map fun l => (List.range l.length).map fun i => (l.getD i 0, d.words.getD i 0)

/-- The chip that reported C_s for suspect i of a decision's CALL (R395); the caller where its answer has not been heard. -/
def State.answererOf (s : State) (d : Decision) (i cs : Nat) : Nat :=
  ((s.hytur.answers.find? fun x => x.1 = d.r && x.2.1 = d.caller && x.2.2.2.getD i 0 = cs).map (·.2.2.1)).getD d.caller

/-- One lost chip of a decision (R395), suspect i of its CALL: its events from C_s on are discarded, its horizon is unbounded once those
below are held, its LOSS event is inserted; a member that may lack events of it asks the one that reported C_s for them. -/
def State.cutChip (s : State) (d : Decision) (i : Nat) (c : Nat × Nat) : State :=
  let s := if s.horizonOf c.1 < c.2 then (s.updPeer c.1 fun p => { p with answerer := s.answererOf d i c.2, endAt := none }).askLost c.1 c.2 else s
  s.updHytur fun h =>
    { h with
      cuts := h.cuts.set c.1 c.2
      suspects := h.suspects.del c.1
      undelivered := (h.undelivered.filter fun e => !(msgOrigin e.msg = c.1 && c.2 ≤ msgStamp e.msg)) ++ [lossEvent d c] }

/-- Applies a decision (R395). -/
def State.applyDecision (s : State) (d : Decision) : State :=
  (((d.lost.getD []).zipIdx.filter fun c => c.1.2 != 0).foldl (fun (s : State) c => s.cutChip d c.2 c.1) s).updHytur fun h => { h with r := h.r + 1, call := none }

/-- A decision of the current roll call that more than half of the view has confirmed (R394). -/
def State.settled (s : State) : Option Decision :=
  let h := s.hytur
  h.decisions.find? fun d => d.r = h.r && d.suspects.isSome && s.majority (h.confirms.filter fun c => c.1 = d.r && c.2.1 = d.digest && h.tables.view.contains c.2.2).length

/-- Applies the decisions that are settled, one roll call after another. -/
def State.settleRolls : Nat → State → State
  | 0, s => s
  | n + 1, s => match s.settled with
    | some d => State.settleRolls n (s.applyDecision d)
    | none => s

/-- The state after something about a decision has come in. -/
def State.tryDecisions (s : State) : State := State.settleRolls s.hytur.decisions.length s

/-- A confirmation of a decision by a chip. -/
def State.addConfirm (s : State) (r : Nat) (digest : DWord) (c : Nat) : State :=
  s.updHytur fun h => if h.confirms.contains (r, digest, c) then h else { h with confirms := h.confirms ++ [(r, digest, c)] }

/-- A DECIDE received, or made: the first of its roll call is confirmed to every member (R394), but by a fenced chip (R392). -/
def State.receiveDecide (s : State) (d : Decision) : State :=
  let s := s.updHytur fun h => { h with decisions := h.decisions ++ [d] }
  let s := if s.hytur.confirmed.contains d.r || s.hytur.fenced then s
    else ((s.updHytur fun h => { h with confirmed := d.r :: h.confirmed }).addConfirm d.r d.digest s.chip).sendMsg 0x23
      (mkBody [(0, 4, d.r), (4, 2, d.caller), (8, 8, d.digest.toNat)])
  s.tryDecisions

/-- CALL_MESSAGE (R394): the CALL is answered with the chip's horizons; a caller gives way to a lower-numbered one. -/
def execCallMessage (d : Datagram) (att : Attach) (s : State) : Host.Outcome State Fault Refusal :=
  let m := d.msg
  if !s.rollMsg 0x20 d then .next s
  else
    let c := msgOrigin m
    let r := bodyField m 0 4
    let l := suspectsOf (bodyField m 4 1) att
    let s := (s.hears c).updHytur fun h =>
      { h with
        calls := (r, c, l, s.clock.time) :: h.calls.filter fun x => !(x.1 = r && x.2.1 = c)
        decisions := h.decisions.map fun d => if d.r = r && d.caller = c && d.suspects.isNone then { d with suspects := some l } else d
        call := match h.call with
          | some x => if x.r = r && c < s.chip then none else some x
          | none => none }
    .next (if s.hytur.fenced then s.tryDecisions else (s.sendMsg 0x21 (mkBody [(0, 4, r), (4, 2, c)]) (some (attachWords (l.map s.horizonOf)))).tryDecisions)

/-- DECIDE_TIMEOUT (R394): 20 µs after its CALL the caller decides, if more than half of the view has answered. -/
def execDecideTimeout (s : State) : Host.Outcome State Fault Refusal :=
  match s.hytur.call with
  | none => .next s
  | some c =>
    if !s.callsRolls || c.decided || s.clock.time < c.at_ + 25000 then .next s
    else
      let s := s.updHytur fun h => { h with call := some { c with decided := true } }
      let cs := c.cuts
      let top := cs.foldl (fun (n : Nat) x => max n x.2) 0
      if !s.majority c.answers.length || top = 0 then .next s
      else
        let ws := decideWords cs
        let d : Decision := { r := c.r, caller := s.chip, cut := top - 1, digest := decisionDigest ws (top - 1), words := ws, suspects := some c.suspects }
        .next ((s.sendMsg 0x22 (mkBody [(0, 4, d.r), (8, 8, d.cut), (0x10, 8, d.digest.toNat)]) (some (attachWords ws))).receiveDecide d)

/-- DECIDE (R394): confirmed as it comes; it can be applied once its caller's CALL has named the suspects that its words stand for. -/
def execDecide (d : Datagram) (att : Attach) (s : State) : Host.Outcome State Fault Refusal :=
  let m := d.msg
  let r := bodyField m 0 4
  let c := msgOrigin m
  let ws := (List.range 64).map fun i => recField att (8 * i) 8
  let digest := BitVec.ofNat 64 (bodyField m 0x10 8)
  if !s.rollMsg 0x22 d then .next s
  else
    let s := s.hears c
    if r < s.hytur.r || digest != decisionDigest ws (bodyField m 8 8) then .next s
    else .next (s.receiveDecide { r := r, caller := c, cut := bodyField m 8 8, digest := digest, words := ws, suspects := s.callOf r c })

/-- CONFIRM (R394, R395). -/
def execConfirm (d : Datagram) (s : State) : Host.Outcome State Fault Refusal :=
  let m := d.msg
  if !s.rollMsg 0x23 d then .next s
  else .next (((s.hears (msgOrigin m)).addConfirm (bodyField m 0 4) (BitVec.ofNat 64 (bodyField m 8 8)) (msgOrigin m)).tryDecisions)

/-- When the oldest suspicion began. -/
def State.suspectsSince (s : State) : Option Nat := (leastBy (fun (a b : Nat × Nat) => a.2 < b.2) s.hytur.suspects).map (·.2)

/-- ROLL_CALL_RETRY (R394): a suspicion has stood for 100 µs. A lower-numbered member that the chip hears counts as one that still
suspects for 100 µs after its last CALL (assumption 64). -/
def execRollCallRetry (s : State) : Host.Outcome State Fault Refusal :=
  let h := s.hytur
  match s.suspectsSince with
  | some t =>
    let lower := (h.calls.filter fun x => x.1 = h.r && x.2.1 ≤ s.chip && (h.suspects.find x.2.1).isNone).map (·.2.2.2)
    let last := lower.foldl max t
    if !s.callsRolls || s.clock.time < last + 125000 then .next s else .next s.callRoll
  | none => .next s

/-- ROLL_CALL_FENCE (R396): no decision within 1 ms of the first suspicion. -/
def execRollCallFence (s : State) : Host.Outcome State Fault Refusal :=
  match s.suspectsSince with
  | some t => .next (if s.callsRolls && t + 1250000 ≤ s.clock.time then s.fenceSelf 3 else s)
  | none => .next s

/-! ## Sponsoring (R398 to R400) -/

/-- ASK (R398): the sponsor announces the joiner. -/
def execAsk (d : Datagram) (s : State) : Host.Outcome State Fault Refusal :=
  let m := d.msg
  let j := bodyField m 0 2
  if !datagramOk d || msgType m != 0x24 || !s.callsRolls || s.hytur.tables.chipSt j = .member then .next s
  else .next (s.originate 7 0 (mkBody [(0, 1, 1), (2, 2, j), (4, 2, s.chip)]))

/-- READY (R400): the sponsor orders the joiner's entering, with its next expected oseq; its tail need not cover the gap any longer (R399). -/
def execReady (d : Datagram) (s : State) : Host.Outcome State Fault Refusal :=
  let m := d.msg
  let j := msgOrigin m
  if !datagramOk d || msgType m != 0x26 || !s.callsRolls || (s.hytur.sponsoring.find j).isNone then .next s
  else .next ((s.updHytur fun h => { h with sponsoring := h.sponsoring.set j none }).originate 7 0 (mkBody [(0, 1, 2), (2, 2, j), (4, 2, s.chip), (8, 8, (s.hytur.tables.chips.get ({} : ChipRow) j).oseq)]))

/-! ## Joining (R397 to R400) -/

/-- A join attempt has ended: the chip asks again, or the next sponsor (R399, R400). -/
def State.leaveJoin (s : State) : State := s.updHytur fun h => { h with join := .none }

/-- ABANDON (R397, R399, R400): from the sponsor it ends the attempt; from the joiner it ends the sponsoring. -/
def execAbandon (d : Datagram) (s : State) : Host.Outcome State Fault Refusal :=
  let m := d.msg
  let c := bodyField m 0 2
  if !datagramOk d || msgType m != 0x27 then .next s
  else if s.hytur.join != .none && c = s.hytur.sponsor then .next s.leaveJoin
  else if (s.hytur.sponsoring.find c).isSome then .next (s.updHytur fun h => { h with sponsoring := h.sponsoring.del c, snapshots := h.snapshots.del c })
  else .next s

/-- JOINER_TIMEOUT (R400): nothing forwarded for 10 ms; the next sponsor is asked. -/
def execJoinerTimeout (s : State) : Host.Outcome State Fault Refusal :=
  let h := s.hytur
  if h.join = .none || s.clock.time < h.joinAt + 12500000 then .next s
  else .next (((s.sendMsg 0x27 (mkBody [(0, 2, s.chip), (2, 1, 3)]) none (some h.sponsor)).updHytur fun h => { h with tried := h.sponsor :: h.tried }).leaveJoin)

/-- The chips of the neighbour table (R279). -/
def State.neighbours (s : State) : List Nat := s.platform.config.neighbours.map fun n => n.2.1

/-- The sponsor (R397): the lowest-numbered neighbour that the chip last knew as a member and has not tried in vain; one that it knows
nothing of where there is none (assumption 25). -/
def State.pickSponsor (s : State) : Option Nat :=
  let h := s.hytur
  let ns := s.neighbours.filter fun c => c != s.chip
  let known := ns.filter fun c => h.tables.view.contains c
  let least := fun (l : List Nat) => leastBy (fun (a b : Nat) => a < b) l
  match least (known.filter fun c => !h.tried.contains c) with
  | some c => some c
  | none => match least known with
    | some c => some c
    | none => match least (ns.filter fun c => !h.tried.contains c) with
      | some c => some c
      | none => least ns

/-- Whether a lantern has been heard since the clock locked (R397). -/
def State.lanternHeard (s : State) : Bool := s.hytur.peers.any fun (e : Nat × Peer) => e.2.lanterns.any fun t => s.clock.lockedAt ≤ t

/-- REJOIN_ASK (R397): a chip outside the view, with a locked clock, asks its sponsor, a founding chip up from reset once it has heard a lantern. Queue
pair 0x20 towards the sponsor is taken up anew, so that it counts from 0 (R399). -/
def execRejoinAsk (s : State) : Host.Outcome State Fault Refusal :=
  let h := s.hytur
  let waits := h.fenceAt != 0 && s.clock.time < h.fenceAt + 1250000
  if s.platform.boot != .joining || !s.clock.locked || h.join != .none || waits || s.platform.config.founding && h.fenceAt = 0 && !s.lanternHeard then .next s
  else match s.pickSponsor with
    | none => .next s
    | some c =>
      let tried := if h.tried.contains c then [] else h.tried
      .next (((s.openPair c).sendMsg 0x24 (mkBody [(0, 2, s.chip), (2, 1, h.reason)]) none (some c)).updHytur fun h => { h with join := .asked, sponsor := c, joinAt := s.clock.time, tried := tried })

/-- A number of a snapshot row. -/
def rowAt (l : List Nat) (i : Nat) : Nat := l.getD i 0

/-- The tables of a snapshot, from the numbers of its rows. -/
def snapshotTables (rows : Nat → List (List Nat)) (sd : DWord) (position : Nat) : Tables :=
  let fill := fun {α : Type} (t : Nat) (f : List Nat → α) => (rows t).foldl (fun (m : Map α) l => m.set (rowAt l 0) (f l)) ([] : Map α)
  let chip := fun n => if n = 1 then ChipSt.joining else if n = 2 then .member else if n = 3 then .fenced else .gone
  let grid := fun n => if n = 1 then GridSt.waiting else if n = 2 then .admitted else if n = 3 then .running else if n = 4 then .done else if n = 5 then .faulted else .free
  let block := fun n => if n = 1 then BlockSt.pending else if n = 2 then .placed else if n = 3 then .running else if n = 4 then .parked else if n = 5 then .done else if n = 6 then .faulted else if n = 7 then .lost else .free
  { chips := fill 0 fun l => { st := chip (rowAt l 1), oseq := rowAt l 2 }
    ctxs := fill 1 fun l => { st := if rowAt l 1 = 1 then .opened else if rowAt l 1 = 2 then .closing else .free, prio := rowAt l 2, dmode := rowAt l 3 = 1, detect := rowAt l 4 = 1, slice := rowAt l 5, suspended := rowAt l 6 = 1, desc := rowAt l 7 }
    gens := fill 2 fun l => rowAt l 1
    grids := fill 3 fun l => { st := grid (rowAt l 1), ctxRow := rowAt l 2, stamp := rowAt l 3, origin := rowAt l 4, oseq := rowAt l 5, stream := rowAt l 6 = 1, record := BitVec.ofNat 4096 (rowAt l 7), arg := BitVec.ofNat 64 (rowAt l 8), next := rowAt l 9, dones := rowAt l 10, digest := BitVec.ofNat 64 (rowAt l 11), tookIn := rowAt l 12 = 1, tookOut := rowAt l 13 = 1, cancelled := rowAt l 14 = 1, ended := (rowAt l 15, rowAt l 16, rowAt l 17) }
    blocks := (rows 4).foldl (fun (m : List BlockRow) l => insertBy BlockRow.before { grid := rowAt l 0, bid := rowAt l 1, st := block (rowAt l 2), chip := rowAt l 3, off := rowAt l 4, saved := rowAt l 5 = 1, since := rowAt l 6 } m) []
    edges := fill 5 fun l => { cap := rowAt l 1, free := rowAt l 2, ready := rowAt l 3, claimed := rowAt l 4 }
    off := fill 6 fun l => rowAt l 1
    sd := sd
    position := position }

/-- SNAPSHOT (R399, R400): the joiner loads the snapshot that stands in its firmware-reserved DRAM, and follows its sponsor's events; to
a second sponsor it sends ABANDON. -/
def execSnapshot (d : Datagram) (s : State) : Host.Outcome State Fault Refusal :=
  let m := d.msg
  let h := s.hytur
  if !datagramOk d || msgType m != 0x25 || h.join = .none then .next s
  else if h.join != .asked then
    .next (if bodyField m 0x18 2 = h.sponsor then s else s.sendMsg 0x27 (mkBody [(0, 2, s.chip), (2, 1, 3)]) none (some (bodyField m 0x18 2)))
  else
    let cells := Map.range s.mem snapshotBase 0xC000000000
    let rows := fun t => Config.snapshotRows t cells
    let sd := BitVec.ofNat 64 (bodyField m 8 8)
    .next (s.updHytur fun h =>
      { h with
        tables := snapshotTables rows sd (bodyField m 0 8)
        r := rowAt ((rows 7).headD []) 0
        undelivered := []
        history := [(bodyField m 0 8, sd)]
        peers := h.peers.map fun (e : Nat × Peer) => (e.1, { e.2 with agree := none, gapSince := none, asked := none, endAt := none })
        join := .replaying
        sponsor := bodyField m 0x18 2
        sponsorLast := none
        joinAt := s.clock.time })

/-- FOUNDING (R397): the founding chip has heard no lantern for 10 ms since its clock locked; it forms a view of itself. -/
def execFounding (s : State) : Host.Outcome State Fault Refusal :=
  if !s.platform.config.founding || s.platform.boot != .joining || !s.clock.locked || s.hytur.join != .none || s.lanternHeard
      || s.clock.time < s.clock.lockedAt + 12500000 then .next s
  else
    let s := s.updHytur fun h => { h with tables := { chips := [(s.chip, { st := .member, oseq := 0 })] }, undelivered := [] }
    .next (s.entered s.chip)

/-! ## The pod clock (R277, R278) -/

/-- CLOCK_UNLOCK_FENCE (R278): a member's clock has been unlocked for 1 ms. -/
def execClockUnlockFence (s : State) : Host.Outcome State Fault Refusal :=
  .next (if !s.clock.locked && s.clock.since + 1250000 ≤ s.clock.time then s.fenceSelf 2 else s)

/-- A clock with a measured offset from its master, in nanoseconds (R278). -/
def Clock.measure (c : Clock) (offset : Int) : Clock :=
  let good := if -50 ≤ offset && offset ≤ 50 then c.good + 1 else 0
  let far : Bool := offset < -100 || 100 < offset
  let c := { c with offset := offset, good := good }
  if far then (if c.locked then { c with locked := false, since := c.time } else c)
  else if !c.locked && 16 ≤ good then { c with locked := true, lockedAt := c.time } else c

/-- Whether one list of numbers stands before another. -/
def listBefore : List Nat → List Nat → Bool
  | [], _ => false
  | _ :: _, [] => false
  | a :: x, b :: y => a < b || (a = b && listBefore x y)

/-- The data of a clock in the order in which the best master clock algorithm compares them (IEEE 1588's default, assumption 70). -/
def ptpRank (d : PtpData) : List Nat := [d.prio1, d.quality.1, d.quality.2.1, d.quality.2.2, d.prio2, d.identity, d.steps]

/-- The chip's own clock as it announces it (R277, R431); quality and identity are not stated (assumption 70). -/
def State.ptpSelf (s : State) : PtpData :=
  { prio1 := s.platform.config.prio1, quality := Config.clockQuality, prio2 := s.platform.config.prio2, identity := s.chip, steps := 0 }

/-- The best foreign master, with the port that hears it. -/
def Clock.best (c : Clock) : Option (Nat × PtpData) :=
  c.masters.foldl (fun (m : Option (Nat × PtpData)) (e : Nat × PtpData) => match m with
    | none => some e
    | some x => if listBefore (ptpRank e.2) (ptpRank x.2) then some e else some x) none

/-- The roles of a clock port (R277): port H is a slave or disabled. -/
inductive PtpRole where
  | master | slave | passive | disabled
deriving DecidableEq, Repr

/-- The role of a port by the best master clock algorithm: the port that hears the best clock is the slave, unless the chip's own is better; a
fabric port that hears the same grandmaster no farther away than this chip would announce it is passive, and any other is a master. -/
def State.ptpRole (s : State) (port : Nat) : PtpRole :=
  let other : PtpRole := if port < 16 then .master else .disabled
  match s.clock.best with
  | none => other
  | some (p, d) =>
    if !listBefore (ptpRank d) (ptpRank s.ptpSelf) then other
    else if p = port then .slave
    else match s.clock.masters.find port with
      | some e => if port < 16 && e.identity = d.identity && e.steps ≤ d.steps + 1 then .passive else other
      | none => other

/-- A measured offset (R278, R432): the clock is stepped only before the first JOIN after reset, and locking takes
the chip from LOCKING to JOINING. -/
def State.measured (s : State) (offset : Int) : State :=
    let c := s.clock.measure offset
    let c := if s.platform.boot = .locking then { c with time := ((c.time : Int) - offset * 5 / 4).toNat } else c
    let boot := if s.platform.boot = .locking && c.locked then .joining else s.platform.boot
    { s with clock := { c with lockedAt := if s.platform.boot = .locking && c.locked then c.time else c.lockedAt }, platform := { s.platform with boot := boot } }

/-- PTP messages of a port leave in order. -/
def State.sendPtp (s : State) (port : Nat) (l : List PtpOut) : State := l.foldl (fun (s : State) m => s.send (.ptp port m)) s

/-- What a master port announces: the chip's own clock, or its grandmaster, one step farther away (R277). -/
def State.ptpAnnounced (s : State) : PtpData :=
  match s.clock.best with
  | some (_, d) => if listBefore (ptpRank d) (ptpRank s.ptpSelf) then { d with steps := d.steps + 1 } else s.ptpSelf
  | none => s.ptpSelf

/-- PTP_MESSAGE (R277, R278): an Announce tells of the master that a port hears; a fabric port answers its peer's delay request in two steps; an
offset measured on the slave port is taken, on any other it is not. -/
def execPtpMessage (m : PtpMsg) (s : State) : Host.Outcome State Fault Refusal :=
  let listens := fun (port : Nat) => s.booted && port ≤ 16
  match m with
  | .announce port d => .next (if listens port then { s with clock := { s.clock with masters := s.clock.masters.set port d } } else s)
  | .pdelayReq port => .next (if listens port && port < 16 then s.sendPtp port [.pdelayResp, .pdelayRespFollowUp] else s)
  | .offset port o => .next (if listens port && s.ptpRole port = .slave then s.measured o else s)

/-- Whether an interval of a port has passed. -/
def State.ptpDue (s : State) (m : Map Nat) (port ticks : Nat) : Bool := (m.find port).all fun t => t + ticks ≤ s.clock.time

/-- PTP_SYNC_INTERVAL (R277): every 2^-7 s a fabric port sends its peer-delay request, and as master its two-step Sync with it, every 2 s an Announce
(assumption 70); port H, as slave, sends its end-to-end delay request. -/
def execPtpSyncInterval (port : Nat) (s : State) : Host.Outcome State Fault Refusal :=
  let role := s.ptpRole port
  if !s.booted || 17 ≤ port || !s.ptpDue s.clock.syncAt port 9765625 then .next s
  else
    let announces : Bool := role = .master && s.ptpDue s.clock.announceAt port 2500000000
    let c := { s.clock with syncAt := s.clock.syncAt.set port s.clock.time, announceAt := if announces then s.clock.announceAt.set port s.clock.time else s.clock.announceAt }
    let l : List PtpOut := if port = 16 then (if role = PtpRole.slave then [.delayReq] else [])
      else (if announces then [.announce s.ptpAnnounced] else []) ++ (if role = PtpRole.master then [.sync, .followUp] else []) ++ [.pdelayReq]
    .next ({ s with clock := c }.sendPtp port l)

end Sys2Proof.Machine
end

