-- ==== Sys2Proof/Machine/Manage.lean ====
section
/-!
DEFINITION. The management queue (R314, R316, R319, R401, R403 to R418, R424, R430): commands performed one at a time, in arrival order.
-/

namespace Sys2Proof.Machine

/-! ## Commands -/

/-- The op of a command. -/
def mgmtOp (m : Msg) : Nat := cmdField m 0 1

/-- The context slot that a command names. -/
def mgmtSlot (m : Msg) : Nat := cmdField m 1 1

/-- Whether a command names an open context of the chip (R316). -/
def State.mgmtOpen (s : State) (m : Msg) : Bool := s.openGen (mgmtSlot m) (cmdField m 2 2)

/-- The answer to a management command (R322): 0 done, 1 refused. -/
def State.answerMgmt (s : State) (m : Msg) (status : Nat) : State := s.answerHost 1 (BitVec.ofNat 512 (setField m.toNat 5 1 status))

/-! ## Invalidation (R314 to R316, R405) -/

/-- Whether an address lies in a range of 54-bit addresses. -/
def inVa (va n : Nat) (a : Addr54) : Bool := va ≤ a.toNat && a.toNat < va + n

/-- TLB entries of a context that meet a range are removed, and instructions of it in the instruction caches (R314, R405). -/
def State.dropTranslations (s : State) (ctx va n : Nat) : State :=
  { s with cores := s.cores.map fun (e : Nat × Core) => (e.1, { e.2 with
      tlb := e.2.tlb.filter fun t => !(t.1 = ctx && t.2.1 * 2 ^ pageBits t.2.2.1 < va + n && va < (t.2.1 + 1) * 2 ^ pageBits t.2.2.1)
      icache := e.2.icache.clear (ctx * 2 ^ 54 + (va - 8)) (ctx * 2 ^ 54 + min (va + n) (2 ^ 54)) }) }

/-- Whether an access of a context to a range has been translated and not performed, or an engine is in the middle of a chunk of it
(R314, R315). -/
def State.rangeBusy (s : State) (ctx va n : Nat) : Bool :=
  let chunk := fun (c : Nat) => va ≤ c * 65536 && c * 65536 < va + n
  (s.ordered.any fun o => (s.block o.blk).ctx = ctx && o.op.space = 0 && inVa va n (BitVec.ofInt 54 o.acc.addr))
    || (s.parkedOps.any fun op => (s.block op.blk).ctx = ctx && op.space = 0 && op.lanes.any fun a => inVa va n (BitVec.ofInt 54 a.addr))
    || (s.blocks.any fun (e : Nat × Block) => e.2.ctx = ctx
      && ((e.2.acp.any fun x => x.chunks.any chunk)
        || e.2.copies.any fun c => c.left.any fun g =>
          let a := (e.2.copySource (e.2.itinEntry c.entry) c.rep g).toNat / 65536
          chunk a && (c.chunks.find a).isSome))
    || (s.queues.any fun (e : Nat × Queue) => e.2.slot = ctx && e.2.cmds.any fun c => c.chunk.any fun x => chunk x.1)

/-- What waited for a migrating page of a range, on cores and in images, walks again (R315). -/
def State.endMigration (s : State) (ctx va n : Nat) : State :=
  let clear := fun (x : Option Addr54) => x.filter fun a => !inVa va n a
  let park := fun (p : Park) => match p.place with | .ring r => ({ p with place := .ring { r with mig := clear r.mig } } : Park) | _ => p
  let warp := fun (w : Warp) => { w with migrating := clear w.migrating, parks := w.parks.map park, frame := w.frame.map fun f => { f with parks := f.parks.map park } }
  let block := fun (b : Block) => { b with
    itinWait := clear b.itinWait
    copies := b.copies.map fun (c : Copy) => { c with mig := c.mig.filter fun a => !inVa va n a } }
  let s := { s with
    warps := s.warps.map fun (e : Nat × Warp) => (e.1, if (s.block e.2.blk).ctx = ctx then warp e.2 else e.2)
    blocks := s.blocks.map fun (e : Nat × Block) => (e.1, if e.2.ctx = ctx then block e.2 else e.2)
    images := s.images.map fun (x : Image) => if x.block.ctx = ctx then { x with block := block x.block, warps := x.warps.map fun (e : Nat × Warp) => (e.1, warp e.2) } else x
    queues := s.queues.map fun (e : Nat × Queue) => (e.1, if e.2.slot = ctx then { e.2 with cmds := e.2.cmds.map fun (c : Cmd) => { c with mig := clear c.mig } } else e.2)
    ctxs := s.ctxs.map fun (e : Nat × Ctx) => (e.1, if e.1 = ctx then { e.2 with hangHeld := e.2.hangHeld.map fun (x : Nat × List Byte × Option Addr54) => (x.1, x.2.1, clear x.2.2) } else e.2)
    jobs := s.jobs.map fun (j : RingJob) => if j.ctx = ctx then { j with mig := clear j.mig } else j }
  let s := s.blocks.foldl (fun (s : State) (e : Nat × Block) => if e.2.ctx = ctx then s.readItinerary e.1 else s) s
  s.retryDigests ctx (inVa va n)

/-- An invalidation: done once what was translated before has been performed, the requests to format windows among it (R314, R318). -/
def State.invalidate (s : State) (ctx va n : Nat) : Option State :=
  let s := s.aliasDone.dropTranslations ctx va n
  if s.rangeBusy ctx va n then none else some (s.endMigration ctx va n)

/-! ## Format windows (R319) -/

/-- The slot of a context's window of an entry. -/
def State.windowSlot (s : State) (ctx entry : Nat) : Option (Nat × FmtWindow) := s.windows.find? fun (e : Nat × FmtWindow) => e.2.ctx = ctx && e.2.entry = entry

/-- Whether requests to a window wait. -/
def State.windowBusy (s : State) (w : Nat) : Bool := s.aliasQ.any fun r => r.window = w

/-- A window's decoded sectors leave every cache. -/
def State.dropSectors (s : State) (w : Nat) : State :=
  let x := s.windows.get { ctx := 0, entry := 0, on := false, alias_ := 0, packed := 0, scales := 0, size := 0, elem := 0, scale := 0 } w
  let out := fun (line : Nat) => x.alias_ ≤ line * 128 && line * 128 < x.alias_ + x.size * 65536
  { s with
    sectors := s.sectors.filter fun e => e.1 != w
    cores := s.cores.map fun (e : Nat × Core) => (e.1, { e.2 with l1 := e.2.l1.filter fun y => !out y.1 })
    l2 := s.l2.filter fun y => !out y.1 }

/-- The entry that op 4 reads again, where it can be read and keeps R317 beside the chip's other windows. -/
def State.rereadWindow (s : State) (ctx entry : Nat) : Option FmtWindow :=
  if s.rangeError ((s.ctx ctx).desc + 0x100 + 32 * entry) 32 then none else
  let s := s.settle ((s.ctx ctx).desc + 0x100 + 32 * entry) 32
  let e := s.readNum ((s.ctx ctx).desc + 0x100 + 32 * entry) 32
  let w := windowOf ctx entry e
  let others := (s.windows.filter fun (x : Nat × FmtWindow) => !(x.2.ctx = ctx && x.2.entry = entry)).map (·.2)
  if fieldAt e 0x1E 1 % 2 = 1 && w.ok && windowsApart (w :: others) && others.length < 16 then some w else none

/-! ## Halted blocks (R410 to R416) -/

/-- A block image changed, its warps with it: structured and in memory (R306, R307). -/
def State.patchImage (s : State) (x : Image) (fb : Block → Block) (fw : Warp → Warp) : State :=
  let y : Image := { x with block := fb x.block, warps := x.warps.map fun (e : Nat × Warp) => (e.1, fw (s.readImageWarp x.base x.block e.2)) }
  let s := y.warps.foldl (fun (s : State) (e : Nat × Warp) => s.writeImageWarp x.base x.block e.2) s
  let s := s.writeBytes x.base (s.imageHeader y.block x.entries.length)
  { s with images := s.images.map fun (z : Image) => if z.key = x.key then y else z }

/-- Clears the halted flags of the blocks that a test picks, on cores and in images (R415). -/
def State.unhalt (s : State) (test : Block → Bool) : State :=
  let s := { s with
    warps := s.warps.map fun (e : Nat × Warp) => (e.1, if test (s.block e.2.blk) then { e.2 with halted := false, stepping := false, stopSt := 0 } else e.2)
    blocks := s.blocks.map fun (e : Nat × Block) => (e.1, if test e.2 then { e.2 with halted := false, swap := false } else e.2) }
  (s.images.filter fun x => test x.block).foldl (fun (s : State) (x : Image) =>
    s.patchImage x (fun b => { b with halted := false, swap := false }) fun w => { w with halted := false }) s

/-- The block that a command's target names: grid row and block id (R404). -/
def targetBlock (m : Msg) : Nat × Nat := (cmdField m 0x24 2, cmdField m 0x20 4)

/-- Whether a block is a halted one of a context under a target. -/
def Block.isTarget (b : Block) (ctx : Nat) (m : Msg) : Bool := b.ctx = ctx && b.halted && (b.grid, b.bid) = targetBlock m

/-- Whether a stop or a halted block lies on a cluster. -/
def Block.onCluster (b : Block) (c : Nat) : Bool := b.halted && b.core < 128 && clusterOf b.core = c

/-- Op 10 (R415): the halted blocks that it names go on, and one record is written, of stop 0 and of the target where nothing is halted
there (assumption 34). -/
def State.resume (s : State) (m : Msg) : State :=
  let ctx := mgmtSlot m
  let whole := cmdField m 0x20 8 / 2 ^ 63 = 1
  let cl := cmdField m 0x26 1 % 32
  let test := fun (b : Block) => if whole then b.onCluster cl else b.isTarget ctx m
  let all := (s.blocks.filter fun (e : Nat × Block) => !e.2.ended && test e.2).map (·.2) ++ (s.images.filter fun x => test x.block).map (·.block)
  match all with
  | [] => s.debugRecord ctx 7 0 0 (if whole then 4 * cl else 0) 0 0 (nameBytes { bid := (targetBlock m).2, grid := (targetBlock m).1 } s.chip 0xFFFF 0xFF 0xFF 0) (bytesOf 32 0)
  | b :: _ =>
    let s := s.unhalt test
    let s := if whole then { s with ctxs := s.ctxs.map fun (e : Nat × Ctx) => (e.1, { e.2 with
        stopping := e.2.stopping.filter fun x => !x.2.any fun c => clusterOf c = cl }) } else s
    s.debugRecord ctx 7 0 0 b.core b.stopno 0 (nameBytes b s.chip 0xFFFF 0xFF 0xFF 0) (bytesOf 32 0)

/-- Whether a ring header can be used for records of a slot size (R404). -/
def State.ringOk (s : State) (ctx : Nat) (a : DWord) (lgs : Nat) : Bool :=
  match s.readRing ctx a with
  | .ok r _ => lgs ≤ r.lgs
  | _ => false

/-- A watchpoint's range length: 0 in the 16-bit field stands for 65,536. -/
def watchLen (n : Nat) : Nat := if n = 0 then 65536 else n

/-- Whether a watchpoint command keeps R404. -/
def watchOk (m : Msg) : Bool :=
  let len := watchLen (cmdField m 0x10 2)
  let off := cmdField m 8 8 % 2 ^ 21
  let bits := cmdField m 0x12 1
  cmdField m 4 1 ≤ 3 && (List.range 14).any (fun i => len = 2 ^ (i + 3)) && off % len = 0 && bits % 8 != 0

/-- Op 9 (R408). -/
def Ctx.setWatch (c : Ctx) (m : Msg) : Ctx :=
  let bits := cmdField m 0x12 1
  let n := cmdField m 4 1
  if bits / 8 % 2 = 0 then { c with watches := c.watches.del n }
  else { c with watches := c.watches.set n { grid := (targetBlock m).1, bid := (targetBlock m).2, lo := cmdField m 8 8 % 2 ^ 21, len := watchLen (cmdField m 0x10 2), rd := bits % 2 = 1, wr := bits / 2 % 2 = 1, at_ := bits / 4 % 2 = 1 } }

/-! ## Attestation (R429, R430) -/

/-- The signed bytes of an attestation report (R430): the hash of the boot ROM is free, those of the running image and of its configuration are
SHA-256 (assumption 9). -/
def State.reportHead (s : State) (m : Msg) : List Byte :=
  let p := s.platform
  let t := s.hytur.tables
  bytesOf 8 (cmdField m 8 8) ++ (List.range 32).map Config.romHashByte ++ sha256 p.loaded ++ bytesOf 8 p.version ++ sha256 (Config.configBytes p.loaded)
    ++ bytesOf 2 s.chip ++ bytesOf 6 0 ++ bytesOf 8 t.position ++ bytesOf 8 t.sd.toNat ++ bytesOf 128 (setOfNat t.view)

/-- The bytes of an attestation report (R430): the signed ones, their signature by the device identity key under its counter (R429), the key with its
certificate (assumption 9). -/
def State.report8k (s : State) (m : Msg) : List Byte :=
  let key := s.platform.key.getD 0
  let head := s.reportHead m
  head ++ (List.range 3832).map (Config.signatureByte key s.platform.signed head) ++ (List.range 4096).map (Config.keyByte key)

/-- Op 15 (R430): refused after 2^20 reports, and where the address is not one of ordinary DRAM. -/
def State.attest (s : State) (m : Msg) : Option State :=
  let a := cmdField m 0x10 8
  if 2 ^ 20 ≤ s.platform.signed || a % 4096 != 0 || dramTop < a + 8192 then none
  else some { s.storeGlb a (s.report8k m) with platform := { s.platform with signed := s.platform.signed + 1 } }

/-! ## Steps (R416) -/

/-- The warp of a halted resident block that a step names. -/
def State.stepTarget (s : State) (m : Msg) : Option (Nat × Block) := s.blocks.find? fun (e : Nat × Block) => !e.2.ended && e.2.isTarget (mgmtSlot m) m

/-- The %wid that a step names in a block. -/
def Block.stepWid (b : Block) (m : Msg) : Option Nat := b.wids[cmdField m 0x10 1 % 32]?

/-- The kind 5 record of a step (R413, R416). -/
def State.stepRecord (s : State) (ctx wid status : Nat) (pc : Addr54) : State :=
  s.debugRecord ctx 5 status 0 (coreOf wid) (s.block (s.warpD wid).blk).stopno 0 (s.warpName wid 0xFF pc)
    (match s.warp? wid with | some w => w.stopDetail | none => bytesOf 32 0)

/-- Whether the fields that R404's table gives as 0 are 0 (assumption 34). -/
def zeroColumns (m : Msg) : Bool :=
  let zero := fun (l : List (Nat × Nat)) => l.all fun f => cmdField m f.1 f.2 = 0
  match mgmtOp m with
  | 6 => zero [(0x10, 8), (0x20, 8)]
  | 7 => zero [(4, 1), (8, 8), (0x10, 8), (0x20, 8)]
  | 8 => zero [(0x20, 8)]
  | 10 => zero [(4, 1), (8, 8), (0x10, 8)]
  | 11 => zero [(4, 1), (8, 8)]
  | 12 => zero [(0x10, 8), (0x20, 8)]
  | 13 => zero [(0x10, 8), (0x20, 8)]
  | _ => true

/-- How performing a command goes on: done or refused, or it waits. -/
inductive Mgmt where
  | done (s : State)
  | refused
  | wait (s : State)

/-- Begins a step (R416): a swapped-out block is to return first; a warp whose lanes are all parked issues nothing; otherwise the warp's
next issue is the step. -/
def State.beginStep (s : State) (m : Msg) : Mgmt :=
  let ctx := mgmtSlot m
  match s.stepTarget m with
  | some (_, b) => match b.stepWid m with
    | none => .refused
    | some wid => match s.warp? wid with
      | none => .refused
      | some w =>
        if w.offcore.isSome then .refused
        else if w.stepping then .wait s
        else if w.live = 0 then .done (s.stepRecord ctx wid 3 w.lastPc)
        else match s.nextPc wid with
          | none => .done (s.stepRecord ctx wid 1 ((w.parks.head?.map (·.pc)).getD 0))
          | some (pc, _) => .wait (s.updWarp wid fun w => { w with stepping := true, pass := some pc })
  | none => match s.images.find? fun x => x.block.isTarget ctx m with
    | some x => if (x.block.stepWid m).any fun wid => x.warps.any fun (e : Nat × Warp) => e.1 = wid && e.2.offcore.isSome then .refused
      else if x.block.swap then .wait (s.patchImage x (fun b => { b with swap := false }) id) else .wait s
    | none => .refused

/-! ## Performing a command -/

/-- A command with its outcome where it either is done or refused. -/
def Mgmt.when (c : Bool) (s : State) : Mgmt := if c then .done s else .refused

/-- Done where there is a state, otherwise refused. -/
def Mgmt.of : Option State → Mgmt
  | some s => .done s
  | none => .refused

/-- Performs a management command, or refuses it, or lets it wait (R316, R392, R404, R432); op 3 of an entry without a window is refused
(assumption 34). -/
def State.manageOne (s : State) (m : Msg) : Mgmt :=
  let op := mgmtOp m
  let ctx := mgmtSlot m
  let c := s.ctx ctx
  let va := cmdField m 8 8
  let entry := cmdField m 4 1
  if op = 15 then Mgmt.of (s.attest m)
  else if !s.isMember || s.hytur.fenced then .refused
  else if op = 14 then
    let w := cmdField m 8 2
    .when (1500 ≤ w && w ≤ 3000) { s with platform := { s.platform with nextBudget := some w } }
  else if !zeroColumns m then .refused
  else if op = 13 then
    let ring := BitVec.ofNat 64 va
    .when (entry = 0 || (10 ≤ entry && entry ≤ 24 && s.ringOk physical ring 9)) { s with series := { k := entry, ring := ring, lastTick := s.clock.time } }
  else if !s.mgmtOpen m then .refused
  else match op with
    | 1 =>
      let n := cmdField m 0x10 8
      if va % 65536 != 0 || n = 0 || n % 65536 != 0 then .refused
      else match s.invalidate ctx va n with
        | some t => .done t
        | none => .wait (s.dropTranslations ctx va n)
    | 2 => match s.invalidate ctx 0 (2 ^ 54) with
      | some t => .done t
      | none => .wait (s.dropTranslations ctx 0 (2 ^ 54))
    | 3 => match s.windowSlot ctx entry with
      | some (i, w) => if s.windowBusy i then .wait s else .done ({ s with windows := s.windows.set i { w with on := false } }.dropSectors i)
      | none => .refused
    | 4 => match s.rereadWindow ctx entry with
      | some w =>
        let i := ((s.windowSlot ctx entry).map (·.1)).getD (freeKey s.windows 0)
        if 16 ≤ entry then .refused else if s.windowBusy i then .wait s else .done ({ s with windows := s.windows.set i w }.dropSectors i)
      | none => .refused
    | 5 => .when s.platform.config.inject { s with inject := s.inject.put 0 ctx (BitVec.ofNat 64 va) }
    | 6 => .when (c.claim.isNone && entry ≤ 2 && s.ringOk ctx (BitVec.ofNat 64 va) 7)
        (s.updCtx ctx fun c => { c with claim := some { kind := entry, ring := BitVec.ofNat 64 va } })
    | 7 => .when c.claim.isSome ((s.updCtx ctx fun c => { c with claim := none, stopping := [] }).unhalt fun b => b.ctx = ctx && b.halted)
    | 8 => .when (entry ≤ 7 && va % 4 = 0 && va < 2 ^ 54)
        (s.updCtx ctx fun c => { c with comps := if cmdField m 0x10 1 % 2 = 1 then c.comps.set entry { pc := BitVec.ofNat 54 va } else c.comps.del entry })
    | 9 => .when (watchOk m) (s.updCtx ctx fun c => c.setWatch m)
    | 10 => .when c.claim.isSome (s.resume m)
    | 11 => if c.claim.isNone then .refused else s.beginStep m
    | 12 => .when (entry = 0 || (10 ≤ entry && entry ≤ 24 && s.ringOk ctx (BitVec.ofNat 64 va) 7))
        (s.updCtx ctx fun c => { c with sampling := { k := entry, ring := BitVec.ofNat 64 va, lastTick := s.clock.time } })
    | _ => .refused

/-- Performs the commands that wait, in order, up to one that has to wait on. -/
def State.drainManage (s : State) : List Msg → State
  | [] => { s with manage := [] }
  | m :: r => match s.manageOne m with
    | .done t => State.drainManage (t.answerMgmt m 0) r
    | .refused => State.drainManage (s.answerMgmt m 1) r
    | .wait t => { t with manage := m :: r }

/-- A command arrives on the management queue (R316, R322): before firmware has bound the queue nothing is there. A command of no listed op
is refused like any other (R316): it comes as the event of any of them. -/
def State.mgmtArrives (s : State) (op : Nat) (m : Msg) : State :=
  if (mgmtOp m != op && 1 ≤ mgmtOp m && mgmtOp m ≤ 15) || !s.booted then s
  else if s.manage.isEmpty then s.drainManage [m]
  else { s with manage := s.manage ++ [m] }

/-- TAGGED_SEND (R322, R328, R329, R331, R332): a SEND to a well-known queue pair is a message; any other is a porter queue's. -/
def execTaggedSend (p : Packet) (s : State) : Host.Outcome State Fault Refusal :=
  .next (match wellKnownOf p with
    | some k => s.wellKnownSend k p fun m s => match k with
      | 0 => s.submit m
      | 1 => s.mgmtArrives (mgmtOp m) m
      | _ => s.controlArrives m
    | none => s.sendArrives p)

/-- INVALIDATE_RANGE (R314, R316). -/
def execInvalidateRange (m : Msg) (s : State) : Host.Outcome State Fault Refusal := .next (s.mgmtArrives 1 m)
/-- INVALIDATE_CONTEXT (R316). -/
def execInvalidateContext (m : Msg) (s : State) : Host.Outcome State Fault Refusal := .next (s.mgmtArrives 2 m)
/-- WINDOW_OFF (R319). -/
def execWindowOff (m : Msg) (s : State) : Host.Outcome State Fault Refusal := .next (s.mgmtArrives 3 m)
/-- WINDOW_ON (R319). -/
def execWindowOn (m : Msg) (s : State) : Host.Outcome State Fault Refusal := .next (s.mgmtArrives 4 m)
/-- INJECT_DIGEST (R401). -/
def execInjectDigest (m : Msg) (s : State) : Host.Outcome State Fault Refusal := .next (s.mgmtArrives 5 m)
/-- CLAIM (R403, R404). -/
def execClaim (m : Msg) (s : State) : Host.Outcome State Fault Refusal := .next (s.mgmtArrives 6 m)
/-- RELEASE (R403, R404). -/
def execRelease (m : Msg) (s : State) : Host.Outcome State Fault Refusal := .next (s.mgmtArrives 7 m)
/-- COMPARATOR (R404, R406). -/
def execComparator (m : Msg) (s : State) : Host.Outcome State Fault Refusal := .next (s.mgmtArrives 8 m)
/-- WATCHPOINT (R404, R408). -/
def execWatchpoint (m : Msg) (s : State) : Host.Outcome State Fault Refusal := .next (s.mgmtArrives 9 m)
/-- RESUME (R404, R415). -/
def execResume (m : Msg) (s : State) : Host.Outcome State Fault Refusal := .next (s.mgmtArrives 10 m)
/-- STEP (R404, R416): the warp's next issue is the step; its record and the answer follow that issue. -/
def execStep (m : Msg) (s : State) : Host.Outcome State Fault Refusal := .next (s.mgmtArrives 11 m)
/-- SAMPLING (R404, R417). -/
def execSampling (m : Msg) (s : State) : Host.Outcome State Fault Refusal := .next (s.mgmtArrives 12 m)
/-- TIME_SERIES (R404, R418). -/
def execTimeSeries (m : Msg) (s : State) : Host.Outcome State Fault Refusal := .next (s.mgmtArrives 13 m)
/-- SET_BUDGET (R424). -/
def execSetBudget (m : Msg) (s : State) : Host.Outcome State Fault Refusal := .next (s.mgmtArrives 14 m)
/-- ATTESTATION (R430). -/
def execAttestation (m : Msg) (s : State) : Host.Outcome State Fault Refusal := .next (s.mgmtArrives 15 m)

end Sys2Proof.Machine
end

