-- ==== Sys2Proof/Machine/Move.lean ====
section
/-!
DEFINITION. Moves: class 6 (R116 to R119).
-/

namespace Sys2Proof.Machine

/-- MOV's effect (R117). -/
def effMov (cx : Cx) (s : State) : Eff :=
  if cx.S then .ok (cx.emitScalar s cx.e.dst.toNat (cx.sval s cx.e.a.toNat))
  else if cx.m % 2 = 1 then .ok (cx.emit s 0 fun p w => cx.pairWrite p cx.e.dst.toNat fun l => w.vpair cx.e.a.toNat l)
  else .ok (cx.emitLanes s fun w l => w.vget cx.e.a.toNat l)

/-- MOVI's effect (R117). -/
def effMovi (cx : Cx) (s : State) : Eff :=
  let x := cx.lit.getD 0
  if cx.S then
    if cx.m % 2 = 1 then .ok (cx.emit s 0 fun _ w => [.scal cx.e.dst.toNat (x ++ lo32 (w.sget cx.e.dst.toNat))])
    else .ok (cx.emitScalar s cx.e.dst.toNat (x.signExtend 64))
  else .ok (cx.emitLanes s fun _ _ => x)

/-- V2S's effect (R118). -/
def effV2s (cx : Cx) (s : State) : Eff :=
  let x := (s.warpD cx.wid).vget cx.e.a.toNat cx.e.b.toNat
  .ok (cx.emitScalar s cx.e.dst.toNat (if cx.m % 2 = 1 then x.signExtend 64 else x.zeroExtend 64))

/-- S2V's effect (R118). -/
def effS2v (cx : Cx) (s : State) : Eff :=
  let x := cx.sval s cx.e.a.toNat
  .ok (cx.emitLanes s fun _ _ => if cx.m % 2 = 1 then hi32 x else lo32 x)

/-- MOVSR's effect (R119): %active reads as the participating lanes. At set and block scope each member warp gets its own value of a
register held per warp, and its own participating lanes as %active (assumption 59). -/
def effMovsr (cx : Cx) (s : State) : Eff :=
  let n := cx.e.a.toNat
  .ok (cx.emit s 0 fun p w =>
    if specialPerLane n then [cx.lanesWrite p cx.e.dst.toNat fun l => w.specialLane n l]
    else [.scal cx.e.dst.toNat (s.special p.wid w (cx.block s) p.lanes n)])

/-- A warp with a loop register written (R158): an entry below the depth takes the new remaining count, and the entries
from it on are removed when bit 63 is 0. -/
def Warp.setLoop (w : Warp) (i : Nat) (x : DWord) : Warp :=
  match w.loops[i]? with
  | none => w
  | some e =>
    if inSet x 63 then { w with loops := w.loops.set i { e with remaining := lo32 x } }
    else { w with loops := w.loops.take i }

/-- A write to a special register (R119). -/
def Warp.setSpecial (w : Warp) (n : Nat) (x : DWord) : Warp :=
  if n = 0x10 then { w with tvec := x &&& ~~~ 3 }
  else w.setLoop (n - 0x11) x

/-- MOVSW's effect (R119): a loop register takes effect for the instruction that follows, so this one completes under the
old stack (R158, R159). -/
def effMovsw (cx : Cx) (s : State) : Eff :=
  let x := cx.sval s cx.e.a.toNat
  .jumped (cx.parts.foldl (fun s p => s.updWarp p.wid fun w => w.setSpecial cx.e.dst.toNat x) (s.advance cx))

/-- MOV (R117). -/
def execMov (e : Enc) (s : State) : Host.Outcome State Fault Refusal := s.runLong .mov e effMov
/-- MOVI (R117). -/
def execMovi (e : Enc) (s : State) : Host.Outcome State Fault Refusal := s.runLong .movi e effMovi
/-- V2S (R118). -/
def execV2s (e : Enc) (s : State) : Host.Outcome State Fault Refusal := s.runLong .v2s e effV2s
/-- S2V (R118). -/
def execS2v (e : Enc) (s : State) : Host.Outcome State Fault Refusal := s.runLong .s2v e effS2v
/-- MOVSR (R119). -/
def execMovsr (e : Enc) (s : State) : Host.Outcome State Fault Refusal := s.runLong .movsr e effMovsr
/-- MOVSW (R119). -/
def execMovsw (e : Enc) (s : State) : Host.Outcome State Fault Refusal := s.runLong .movsw e effMovsw

end Sys2Proof.Machine
end

