-- ==== Sys2Proof/Machine/Trace.lean ====
section
/-!
DEFINITION. The hang detector (R138 to R140), the cluster-stop (R411, R413), PC sampling (R417) and the time series (R418, R419).
-/

namespace Sys2Proof.Machine

/-! ## The hang detector (R138, R139) -/

/-- The unexited warps of a context that the hang detector looks at, by ascending %wid: those of debug-halted blocks are left out
(R138, R412). -/
def State.hangWarps (s : State) (ctx : Nat) : Map Warp :=
  s.warps.filter fun (e : Nat × Warp) => e.2.live != 0 && (s.block e.2.blk).ctx = ctx && !(s.block e.2.blk).halted

/-- Whether a D-mode warp is stopped by a group of its own that is parked where R373 says so: the program in which its other groups are what
that group waits for is to be reported, so such a warp does not keep the counter at zero (assumption 63). -/
def State.stopped (s : State) (w : Warp) : Bool := s.dmode (s.block w.blk) && w.live != 0 && w.parks.any fun p => 3 ≤ p.place.kind

/-- Whether every condition of R138 holds for a context in this cycle; a saved block that waits for a PATOM result is pending (R348). -/
def State.hangs (s : State) (ctx : Nat) : Bool :=
  let ws := s.hangWarps ctx
  !ws.isEmpty && ws.all (fun (e : Nat × Warp) => (s.isParked e.1 e.2 || s.stopped e.2) && e.2.offcore.isNone && e.2.suspended.isNone)
    && !(s.images.any fun x => x.block.ctx = ctx && !x.block.halted && x.patomOpen)
    && !(s.cores.any fun (e : Nat × Core) => (e.2.mq ++ e.2.mwait).any fun x => (s.block x.blk).ctx = ctx)
    && !(s.blocks.any fun (e : Nat × Block) => e.2.ctx = ctx && !e.2.copies.isEmpty)

/-- Distinct numbers of a list, in order. -/
def distinct (l : List Nat) : List Nat := l.foldl (fun (r : List Nat) n => if r.contains n then r else r ++ [n]) []

/-- The address of an absolute scratchpad offset as a block's warps use it: in .spd where it is the block's own, otherwise in .cls. -/
def State.spadAddr (s : State) (blk core o : Nat) : Nat :=
  let b := s.block blk
  if b.core = core && b.holds o then o - b.pbase else core % 4 * 2 ^ 21 + o

/-- What a parked access awaits first, in ascending e (R139, R178, R183): the address of a granule that is not present, or of a location
without an exact slot. -/
def State.awaited (s : State) (op : MemOp) : Nat :=
  let short := if op.kind.exact then (List.range op.lanes.length).find? fun n => !s.exactFits op (op.lanes.take (n + 1)) else none
  (op.lanes.zipIdx.findSome? fun (a, n) => match a.loc with
    | .spad core ws => (ws.find? fun o => !(s.core core).present o).map fun o => s.spadAddr op.blk core (o / 64 * 64)
    | .glb _ => if short = some n then some a.addr.toNat else none
    | _ => none).getD 0

/-- The address that a waiting ring instruction awaits (R351): of the slot whose record has not come, otherwise of the header, where room
is awaited. -/
def State.ringAwaited (s : State) (op : RingOp) : Nat :=
  match op.kind, s.readRing (s.block op.blk).ctx op.header with
  | .data, .ok r _ => (s.slotAddr r op.seq.toNat).toNat
  | .pop, .ok r s =>
    let c := r.cursors.getD op.cursor 0
    match (List.range (if op.scalar then 1 else op.lanes.length)).find? fun j => s.slotSeq r (c + j) != c + j with
    | some j => (s.slotAddr r (c + j)).toNat
    | none => op.header.toNat
  | _, _ => op.header.toNat

/-- The objects of a parked group, each as scope byte, object and others (R139). "Tiles with reads outstanding" are taken as those with a
consuming read in flight (assumption 63). -/
def State.parkObjects (s : State) (wid : Nat) (w : Warp) (p : Park) : List (Nat × Nat × Nat) :=
  let b := s.block w.blk
  match p.place with
  | .rendezvous sc sel _ =>
    let missing := (s.membersOf b sc sel wid).filter fun m => match s.warp? m.2 with
      | some x => !(x.offcore.isNone && (x.memberLanes sc sel p.pc) &&& ~~~ (parkedOf (x.arrivals sc sel p.pc)) = 0)
      | none => false
    [(sc.code + (if sc = .set then 4 * sel else 0), p.pc.toNat, setOfNat (missing.map fun m => (s.warpD m.2).index))]
  | .wait n => [(0, p.pc.toNat + n * 2 ^ 56, ((w.live &&& w.kget n) &&& ~~~ (parkedOf (w.allParks.filter fun q => q.place = .wait n))).toNat)]
  | .mbwait core off _ _ _ _ _ =>
    let o := s.barObj core off
    [(0, s.spadAddr w.blk core off, o.left + o.epoch * 2 ^ 16 + o.due * 2 ^ 32)]
  | .talloc id =>
    let q := b.waiters.findSome? fun (e : Nat × List Waiter) => (e.2.find? fun q => q.id = id).bind fun q => match q.who with
      | .talloc pool _ _ => some (pool, e.1)
      | .adrain pool _ => some (pool, e.1)
      | .copy _ _ => none
    match q with
    | none => [(0, 0, 0)]
    | some (pool, part) =>
      let busy := b.tiles.filter fun (e : Nat × Tile) => e.1 / 2048 = pool && !e.2.free
        && pool * 8 + (poolOf b.record pool).partOf (e.1 % 2048) = part && b.reads.any fun r => r.tile = e.1
      [(0, pool, busy.length)]
  | .ring r => [(0, s.ringAwaited r, 0)]
  | .evwait code _ _ => [(0, code.toNat / 2 ^ 40 % 2 ^ 8, 0)]
  | .granule op => [(0, s.awaited op, 0)]

/-- The triples of a warp, by ascending PC of the parked group, those of a trap frame with them (R139); lanes that parked at one place by
two issues are two groups (assumption 63). -/
def State.warpTriples (s : State) (wid : Nat) (w : Warp) : List (List Byte) :=
  (sortBy (fun (a b : Park) => a.pc.toNat < b.pc.toNat) w.allParks).flatMap fun p => (s.parkObjects wid w p).map fun x =>
    bytesOf 2 wid ++ bytesOf 1 p.place.kind ++ bytesOf 1 x.1 ++ bytesOf 4 0 ++ bytesOf 8 p.lanes.toNat ++ bytesOf 8 x.2.1 ++ bytesOf 8 x.2.2

/-- The wait-for graph of a context (R139). -/
def State.hangGraph (s : State) (ctx : Nat) : List (List Byte) := (s.hangWarps ctx).flatMap fun (e : Nat × Warp) => s.warpTriples e.1 e.2

/-- The stream program of a context that takes its HANG trap (R139): the one of lowest stream index on its home control core. -/
def State.hangTarget (s : State) (ctx : Nat) : Option Nat :=
  (s.warps.find? fun (e : Nat × Warp) => coreOf e.1 = 128 + ctx % 32 && e.2.live != 0 && (s.block e.2.blk).ctx = ctx && (s.block e.2.blk).started).map (·.1)

/-- Delivers a HANG trap with a number of triples to a stream program, or lets it wait for the end of its trap (R139), for results that are
owed to it (R164) or for a migrating page of its entry (R300). Its record's lanes are the stream program's (assumption 36). -/
def State.deliverHang (s : State) (ctx n : Nat) : State :=
  match s.hangTarget ctx with
  | none => s.updCtx ctx fun c => { c with hangWaits := none }
  | some wid =>
    let w := s.warpD wid
    if w.frame.isSome || w.suspended.isSome || !s.atBoundary wid then s.updCtx ctx fun c => { c with hangWaits := some n }
    else
      let pc := (w.selectedPc 1).getD (w.pc 0)
      let back := s.updCtx ctx fun c => { c with hangWaits := some n }
      back.unlessHeld back [wid] ((s.updCtx ctx fun c => { c with hangWaits := none }).enterTrap wid pc [{ code := Code.hang, pc := BitVec.ofNat 64 pc.toNat, info := n, lanes := w.live }])

/-- Whether a warp is the stream program that a waiting HANG trap is for, so that it issues no more before it (R139). -/
def State.hangDue (s : State) (wid : Nat) : Bool :=
  s.ctxs.any fun (e : Nat × Ctx) => e.2.hangWaits.isSome && s.hangTarget e.1 = some wid && (s.warpD wid).frame.isNone && (s.warpD wid).suspended.isNone

/-- The first page of a range that is migrating. -/
def State.migratingIn (s : State) (ctx va n : Nat) : Option Addr54 :=
  ((List.range ((va % 65536 + n + 65535) / 65536)).map fun i => if i = 0 then va else va / 65536 * 65536 + 65536 * i).findSome? fun a =>
    if s.translateEngine ctx (a % 2 ^ 54) .write = .migrating then some (BitVec.ofNat 54 a) else none

/-- Writes a wait-for graph and raises its HANG trap (R139); one that meets a migrating page waits for it (R315). -/
def State.writeGraph (s : State) (ctx n : Nat) (bs : List Byte) : State :=
  let at_ := (s.ctx ctx).faultBase + 0x2400000
  match s.migratingIn ctx at_ bs.length with
  | some a => s.updCtx ctx fun c => { c with hangHeld := some (n, bs, some a) }
  | none => (((s.writeVirt ctx at_ bs).getD s).updCtx ctx fun c => { c with hangHeld := none }).deliverHang ctx n

/-- HANG (R139): where a context's counter has reached its threshold and the trap has not fired since a warp of it issued. -/
def execHang (slot : Nat) (s : State) : Host.Outcome State Fault Refusal :=
  let c := s.ctx slot
  if (s.ctxs.find slot).isNone || c.hangFired || c.hangCount < 2 ^ c.hang then .next s
  else
    let ts := s.hangGraph slot
    .next ((s.updCtx slot fun c => { c with hangFired := true }).writeGraph slot ts.length ((ts.take 4096).flatMap id))

/-! ## The cluster-stop (R411, R413) -/

/-- How a warp stands when the stop reaches it (R413): 0 at a boundary, 1 parked, 2 trap mode, 3 already halted. -/
def State.stopStatus (s : State) (wid : Nat) (w : Warp) : Nat :=
  if w.halted && w.stopSt != 4 then 3 else if w.frame.isSome then 2 else if s.isParked wid w then 1 else 0

/-- The warps of a core. -/
def State.warpsOn (s : State) (core : Nat) : Map Warp := s.warps.filter fun (e : Nat × Warp) => coreOf e.1 = core && e.2.live != 0

/-- Stops the warps of a core: a fault at the same boundary enters trap mode first (R414), then every warp halts. -/
def State.stopCore (s : State) (core stopno : Nat) : State :=
  let here := s.blocks.filter fun (e : Nat × Block) => e.2.core = core && !e.2.ended
  let s := here.foldl (fun (s : State) (e : Nat × Block) => e.2.wids.foldl (fun (s : State) _ => s.deliverAsync e.1) s) s
  let s := (s.warpsOn core).foldl (fun (s : State) (e : Nat × Warp) => s.updWarp e.1 fun w => { w with stopSt := s.stopStatus e.1 w, halted := true }) s
  here.foldl (fun (s : State) (e : Nat × Block) => s.haltBlock e.1 stopno false) s

/-- The PC at which a warp stands: the selected one, else that of its first parked group. -/
def Warp.standsAt (w : Warp) (W : Nat) : Addr54 :=
  match w.selectedPc W with
  | some p => p
  | none => ((leastBy (fun (a b : Park) => a.pc.toNat < b.pc.toNat) w.parks).map (·.pc)).getD 0

/-- The skid records of a stop, by ascending %wid (R413). -/
def State.skidRecords (s : State) (ctx stopno cluster : Nat) : State :=
  (clusterCores cluster).foldl (fun (s : State) (core : Nat) => (s.warpsOn core).foldl (fun (s : State) (e : Nat × Warp) =>
    s.debugRecord ctx 6 e.2.stopSt 0 core stopno e.2.skid (s.warpName e.1 0xFF (e.2.standsAt (s.block e.2.blk).width)) (bytesOf 32 0)) s) s

/-- The broadcast of one context's stop has reached a core. -/
def State.stopReached (s : State) (ctx core : Nat) : State :=
  match (s.ctx ctx).stopping.find? fun x => x.2.contains core with
  | none => s
  | some x =>
    let s := s.stopCore core x.1
    let left := x.2.filter (· != core)
    let s := s.updCtx ctx fun c => { c with stopping := (c.stopping.map fun y => if y = x then (y.1, left) else y).filter fun y => !y.2.isEmpty }
    if left.isEmpty then s.skidRecords ctx x.1 (clusterOf core) else s

/-- CLUSTER_STOP (R411): the broadcast reaches a core, where a stop of its cluster is in progress. -/
def execClusterStop (core : Nat) (s : State) : Host.Outcome State Fault Refusal :=
  .next (s.ctxs.foldl (fun (s : State) (e : Nat × Ctx) => s.stopReached e.1 core) s)

/-! ## PC sampling (R417) -/

/-- Whether a warp waits for the bytes of its next instruction. -/
def Warp.fetchWaits (w : Warp) (W : Nat) : Bool :=
  match w.migrating, w.selectedPc W with
  | some a, some p => p.toNat ≤ a.toNat && a.toNat < p.toNat + 12
  | _, _ => false

/-- Whether an instruction finds the queue full that it would enter (R208, R179, R344, R349, R282), or its entry into trap mode migrating. -/
def stallsOn (op : Op) (cx : Cx) (s : State) : Bool :=
  let stalls := fun (k : Eff) => match k with | .stall => true | _ => false
  match op with
  | .exit => stalls (effExit cx s)
  | .acp => stalls (effAcp cx s)
  | .mma | .mmas | .mmaw => stalls (effMma cx s)
  | .aclr => stalls (effAclr cx s)
  | .ald => stalls (effAld cx s)
  | .adrain => stalls (effAdrain cx s)
  | .put => stalls (effPut false cx s)
  | .get => stalls (effPut true cx s)
  | .patom => stalls (effPatom cx s)
  | .post => stalls (effPost cx s)
  | .pcount => stalls (effPcount cx s)
  | .svc => stalls (effSvc cx s)
  | .launch => stalls (effLaunch cx s)
  | .evsub => stalls (effEvsub cx s)
  | _ => false

/-- Whether a warp's next instruction cannot issue yet (R135, R417): an operand is open in a lookahead window, or a queue is full. -/
def State.unready (s : State) (wid : Nat) : Bool :=
  match s.warp? wid, s.nextPc wid with
  | some w, some (pc, _) => match s.fetch (coreOf wid) (s.block w.blk).ctx pc with
    | .ok bs t =>
      let n := numOf bs
      let t := { t with cur := some wid }
      match lengthOf n, Op.ofCode (n / 16 % 1024) with
      | some len, some op =>
        match t.begin op (if len = 4 then (shortOf n).toEnc (t.curControl && op.code < 128) else encOf n) len with
        | .stop u => u.issues = s.issues && (u.warpD wid).frame.isNone
        | .go cx u _ => cx.some_ && stallsOn op cx u
        | .nobody => false
      | _, _ => false
    | _ => false
  | _, _ => false

/-- Whether a warp is the one that its core issued last. -/
def State.issuedLast (s : State) (wid : Nat) (w : Warp) : Bool :=
  w.last.any fun n => s.warps.all fun (e : Nat × Warp) => coreOf e.1 != coreOf wid || e.2.last.all (· ≤ n)

/-- The status of a sampled warp (R417); ISSUED is the one that its core issued last, where it can issue on (assumption 35). -/
def State.sampleStatus (s : State) (wid : Nat) (w : Warp) : Nat :=
  let W := (s.block w.blk).width
  if w.live = 0 then 7
  else if w.offcore.isSome then 8
  else if w.halted then 5
  else if w.frame.isSome || w.suspended.isSome then 4
  else if s.isParked wid w then 3
  else if w.fetchWaits W then 6
  else if w.migrating.isSome || !w.waits.isEmpty || w.fence.isSome || w.skip || w.ready = 0 || s.unready wid then 2
  else if s.issuedLast wid w then 0
  else 1

/-- A sample record (R417). -/
def sampleRecord (name : List Byte) (status park core tick : Nat) (lclk : DWord) : List Byte :=
  name ++ bytesOf 1 status ++ bytesOf 1 park ++ bytesOf 1 core ++ bytesOf 5 0 ++ bytesOf 8 tick ++ bytesOf 8 lclk.toNat

/-- One core's sample of a context at a slot (R417). -/
def State.sampleSlot (s : State) (ctx core slot tick : Nat) : State :=
  let ring := (s.ctx ctx).sampling.ring
  let wid := 32 * core + slot
  match s.warp? wid with
  | some w =>
    let b := s.block w.blk
    if b.ctx != ctx || w.exitSeen then s
    else
      let st := s.sampleStatus wid w
      let pc := if st = 7 then w.lastPc else w.standsAt b.width
      let park := if st = 3 then ((leastBy (fun (a b : Park) => a.pc.toNat < b.pc.toNat) w.parks).map fun p => p.place.kind).getD 0 else 0
      let s := s.updWarp wid fun w => { w with exitSeen := st = 7 }
      s.record ctx ring (sampleRecord (s.warpName wid 0xFF pc) st park core tick w.lclk)
  | none => match (s.core core).gone.find slot with
    | some (c, lclk, name) =>
      if c != ctx then s
      else (s.updCore core fun k => { k with gone := k.gone.del slot }).record ctx ring (sampleRecord name 7 0 core tick lclk)
    | none => s

/-- The sample of a context that is due (R417). -/
def State.sampleCtx (s : State) (ctx : Nat) : State :=
  let x := (s.ctx ctx).sampling
  let n := s.clock.time / 2 ^ x.k
  if x.k = 0 || n * 2 ^ x.k ≤ x.lastTick then s
  else
    let s := s.updCtx ctx fun c => { c with sampling := { c.sampling with lastTick := s.clock.time } }
    (List.range 128).foldl (fun (s : State) (core : Nat) => s.sampleSlot ctx core (n % 32) (n * 2 ^ x.k)) s

/-- PC_SAMPLE (R417): every core samples every context whose sample is due. -/
def execPcSample (s : State) : Host.Outcome State Fault Refusal := .next (s.ctxs.foldl (fun (s : State) (e : Nat × Ctx) => s.sampleCtx e.1) s)

/-! ## The time series (R418, R419) -/

/-- A record of the time series: header and 64 counters. -/
def seriesRecord (tick chip source k throttled : Nat) (f : Nat → Word) : List Byte :=
  bytesOf 8 tick ++ bytesOf 2 chip ++ bytesOf 1 source ++ bytesOf 1 k ++ bytesOf 4 throttled ++ bytesOf 16 0 ++ (List.range 64).flatMap fun i => bytesOf 4 (f i).toNat

/-- COUNTER_LATCH (R418): cores, then dies, latch their counters where the tick of the series has come. -/
def execCounterLatch (s : State) : Host.Outcome State Fault Refusal :=
  let x := s.series
  let n := s.clock.time / 2 ^ x.k
  if x.k = 0 || n * 2 ^ x.k ≤ x.lastTick then .next s
  else
    let cores := (List.range 128).map fun c => seriesRecord (n * 2 ^ x.k) s.chip c x.k (s.core c).throttled fun i => (s.core c).counters.get 0 i
    let dies := (List.range 4).map fun d => seriesRecord (n * 2 ^ x.k) s.chip (0x80 + d) x.k (s.platform.dieThrottled.get 0 d) fun i => s.dieCounters.get 0 (64 * d + i)
    let s := { s with
      series := { x with lastTick := s.clock.time }
      cores := s.cores.map fun (e : Nat × Core) => (e.1, { e.2 with counters := [], throttled := 0 })
      dieCounters := []
      platform := { s.platform with dieThrottled := [] } }
    .next ((cores ++ dies).foldl (fun (s : State) r => s.record physical x.ring r) s)

end Sys2Proof.Machine
end

