-- ==== Sys2Proof/Machine/Platform.lean ====
section
/-!
DEFINITION. The platform (R420 to R432): freeze and read-out, the power arbiter, soft errors and the scrubber, reset and bring-up.
-/

namespace Sys2Proof.Machine

/-- The state with the platform changed. -/
def State.updPlatform (s : State) (f : Platform → Platform) : State := { s with platform := f s.platform }

/-! ## Freeze and the test access port (R420 to R423) -/

/-- FREEZE_N (R420): every clock stops; only reset ends it. -/
def execFreezeN (s : State) : Host.Outcome State Fault Refusal := .next (s.updPlatform fun p => { p with frozen := true })

/-- FREEZE (R420, R423). -/
def execFreeze (s : State) : Host.Outcome State Fault Refusal := .next (s.updPlatform fun p => { p with frozen := true, jtagIr := 0x21 })

/-- BYPASS (R423): the bypass register of one bit passes a bit on. -/
def execBypass (bit : Bool) (s : State) : Host.Outcome State Fault Refusal :=
  .next ((s.send (.scanOut (if s.platform.bypass then 1 else 0))).updPlatform fun p => { p with jtagIr := 0xFF, bypass := bit })

/-- IDCODE (R423). -/
def execIdcode (s : State) : Host.Outcome State Fault Refusal :=
  .next ((s.send (.scanOut 0x04480A5B)).updPlatform fun p => { p with jtagIr := 0x01 })

/-- DUMPADDR (R421). -/
def execDumpaddr (value : BitVec 48) (s : State) : Host.Outcome State Fault Refusal :=
  .next (s.updPlatform fun p => { p with dumpAddr := value, jtagIr := 0x22 })

/-- 8 bytes of a list of sections from an offset on; zeros behind the last. -/
def wordOf (bs : List Byte) : DWord := BitVec.ofNat 64 (numOf (bs.take 8))

/-- The 32-bit words of a core's vector registers in the order of R305, one resident warp after the other by slot: word n of
them. -/
def State.regWord (s : State) (core : Nat) (n : Nat) : Word :=
  let warps := (s.warps.filter fun (e : Nat × Warp) => coreOf e.1 = core).map (·.2)
  let r := warps.foldl (fun (x : Nat × Option Word) (w : Warp) =>
    let b := s.block w.blk
    let size := b.width * budgetOf b.record w.index
    match x.2 with
    | some _ => x
    | none => if x.1 < size then (0, some (w.vget (b.regName w.index (x.1 / max 1 b.width)) (x.1 % max 1 b.width))) else (x.1 - size, none)) (n, none)
  r.2.getD 0

/-- Word n of a core's scratchpad unit (R421): the data, then presence and in-flight counts, then barrier marks. -/
def Core.spadWord (c : Core) (n : Nat) : DWord :=
  if n < 262144 then wordOf (c.readSpad (8 * n) 8)
  else if n < 262144 + 2560 then
    let lo := 64 * (n - 262144)
    BitVec.ofNat 64 (setOfNat ((List.range 64).filter fun i =>
      let g := (lo + i) / 5
      let j := (lo + i) % 5
      if j = 0 then c.inflight.get 0 g = 0 else c.inflight.get 0 g / 2 ^ (j - 1) % 2 = 1))
  else
    let lo := 64 * (n - 262144 - 2560)
    BitVec.ofNat 64 (setOfNat ((List.range 64).filter fun i => c.marks.contains (8 * (lo + i))))

/-- Word n of a core's accumulator store as a core image (R308, R421): the header of 64 KiB is open. -/
def Core.accWord (c : Core) (n : Nat) : Option DWord :=
  if n < 8192 then none else some (c.acc.get 0 (2 * (n - 8192) + 1) ++ c.acc.get 0 (2 * (n - 8192)))

/-- Word n of a core's warp control: per slot a warp record (R307, R421). -/
def State.controlWord (s : State) (core n : Nat) : DWord :=
  match s.warp? (32 * core + n / 1024) with
  | some w => if n / 1024 < 32 then wordOf ((warpRecord w).drop (8 * (n % 1024))) else 0
  | none => 0

/-- The word that the read-out address names (R421): none where the contents are raw and open. In kinds 0 to 2 the data stand in the
even words and their ECC bits, whose code is open, behind them. -/
def State.dumpWord (s : State) : Option DWord :=
  let a := s.platform.dumpAddr.toNat
  let die := a / 2 ^ 46
  let kind := a / 2 ^ 43 % 8
  let index := a / 2 ^ 38 % 32
  let n := a % 2 ^ 38
  let core := 32 * die + index
  if kind ≤ 2 && n % 2 = 1 then none
  else match kind with
    | 0 => some (s.regWord core (n + 1) ++ s.regWord core n)
    | 1 => some ((s.core core).spadWord (n / 2))
    | 2 => (s.core core).accWord (n / 2)
    | 3 => some (s.controlWord core n)
    | 4 => none
    | 5 => if index = 16 then some (wordOf (s.readDie (die * 2 ^ 25 + 8 * n) 8)) else none
    | _ => some 0

/-- DUMPDATA (R421): the addressed word is captured, and the word number advances. -/
def execDumpdata (s : State) : Host.Outcome State Fault Refusal :=
  let (k, t) := s.draw
  let (j, t) := t.draw
  let w := s.dumpWord.getD (Config.freeWord k ++ Config.freeWord j)
  .next ((t.send (.scanOut w)).updPlatform fun p =>
    { p with jtagIr := 0x23, dumpAddr := BitVec.ofNat 48 (p.dumpAddr.toNat / 2 ^ 38 * 2 ^ 38 + (p.dumpAddr.toNat + 1) % 2 ^ 38) })

/-- An instruction code shifted into the test access port (R423): one of the five listed, and every other selects BYPASS, whose bit starts as 0;
FREEZE freezes. -/
def State.scanIr (s : State) (code : BitVec 8) : State :=
  let known : Bool := code = 0x01 || code = 0x21 || code = 0x22 || code = 0x23
  s.updPlatform fun p => { p with jtagIr := if known then code else 0xFF, bypass := if known then p.bypass else false, frozen := p.frozen || code = 0x21 }

/-! ## SMBus (R422, R428) -/

/-- SMBus reads an error counter of a unit. -/
def State.smbusCounter (s : State) (unit : Nat) (uncorrected : Bool) : State :=
  s.send (.smbus ((if uncorrected then s.platform.uncorrected else s.platform.corrected).get 0 unit).toNat)

/-- SMBus reads the temperature of a die, which is free (assumption 9). -/
def State.smbusTemperature (s : State) (die : Nat) : State :=
  let (n, s) := s.draw
  s.send (.smbus (Config.temperature n die))

/-! ## Power (R424, R425) -/

/-- SMBUS_BUDGET_WRITE (R424): a budget in range is in force from the next grant period; any other is refused. -/
def execSmbusBudgetWrite (watts : Nat) (s : State) : Host.Outcome State Fault Refusal :=
  .next (if 1500 ≤ watts && watts ≤ 3000 then s.updPlatform fun p => { p with nextBudget := some watts } else s)

/-- The consumers of a grant period (R425): context-switch traffic, warps in trap mode, cores 0 to 127, their matrix engines, their copy engines, the
porter, the scheduler engine, and the two die links of each die (assumption 33). -/
abbrev grantees : Nat := 396

/-- The grants of a period (R425), each beside its demand: context-switch traffic, warps in trap mode, then everything else in
proportion. -/
def grantsOf (budget : Nat) : List Nat → List (Nat × Nat)
  | [] => []
  | [a] => [(min a budget, a)]
  | a :: b :: r =>
    let ga := min a budget
    let gb := min b (budget - ga)
    let rest := budget - ga - gb
    let sum := r.foldl (· + ·) 0
    (ga, a) :: (gb, b) :: r.map fun d => (if sum ≤ rest then d else rest * d / sum, d)

/-- Whether a unit of the grant list is held below its demand. -/
def Platform.short (p : Platform) (i : Nat) : Bool := (p.grants[i]?).any fun x => x.1 < x.2

/-- Whether anything is throttled: ALERT_N is low then (R422). -/
def Platform.throttling (p : Platform) : Bool := p.grants.any fun x => x.1 < x.2

/-- The level of ALERT_N is low (R422, R432). -/
def Platform.alertIsLow (p : Platform) : Bool := p.alertLow || p.throttling

/-- POWER_GRANT (R424, R425): every 1 µs the arbiter grants current for the next period; `demand` is that of each of `grantees`. -/
def execPowerGrant (demand : List Nat) (s : State) : Host.Outcome State Fault Refusal :=
  .next (if s.platform.grantAt.any fun t => s.clock.time < t + 1250 then s
    else s.updPlatform fun p =>
      let budget := p.nextBudget.getD p.budget
      { p with budget := budget, nextBudget := none, grants := grantsOf budget (demand.take grantees), grantAt := some s.clock.time })

/-! ## Soft errors (R426 to R428) -/

/-- Whether a place holds a word: a cached copy of one only while its line is held. -/
def State.holdsWord (s : State) : Locus → Bool
  | .l1 c w => ((s.core c).l1.find (w / 16)).any fun x => x.have_ / 2 ^ (w / 8 % 2) % 2 = 1
  | .l2 w => (s.l2.get (0, 0) (w / 16)).1 / 2 ^ (w / 8 % 2) % 2 = 1
  | _ => true

/-- An error arises in a stored word (R426). One that its code corrects stands until a read or a scrub corrects and counts it; an uncorrectable one
is counted, stays until a write replaces the word, and pulls ALERT_N low (R422). -/
def State.upset (s : State) (loc : Locus) (corrected : Bool) : State :=
  if !s.holdsWord loc || s.platform.errors.contains loc then s
  else s.updPlatform fun p =>
    let l := p.latent.filter fun x => x != loc
    if corrected then { p with latent := loc :: l }
    else { p with uncorrected := bump p.uncorrected (unitOf loc), alertLow := true, errors := loc :: p.errors, latent := l }

/-- SCRUB (R426 to R428): a word is read and written back: a correctable error in it is corrected and counted; an uncorrectable one is counted only,
and stays. -/
def execScrub (loc : Locus) (s : State) : Host.Outcome State Fault Refusal :=
  .next (if s.platform.errors.contains loc then s.updPlatform fun p => { p with uncorrected := bump p.uncorrected (unitOf loc) }
    else s.correct fun l => l = loc)

/-! ## Snoop filters (R181, R419) -/

/-- The snoop filter of a line's die gives up its entry: the copies in the L1s go, and the eviction is counted. -/
def State.filterEvict (s : State) (line : Nat) : State :=
  if s.cores.any fun (e : Nat × Core) => (e.2.l1.find line).isSome then (s.dropOthers 0xFFFF line true).countDie (l2Place line).1 12 else s

/-! ## Reset and bring-up (R429, R431, R432) -/

/-- The firmware configuration that an image carries (R431), with the neighbour tables of its ports (R279). -/
def configOf (image : List Byte) : FwConfig :=
  let f := Config.imageField image
  { chip := f 0 % 1024, podPrefix := BitVec.ofNat 64 (f 1), portGid := BitVec.ofNat 128 (f 11),
    neighbours := (List.range (f 2)).map fun i => (f (100 + 3 * i) % 16, f (101 + 3 * i) % 1024, f (102 + 3 * i)),
    hostGid := BitVec.ofNat 128 (f 3), hostQpns := [f 4, f 5, f 6], prio1 := f 7, prio2 := f 8, founding := f 9 % 2 = 1, inject := f 10 % 2 = 1 }

/-- Whether the boot ROM accepts an image (R429): its signature verifies, and its version is at or above the fused one. -/
def Platform.accepts (p : Platform) (image : List Byte) : Bool := Config.imageVerifies image && p.fuses.toNat ≤ Config.imageVersion image

/-- The ROM tries an image (R432): accepted, it becomes the running firmware; otherwise the chip stays in ROM, ALERT_N low, and waits for one over
port H. -/
def State.tryImage (s : State) (image : List Byte) : State :=
  s.updPlatform fun p =>
    if p.accepts image then { p with boot := .firmware, loaded := image, version := Config.imageVersion image, waits := false, loading := [], alertLow := false }
    else { p with waits := true, loading := [], alertLow := true }

/-- Firmware applies its configuration (R432): DRAM is trained, the ports and the well-known queue pairs are up, and the device identity key is
generated where the flash holds none (R429). The clock begins to lock. -/
def State.applyConfig (s : State) : State :=
  let (n, s) := s.draw
  (s.updPlatform fun p => { p with boot := .locking, config := configOf p.loaded, key := some (p.key.getD n) }).bindWellKnown

/-- A step of bring-up ends (R432): the ROM has tested the SRAM and tries the flash image, or firmware has done its work. A step that fails holds the
chip where it is, ALERT_N low. -/
def State.bringUp (s : State) (ok : Bool) : State :=
  let p := s.platform
  if p.held || p.waits || (p.boot != .rom && p.boot != .firmware) then s
  else if !ok then s.updPlatform fun p => { p with held := true, alertLow := true }
  else if p.boot = .rom then s.tryImage p.image
  else s.applyConfig

/-- BOOT_IMAGE_SEND (R432): the SEND that ends an image, which the WRITEs before it have loaded, where the ROM waits for one. -/
def execBootImageSend (p : Packet) (s : State) : Host.Outcome State Fault Refusal :=
  .next (if !s.romTakes p then s
    else s.romPacket p fun s =>
      let m := s.platform.loading
      s.tryImage ((List.range ((m.getLast?.map fun e => e.1 + 1).getD 0)).map (m.get 0)))

/-- RESET_N (R432): the package starts anew in ROM; fuses, and the flash with its image, its identity key and its signature counter, keep what they
hold (R429). -/
def execResetN (s : State) : Host.Outcome State Fault Refusal :=
  let r := State.reset
  .next { r with
    fresh := s.fresh
    agenda := s.agenda
    outbox := s.outbox
    platform := { r.platform with fuses := s.platform.fuses, image := s.platform.image, signed := s.platform.signed, key := s.platform.key } }

end Sys2Proof.Machine
end

