-- ==== Sys2Proof/Machine/Special.lean ====
section
/-!
DEFINITION. Special functions and RAND: class 3 (R98 to R100). A result that R99 does not fix is a free value inside the
bound of R98: the true value is enclosed in fixed point, and `Config.specialValue` is taken where it lies within the bound.
-/

namespace Sys2Proof.Machine

/-- Fraction bits of the fixed-point work. -/
def fxBits : Nat := 256

/-- 1 in fixed point. -/
def fxOne : Nat := 2 ^ fxBits

/-- π in fixed point, rounded down. -/
def fxPi : Nat := 0x3243f6a8885a308d313198a2e03707344a4093822299f31d0082efa98ec4e6c89

/-- ln 2 in fixed point, rounded down. -/
def fxLn2 : Nat := 0xb17217f7d1cf79abc9e3b39803f2f6af40f343267298b62d8a0d175b8baafa2b

/-- A product in fixed point. -/
def fxMul (x y : Nat) : Nat := x * y / fxOne

/-- A bound on the error of every fixed-point value below, in units of 2^-256. -/
def fxErr : Nat := 2 ^ 20

/-- The Taylor series of e^x from term k on, with `n` terms left. -/
def expFrom (x : Nat) : Nat → Nat → Nat → Nat
  | 0, _, _ => 0
  | n + 1, k, t => t + expFrom x n (k + 1) (fxMul t x / (k + 1))

/-- e^x in fixed point for 0 ≤ x ≤ 1. -/
def fxExp (x : Nat) : Nat := expFrom x 70 0 fxOne

/-- The alternating Taylor series of sin x: x − x³/3! + …, from term k on. -/
def sinFrom (x2 : Nat) : Nat → Nat → Int → Int
  | 0, _, _ => 0
  | n + 1, k, t => t + sinFrom x2 n (k + 2) (-(t * x2 / (fxOne * ((k + 1) * (k + 2)) : Nat)))

/-- sin x in fixed point for 0 ≤ x ≤ π/2. -/
def fxSin (x : Nat) : Nat := (sinFrom (fxMul x x) 40 1 (x : Int)).toNat

/-- The series of atanh y: y + y³/3 + …, from exponent k on. -/
def atanhFrom (y2 : Nat) : Nat → Nat → Nat → Nat
  | 0, _, _ => 0
  | n + 1, k, p => p / k + atanhFrom y2 n (k + 2) (fxMul p y2)

/-- ln x in fixed point for 1 ≤ x < 2. -/
def fxLn (x : Nat) : Nat :=
  let y := (x - fxOne) * fxOne / (x + fxOne)
  2 * atanhFrom (fxMul y y) 90 1 y

/-- x / y in fixed point. -/
def fxDiv (x y : Nat) : Nat := x * fxOne / y

/-- A magnitude in fixed point, rounded down. -/
def magFx (m : Mag) : Nat := shiftInt m.num (m.exp + fxBits)

/-- An enclosed true value: its sign, and num × 2^exp within `err` units. -/
structure Enclosure where
  neg : Bool
  num : Nat
  exp : Int
  err : Nat

/-- How a special function answers: a value that R99 fixes, an invalid operation, or a true value that is enclosed. -/
inductive Special where
  | exact (v : Val)
  | invalid
  | near (e : Enclosure)

/-- Whether a magnitude is a power of two, and which (R99). -/
def magPow2 (m : Mag) : Option Int := if m.num = 2 ^ m.num.log2 then some m.log2 else none

/-- 2^k as a value. -/
def pow2Val (neg : Bool) (k : Int) : Val := .fin neg { num := 1, exp := k }

/-- FRCP (R99). -/
def frcpFn (a : Val) : Special :=
  match a with
  | .nan s m => .exact (.nan s m)
  | .zero s => .exact (.inf s)
  | .inf s => .exact (.zero s)
  | .fin s m => match magPow2 m with
    | some k => .exact (pow2Val s (-k))
    | none => .near { neg := s, num := 2 ^ workBits / m.num, exp := -m.exp - workBits, err := 1 }

/-- FRSQ (R99). -/
def frsqFn (a : Val) : Special :=
  match a with
  | .nan s m => .exact (.nan s m)
  | .zero s => .exact (.inf s)
  | .inf false => .exact (.zero false)
  | .inf true => .invalid
  | .fin true _ => .invalid
  | .fin false m =>
    let odd : Int := m.exp % 2
    match magPow2 m with
    | some k => if k % 2 = 0 then .exact (pow2Val false (-(k / 2))) else
        .near { neg := false, num := isqrt (2 ^ (2 * 320 - odd.toNat) / m.num), exp := -(m.exp - odd) / 2 - 320, err := 2 }
    | none => .near { neg := false, num := isqrt (2 ^ (2 * 320 - odd.toNat) / m.num), exp := -(m.exp - odd) / 2 - 320, err := 2 }

/-- The integer part, rounded down, and the fraction in fixed point, of a value of sign s. -/
def splitInt (s : Bool) (m : Mag) : Int × Nat :=
  let x : Int := if s then -(magFx m : Int) else magFx m
  (x / fxOne, (x % fxOne).toNat)

/-- Whether a magnitude is a multiple of 2^k. -/
def magMultiple (m : Mag) (k : Int) : Bool := k ≤ m.exp || m.num % 2 ^ (k - m.exp).toNat = 0

/-- FEXP2 (R99). -/
def fexp2Fn (a : Val) : Special :=
  match a with
  | .nan s m => .exact (.nan s m)
  | .zero _ => .exact (pow2Val false 0)
  | .inf false => .exact (.inf false)
  | .inf true => .exact (.zero false)
  | .fin s m =>
    if 12 ≤ m.log2 then (if s then .exact (.fin false { num := 1, exp := -4096 }) else .exact (.fin false { num := 1, exp := 4096 }))
    else
      let (n, f) := splitInt s m
      if magMultiple m 0 then .exact (pow2Val false n)
      else .near { neg := false, num := fxExp (fxMul f fxLn2), exp := n - fxBits, err := fxErr }

/-- FLOG2 (R99). -/
def flog2Fn (a : Val) : Special :=
  match a with
  | .nan s m => .exact (.nan s m)
  | .zero _ => .exact (.inf true)
  | .inf false => .exact (.inf false)
  | .inf true => .invalid
  | .fin true _ => .invalid
  | .fin false m => match magPow2 m with
    | some k => .exact (Val.ofInt k 0)
    | none =>
      let x := m.num * 2 ^ (fxBits - m.num.log2)
      let t : Int := m.log2 * fxOne + fxDiv (fxLn x) fxLn2
      .near { neg := t < 0, num := t.natAbs, exp := -fxBits, err := fxErr }

/-- sin(π·t) in fixed point for t in units of 2^-256, 0 ≤ t < 2 (the sign and the magnitude). -/
def sinTurn (t : Nat) : Bool × Nat :=
  let neg := fxOne ≤ t
  let u := t % fxOne
  let u := if fxOne / 2 < u then fxOne - u else u
  (neg, fxSin (fxMul u fxPi))

/-- FSIN (R99): an integer gives a zero of its sign, n + 0.5 gives ±1. -/
def fsinFn (a : Val) : Special :=
  match a with
  | .nan s m => .exact (.nan s m)
  | .zero s => .exact (.zero s)
  | .inf _ => .invalid
  | .fin s m =>
    if magMultiple m 0 then .exact (.zero s)
    else
      let t := magFx m % (2 * fxOne)
      if magMultiple m (-1) then .exact (pow2Val (s != (fxOne ≤ t)) 0)
      else
        let (neg, x) := sinTurn t
        .near { neg := s != neg, num := x, exp := -fxBits, err := fxErr }

/-- FCOS (R99): n gives (−1)^n, n + 0.5 gives +0. -/
def fcosFn (a : Val) : Special :=
  match a with
  | .nan s m => .exact (.nan s m)
  | .zero _ => .exact (pow2Val false 0)
  | .inf _ => .invalid
  | .fin _ m =>
    let t := magFx m % (2 * fxOne)
    if magMultiple m 0 then .exact (pow2Val (t != 0) 0)
    else if magMultiple m (-1) then .exact (.zero false)
    else
      let (neg, x) := sinTurn ((t + fxOne / 2) % (2 * fxOne))
      .near { neg := neg, num := x, exp := -fxBits, err := fxErr }

/-- e^(−y) in fixed point for y ≥ 0: 2^(−n−1) × e^((n+1) ln 2 − y). -/
def fxExpNeg (y : Nat) : Nat :=
  let n := y / fxLn2
  if fxBits + 8 ≤ n then 0 else fxExp ((n + 1) * fxLn2 - y) / 2 ^ (n + 1)

/-- FTANH (R99): (1 − u) / (1 + u) with u = e^(−2|a|). -/
def ftanhFn (a : Val) : Special :=
  match a with
  | .nan s m => .exact (.nan s m)
  | .zero s => .exact (.zero s)
  | .inf s => .exact (pow2Val s 0)
  | .fin s m =>
    let u := if 8 ≤ m.log2 then 0 else fxExpNeg (2 * magFx m)
    .near { neg := s, num := fxDiv (fxOne - u) (fxOne + u), exp := -fxBits, err := fxErr }

/-- A special function by number. -/
def specialFn : Nat → Val → Special
  | 0, a => frcpFn a
  | 1, a => frsqFn a
  | 2, a => fexp2Fn a
  | 3, a => flog2Fn a
  | 4, a => fsinFn a
  | 5, a => fcosFn a
  | _, a => ftanhFn a

/-- The bound of R98 on an error, in units of the last place, and the absolute bound as a power of two where there is one. -/
def specialBound (fn : Nat) (f : Fmt) (a : Val) : Nat × Option Int :=
  if f != .fp32 then (1, none)
  else match fn with
    | 0 | 1 => (1, none)
    | 3 =>
      let m := a.mag
      (2, if !m.lt { num := 1, exp := -1 } && !(Mag.lt { num := 2, exp := 0 } m) then some (-22) else none)
    | 4 | 5 => (2, some (-24))
    | _ => (2, none)

/-- Whether a value lies within the bound of an enclosed true value: |v − true| + err ≤ max(n ulp, absolute bound). -/
def Enclosure.within (e : Enclosure) (f : Fmt) (ulps : Nat) (abs : Option Int) (v : Val) : Bool :=
  match v with
  | .nan _ _ => false
  | .inf _ => false
  | v =>
    let t : Dyadic := { n := if e.neg then (e.num : Int) else -(e.num : Int), e := e.exp }
    let d := v.dyadic.add t
    let gap := (Dyadic.add { n := d.n.natAbs, e := d.e } { n := e.err, e := e.exp })
    let unit := f.unit { num := e.num - e.err, exp := e.exp }
    let room := fun (b : Dyadic) => (gap.add { n := -b.n, e := b.e }).n ≤ 0
    room { n := ulps, e := unit } || (match abs with | some k => room { n := 1, e := k } | none => false)

/-- Whether a code of a format is subnormal or zero. -/
def lowCode (f : Fmt) (c : Nat) : Bool := c / 2 ^ f.fbits % 2 ^ f.ebits = 0

/-- An enclosed true value rounded to nearest in a format. -/
def Enclosure.best (e : Enclosure) (f : Fmt) : Nat := encodeVal f .rn false 0 (.fin e.neg { num := e.num, exp := e.exp })

/-- The free code of a special function at operand code x, `a` its value, where it lies inside the bound; otherwise the true value
rounded to nearest (R98). FEXP2's underflow and every overflow are rounded to nearest (R99). -/
def specialPick (fn ty : Nat) (f : Fmt) (x : Nat) (a : Val) (e : Enclosure) : Nat :=
  let c := (Config.specialValue fn ty (BitVec.ofNat 32 x)).toNat % 2 ^ f.bits
  let (n, abs) := specialBound fn f a
  let free := match decodeVal f (e.best f) with | .inf _ => false | _ => !(fn = 2 && lowCode f (e.best f))
  if free && e.within f n abs (decodeVal f c) then c else e.best f

/-- The value of a special function at an operand code, none for a NaN and an invalid operation. -/
def specialAt (fn ty : Nat) (f : Fmt) (x : Nat) : Option Val :=
  match specialFn fn (decodeVal f x) with
  | .exact (.nan _ _) => none
  | .exact y => some (decodeVal f (encodeVal f .rn false 0 y))
  | .invalid => none
  | .near e => some (decodeVal f (specialPick fn ty f x (decodeVal f x) e))

/-- Twice a value, rounded down to an integer. -/
def halves (a : Val) : Int := (splitInt a.neg { a.mag with exp := a.mag.exp + 1 }).1

/-- Whether a function is monotonic from a to b, where a < b, and then whether it rises there (R99): FRCP and FRSQ on each side of 0, FSIN and
FCOS between consecutive multiples of 0.5, the others everywhere. -/
def specialRises (fn : Nat) (a b : Val) : Option Bool :=
  match fn with
  | 0 | 1 => if a.neg = b.neg then some false else none
  | 4 | 5 =>
    let k := halves a
    if valLt (Val.ofInt (k + 1) (-1)) b then none
    else some (if fn = 4 then k % 4 = 0 || k % 4 = 3 else 2 ≤ k % 4)
  | _ => some true

/-- Whether the results at two operand codes are in the order that monotonicity asks for (R99). -/
def specialOrdered (fn ty : Nat) (f : Fmt) (x y : Nat) : Bool :=
  let a := decodeVal f x
  let b := decodeVal f y
  match valLt a b, specialRises fn a b, specialAt fn ty f x, specialAt fn ty f y with
  | true, some rises, some p, some q => !(if rises then valLt q p else valLt p q)
  | _, _, _, _ => true

/-- Whether the free values of a function make it monotonic at every pair of operands of a format (R99). -/
def specialMonotonic (fn ty : Nat) (f : Fmt) : Bool := decide (∀ x y : Word, specialOrdered fn ty f (x.toNat % 2 ^ f.bits) (y.toNat % 2 ^ f.bits) = true)

/-- The code that a special function gives (R98, R99): the free values stand where together they are within their bounds and monotonic;
otherwise every result is the true value rounded to nearest. -/
def specialCode (fn ty : Nat) (v : FpEnv) (x : Nat) : Nat :=
  let a := v.rd x
  match specialFn fn a with
  | .exact y => v.wr (some y.quiet)
  | .invalid => v.wr none
  | .near e => ftzOut v.fmt v.ftz (if specialMonotonic fn ty v.fmt then specialPick fn ty v.fmt x a e else e.best v.fmt)

/-- The effect of a special function on every participating lane. -/
def effSpecial (fn : Nat) : Cx → State → Eff := effFp (fun v a _ _ => specialCode fn (match v.fmt with | .fp32 => 0 | .fp16 => 1 | _ => 2) v a) false

/-- FRCP (R98, R99). -/
def execFrcp (e : Enc) (s : State) : Host.Outcome State Fault Refusal := s.runLong .frcp e (effSpecial 0)
/-- FRSQ (R98, R99). -/
def execFrsq (e : Enc) (s : State) : Host.Outcome State Fault Refusal := s.runLong .frsq e (effSpecial 1)
/-- FEXP2 (R98, R99). -/
def execFexp2 (e : Enc) (s : State) : Host.Outcome State Fault Refusal := s.runLong .fexp2 e (effSpecial 2)
/-- FLOG2 (R98, R99). -/
def execFlog2 (e : Enc) (s : State) : Host.Outcome State Fault Refusal := s.runLong .flog2 e (effSpecial 3)
/-- FSIN (R98, R99). -/
def execFsin (e : Enc) (s : State) : Host.Outcome State Fault Refusal := s.runLong .fsin e (effSpecial 4)
/-- FCOS (R98, R99). -/
def execFcos (e : Enc) (s : State) : Host.Outcome State Fault Refusal := s.runLong .fcos e (effSpecial 5)
/-- FTANH (R98, R99). -/
def execFtanh (e : Enc) (s : State) : Host.Outcome State Fault Refusal := s.runLong .ftanh e (effSpecial 6)

/-- RAND's value from a draw (R100). -/
def randOf (m : Nat) (x : DWord) : Word :=
  if m / 8 % 2 = 0 then hi32 x
  else
    let n := x.toNat / 2 ^ 40
    BitVec.ofNat 32 (encodeVal .fp32 .rn false 0 (if n = 0 then .zero false else .fin false { num := n, exp := -24 }))

/-- RAND's effect (R100): one draw of the lane's stream. -/
def effRand (cx : Cx) (s : State) : Eff :=
  let b := cx.block s
  .ok (cx.emit s 1 fun p w => [cx.lanesWrite p cx.e.dst.toNat fun l =>
    randOf cx.m (drawOf b.seed (b.lid w.index l).toNat (cx.m % 8) (w.draw.get 0 l).toNat)])

/-- RAND (R100). -/
def execRand (e : Enc) (s : State) : Host.Outcome State Fault Refusal := s.runLong .rand e effRand

end Sys2Proof.Machine
end

