-- ==== Sys2Proof/Machine/Dispatch.lean ====
section
/-!
DEFINITION. The dispatch: one arm per row of spec/opcode_table.json.
-/

namespace Sys2Proof.Machine

/-- The meaning of an instruction of the issuing warp, or of an event. -/
def exec (i : Instr) (s : State) : Host.Outcome State Fault Refusal :=
  match i with
  | .iadd e => Sys2Proof.Machine.execIadd e s
  | .iaddF32 f => Sys2Proof.Machine.execIaddF32 f s
  | .isub e => Sys2Proof.Machine.execIsub e s
  | .isubF32 f => Sys2Proof.Machine.execIsubF32 f s
  | .imul e => Sys2Proof.Machine.execImul e s
  | .imulF32 f => Sys2Proof.Machine.execImulF32 f s
  | .imulh e => Sys2Proof.Machine.execImulh e s
  | .imad e => Sys2Proof.Machine.execImad e s
  | .imin e => Sys2Proof.Machine.execImin e s
  | .iminF32 f => Sys2Proof.Machine.execIminF32 f s
  | .imax e => Sys2Proof.Machine.execImax e s
  | .imaxF32 f => Sys2Proof.Machine.execImaxF32 f s
  | .iabs e => Sys2Proof.Machine.execIabs e s
  | .iabsF32 f => Sys2Proof.Machine.execIabsF32 f s
  | .ineg e => Sys2Proof.Machine.execIneg e s
  | .inegF32 f => Sys2Proof.Machine.execInegF32 f s
  | .lea e => Sys2Proof.Machine.execLea e s
  | .icmp e => Sys2Proof.Machine.execIcmp e s
  | .sel e => Sys2Proof.Machine.execSel e s
  | .and e => Sys2Proof.Machine.execAnd e s
  | .andF32 f => Sys2Proof.Machine.execAndF32 f s
  | .or e => Sys2Proof.Machine.execOr e s
  | .orF32 f => Sys2Proof.Machine.execOrF32 f s
  | .xor e => Sys2Proof.Machine.execXor e s
  | .xorF32 f => Sys2Proof.Machine.execXorF32 f s
  | .andn e => Sys2Proof.Machine.execAndn e s
  | .andnF32 f => Sys2Proof.Machine.execAndnF32 f s
  | .not e => Sys2Proof.Machine.execNot e s
  | .notF32 f => Sys2Proof.Machine.execNotF32 f s
  | .shl e => Sys2Proof.Machine.execShl e s
  | .shlF32 f => Sys2Proof.Machine.execShlF32 f s
  | .shr e => Sys2Proof.Machine.execShr e s
  | .shrF32 f => Sys2Proof.Machine.execShrF32 f s
  | .sar e => Sys2Proof.Machine.execSar e s
  | .sarF32 f => Sys2Proof.Machine.execSarF32 f s
  | .rotl e => Sys2Proof.Machine.execRotl e s
  | .popc e => Sys2Proof.Machine.execPopc e s
  | .clz e => Sys2Proof.Machine.execClz e s
  | .ctz e => Sys2Proof.Machine.execCtz e s
  | .brev e => Sys2Proof.Machine.execBrev e s
  | .bfe e => Sys2Proof.Machine.execBfe e s
  | .bfi e => Sys2Proof.Machine.execBfi e s
  | .bperm e => Sys2Proof.Machine.execBperm e s
  | .fadd e => Sys2Proof.Machine.execFadd e s
  | .faddF32 f => Sys2Proof.Machine.execFaddF32 f s
  | .fsub e => Sys2Proof.Machine.execFsub e s
  | .fsubF32 f => Sys2Proof.Machine.execFsubF32 f s
  | .fmul e => Sys2Proof.Machine.execFmul e s
  | .fmulF32 f => Sys2Proof.Machine.execFmulF32 f s
  | .ffma e => Sys2Proof.Machine.execFfma e s
  | .fmin e => Sys2Proof.Machine.execFmin e s
  | .fminF32 f => Sys2Proof.Machine.execFminF32 f s
  | .fmax e => Sys2Proof.Machine.execFmax e s
  | .fmaxF32 f => Sys2Proof.Machine.execFmaxF32 f s
  | .fabs e => Sys2Proof.Machine.execFabs e s
  | .fabsF32 f => Sys2Proof.Machine.execFabsF32 f s
  | .fneg e => Sys2Proof.Machine.execFneg e s
  | .fnegF32 f => Sys2Proof.Machine.execFnegF32 f s
  | .fcmp e => Sys2Proof.Machine.execFcmp e s
  | .fclass e => Sys2Proof.Machine.execFclass e s
  | .frint e => Sys2Proof.Machine.execFrint e s
  | .fdiv e => Sys2Proof.Machine.execFdiv e s
  | .fsqrt e => Sys2Proof.Machine.execFsqrt e s
  | .fdot2 e => Sys2Proof.Machine.execFdot2 e s
  | .frcp e => Sys2Proof.Machine.execFrcp e s
  | .frsq e => Sys2Proof.Machine.execFrsq e s
  | .fexp2 e => Sys2Proof.Machine.execFexp2 e s
  | .flog2 e => Sys2Proof.Machine.execFlog2 e s
  | .fsin e => Sys2Proof.Machine.execFsin e s
  | .fcos e => Sys2Proof.Machine.execFcos e s
  | .ftanh e => Sys2Proof.Machine.execFtanh e s
  | .rand e => Sys2Proof.Machine.execRand e s
  | .cvt e => Sys2Proof.Machine.execCvt e s
  | .pack e => Sys2Proof.Machine.execPack e s
  | .unpack e => Sys2Proof.Machine.execUnpack e s
  | .mxenc e => Sys2Proof.Machine.execMxenc e s
  | .mxdec e => Sys2Proof.Machine.execMxdec e s
  | .ixenc e => Sys2Proof.Machine.execIxenc e s
  | .ixdec e => Sys2Proof.Machine.execIxdec e s
  | .kand e => Sys2Proof.Machine.execKand e s
  | .kandF32 f => Sys2Proof.Machine.execKandF32 f s
  | .kor e => Sys2Proof.Machine.execKor e s
  | .korF32 f => Sys2Proof.Machine.execKorF32 f s
  | .kxor e => Sys2Proof.Machine.execKxor e s
  | .kxorF32 f => Sys2Proof.Machine.execKxorF32 f s
  | .knot e => Sys2Proof.Machine.execKnot e s
  | .knotF32 f => Sys2Proof.Machine.execKnotF32 f s
  | .kmov e => Sys2Proof.Machine.execKmov e s
  | .kmovF32 f => Sys2Proof.Machine.execKmovF32 f s
  | .kpop e => Sys2Proof.Machine.execKpop e s
  | .kfirst e => Sys2Proof.Machine.execKfirst e s
  | .shfl e => Sys2Proof.Machine.execShfl e s
  | .bcast e => Sys2Proof.Machine.execBcast e s
  | .red e => Sys2Proof.Machine.execRed e s
  | .scan e => Sys2Proof.Machine.execScan e s
  | .vote e => Sys2Proof.Machine.execVote e s
  | .matchOp e => Sys2Proof.Machine.execMatchOp e s
  | .mov e => Sys2Proof.Machine.execMov e s
  | .movi e => Sys2Proof.Machine.execMovi e s
  | .v2s e => Sys2Proof.Machine.execV2s e s
  | .s2v e => Sys2Proof.Machine.execS2v e s
  | .movsr e => Sys2Proof.Machine.execMovsr e s
  | .movsw e => Sys2Proof.Machine.execMovsw e s
  | .bra e => Sys2Proof.Machine.execBra e s
  | .jmp e => Sys2Proof.Machine.execJmp e s
  | .call e => Sys2Proof.Machine.execCall e s
  | .ret e => Sys2Proof.Machine.execRet e s
  | .join e => Sys2Proof.Machine.execJoin e s
  | .leave e => Sys2Proof.Machine.execLeave e s
  | .wait e => Sys2Proof.Machine.execWait e s
  | .loop e => Sys2Proof.Machine.execLoop e s
  | .exit e => Sys2Proof.Machine.execExit e s
  | .nop e => Sys2Proof.Machine.execNop e s
  | .nopF32 => Sys2Proof.Machine.execNopF32 s
  | .trap e => Sys2Proof.Machine.execTrap e s
  | .tret e => Sys2Proof.Machine.execTret e s
  | .bkpt e => Sys2Proof.Machine.execBkpt e s
  | .yield e => Sys2Proof.Machine.execYield e s
  | .ld e => Sys2Proof.Machine.execLd e s
  | .st e => Sys2Proof.Machine.execSt e s
  | .prf e => Sys2Proof.Machine.execPrf e s
  | .cfl e => Sys2Proof.Machine.execCfl e s
  | .cinv e => Sys2Proof.Machine.execCinv e s
  | .acp e => Sys2Proof.Machine.execAcp e s
  | .stage e => Sys2Proof.Machine.execStage e s
  | .mbinit e => Sys2Proof.Machine.execMbinit e s
  | .mbarr e => Sys2Proof.Machine.execMbarr e s
  | .mbexp e => Sys2Proof.Machine.execMbexp e s
  | .mbwait e => Sys2Proof.Machine.execMbwait e s
  | .mbtest e => Sys2Proof.Machine.execMbtest e s
  | .atom e => Sys2Proof.Machine.execAtom e s
  | .mred e => Sys2Proof.Machine.execMred e s
  | .fence e => Sys2Proof.Machine.execFence e s
  | .qfence e => Sys2Proof.Machine.execQfence e s
  | .talloc e => Sys2Proof.Machine.execTalloc e s
  | .tdrop e => Sys2Proof.Machine.execTdrop e s
  | .tquery e => Sys2Proof.Machine.execTquery e s
  | .textend e => Sys2Proof.Machine.execTextend e s
  | .consumingReadComplete blk id => Sys2Proof.Machine.execConsumingReadComplete blk id s
  | .mma e => Sys2Proof.Machine.execMma e s
  | .mmas e => Sys2Proof.Machine.execMmas e s
  | .mmaw e => Sys2Proof.Machine.execMmaw e s
  | .aclr e => Sys2Proof.Machine.execAclr e s
  | .ald e => Sys2Proof.Machine.execAld e s
  | .adrain e => Sys2Proof.Machine.execAdrain e s
  | .msync e => Sys2Proof.Machine.execMsync e s
  | .matrixEntryStart core => Sys2Proof.Machine.execMatrixEntryStart core s
  | .matrixEntryComplete core => Sys2Proof.Machine.execMatrixEntryComplete core s
  | .put e => Sys2Proof.Machine.execPut e s
  | .get e => Sys2Proof.Machine.execGet e s
  | .patom e => Sys2Proof.Machine.execPatom e s
  | .post e => Sys2Proof.Machine.execPost e s
  | .pcount e => Sys2Proof.Machine.execPcount e s
  | .rpush e => Sys2Proof.Machine.execRpush e s
  | .rpop e => Sys2Proof.Machine.execRpop e s
  | .rwait e => Sys2Proof.Machine.execRwait e s
  | .rcur e => Sys2Proof.Machine.execRcur e s
  | .launch e => Sys2Proof.Machine.execLaunch e s
  | .evsub e => Sys2Proof.Machine.execEvsub e s
  | .evwait e => Sys2Proof.Machine.execEvwait e s
  | .svc e => Sys2Proof.Machine.execSvc e s
  | .time e => Sys2Proof.Machine.execTime e s
  | .clk e => Sys2Proof.Machine.execClk e s
  | .ctxq e => Sys2Proof.Machine.execCtxq e s
  | .halt e => Sys2Proof.Machine.execHalt e s
  | .dgread e => Sys2Proof.Machine.execDgread e s
  | .longLatencyResult wid id => Sys2Proof.Machine.execLongLatencyResult wid id s
  | .asyncFaultDelivery blk => Sys2Proof.Machine.execAsyncFaultDelivery blk s
  | .blockAdmission grid bid core => Sys2Proof.Machine.execBlockAdmission grid bid core s
  | .blockStart blk => Sys2Proof.Machine.execBlockStart blk s
  | .blockSave blk => Sys2Proof.Machine.execBlockSave blk s
  | .blockRestore grid bid => Sys2Proof.Machine.execBlockRestore grid bid s
  | .timeSlice => Sys2Proof.Machine.execTimeSlice s
  | .warpReadmission core => Sys2Proof.Machine.execWarpReadmission core s
  | .hang slot => Sys2Proof.Machine.execHang slot s
  | .itineraryCopyIssue blk => Sys2Proof.Machine.execItineraryCopyIssue blk s
  | .itineraryCopyLanding blk copy granule => Sys2Proof.Machine.execItineraryCopyLanding blk copy granule s
  | .acpCopyLanding wid => Sys2Proof.Machine.execAcpCopyLanding wid s
  | .aliasSectorWrite window => Sys2Proof.Machine.execAliasSectorWrite window s
  | .aliasSectorRead window sector => Sys2Proof.Machine.execAliasSectorRead window sector s
  | .floorPublication => Sys2Proof.Machine.execFloorPublication s
  | .orderedOperationPerform point => Sys2Proof.Machine.execOrderedOperationPerform point s
  | .engineRingClaim job => Sys2Proof.Machine.execEngineRingClaim job s
  | .serialisedReexecution blk => Sys2Proof.Machine.execSerialisedReexecution blk s
  | .shadowRun grid bid => Sys2Proof.Machine.execShadowRun grid bid s
  | .clusterStop core => Sys2Proof.Machine.execClusterStop core s
  | .pcSample => Sys2Proof.Machine.execPcSample s
  | .counterLatch => Sys2Proof.Machine.execCounterLatch s
  | .hostSubmission m => Sys2Proof.Machine.execHostSubmission m s
  | .lanternEmit => Sys2Proof.Machine.execLanternEmit s
  | .lantern d => Sys2Proof.Machine.execLantern d s
  | .hyturEventMessage d att => Sys2Proof.Machine.execHyturEventMessage d att s
  | .retransmitGapTimeout origin => Sys2Proof.Machine.execRetransmitGapTimeout origin s
  | .retransmitRequest d => Sys2Proof.Machine.execRetransmitRequest d s
  | .eventDelivery => Sys2Proof.Machine.execEventDelivery s
  | .suspicion member => Sys2Proof.Machine.execSuspicion member s
  | .callMessage d att => Sys2Proof.Machine.execCallMessage d att s
  | .answer d att => Sys2Proof.Machine.execAnswer d att s
  | .decideTimeout => Sys2Proof.Machine.execDecideTimeout s
  | .decide d att => Sys2Proof.Machine.execDecide d att s
  | .confirm d => Sys2Proof.Machine.execConfirm d s
  | .rollCallRetry => Sys2Proof.Machine.execRollCallRetry s
  | .rollCallFence => Sys2Proof.Machine.execRollCallFence s
  | .ask d => Sys2Proof.Machine.execAsk d s
  | .snapshot d => Sys2Proof.Machine.execSnapshot d s
  | .ready d => Sys2Proof.Machine.execReady d s
  | .abandon d => Sys2Proof.Machine.execAbandon d s
  | .joinerTimeout => Sys2Proof.Machine.execJoinerTimeout s
  | .founding => Sys2Proof.Machine.execFounding s
  | .ptpMessage m => Sys2Proof.Machine.execPtpMessage m s
  | .clockUnlockFence => Sys2Proof.Machine.execClockUnlockFence s
  | .bind m => Sys2Proof.Machine.execBind m s
  | .unbind m => Sys2Proof.Machine.execUnbind m s
  | .reset m => Sys2Proof.Machine.execReset m s
  | .bindDelay => Sys2Proof.Machine.execBindDelay s
  | .pacedPacketSend q => Sys2Proof.Machine.execPacedPacketSend q s
  | .rdmaWrite p => Sys2Proof.Machine.execRdmaWrite p s
  | .rdmaReadRequest p => Sys2Proof.Machine.execRdmaReadRequest p s
  | .atomicFetchAndAdd p => Sys2Proof.Machine.execAtomicFetchAndAdd p s
  | .atomicCompareAndSwap p => Sys2Proof.Machine.execAtomicCompareAndSwap p s
  | .taggedSend p => Sys2Proof.Machine.execTaggedSend p s
  | .readResponse p => Sys2Proof.Machine.execReadResponse p s
  | .acknowledge p => Sys2Proof.Machine.execAcknowledge p s
  | .atomicAcknowledge p => Sys2Proof.Machine.execAtomicAcknowledge p s
  | .nak p => Sys2Proof.Machine.execNak p s
  | .rnrNak p => Sys2Proof.Machine.execRnrNak p s
  | .rnrResend q => Sys2Proof.Machine.execRnrResend q s
  | .retransmitTimeout q => Sys2Proof.Machine.execRetransmitTimeout q s
  | .cnp p => Sys2Proof.Machine.execCnp p s
  | .congestionPeriod q => Sys2Proof.Machine.execCongestionPeriod q s
  | .invalidateRange m => Sys2Proof.Machine.execInvalidateRange m s
  | .invalidateContext m => Sys2Proof.Machine.execInvalidateContext m s
  | .windowOff m => Sys2Proof.Machine.execWindowOff m s
  | .windowOn m => Sys2Proof.Machine.execWindowOn m s
  | .injectDigest m => Sys2Proof.Machine.execInjectDigest m s
  | .claim m => Sys2Proof.Machine.execClaim m s
  | .release m => Sys2Proof.Machine.execRelease m s
  | .comparator m => Sys2Proof.Machine.execComparator m s
  | .watchpoint m => Sys2Proof.Machine.execWatchpoint m s
  | .resume m => Sys2Proof.Machine.execResume m s
  | .step m => Sys2Proof.Machine.execStep m s
  | .sampling m => Sys2Proof.Machine.execSampling m s
  | .timeSeries m => Sys2Proof.Machine.execTimeSeries m s
  | .setBudget m => Sys2Proof.Machine.execSetBudget m s
  | .attestation m => Sys2Proof.Machine.execAttestation m s
  | .smbusBudgetWrite watts => Sys2Proof.Machine.execSmbusBudgetWrite watts s
  | .powerGrant demand => Sys2Proof.Machine.execPowerGrant demand s
  | .scrub loc => Sys2Proof.Machine.execScrub loc s
  | .resetN => Sys2Proof.Machine.execResetN s
  | .bootImageSend p => Sys2Proof.Machine.execBootImageSend p s
  | .freezeN => Sys2Proof.Machine.execFreezeN s
  | .freeze => Sys2Proof.Machine.execFreeze s
  | .bypass bit => Sys2Proof.Machine.execBypass bit s
  | .idcode => Sys2Proof.Machine.execIdcode s
  | .dumpaddr value => Sys2Proof.Machine.execDumpaddr value s
  | .dumpdata => Sys2Proof.Machine.execDumpdata s
  | .illegalInstruction => Sys2Proof.Machine.execIllegalInstruction s
  | .instrFetch addr => Sys2Proof.Machine.execInstrFetch addr s
  | .ackCoalescing q => Sys2Proof.Machine.execAckCoalescing q s
  | .ptpSyncInterval port => Sys2Proof.Machine.execPtpSyncInterval port s
  | .rejoinAsk => Sys2Proof.Machine.execRejoinAsk s

end Sys2Proof.Machine
end

