-- ==== Sys2Proof/Machine/Turn.lean ====
section
/-!
DEFINITION. What a turn does: a warp's next issue (R47, R136), an event, the passing of time, an error in a stored word;
what follows every turn; and which turn comes when none is given.
-/

namespace Sys2Proof.Machine

/-! ## A warp's turn -/

/-- Whether a warp may issue at all: not suspended (R134), halted (R411), off-core (R358), stalled (R227, R252, R373), or of a block that
is to leave its core (R301), that stands back for a re-execution (R383), or has a HANG trap before it (R139). A step lets a halted warp issue (R416). -/
def State.canIssue (s : State) (wid : Nat) : Bool :=
  match s.warp? wid with
  | none => false
  | some w =>
    let b := s.block w.blk
    w.live != 0 && w.suspended.isNone && (!w.halted || w.stepping) && w.offcore.isNone && w.waits.isEmpty && b.started && !b.ended && !w.skip
      && !(s.dmode b && w.parks.any fun p => 3 ≤ p.place.kind)
      && w.migrating.isNone && !s.mustLeave b && (b.kind = .rerun || !s.rerunning b.ctx) && !s.hangDue wid

/-- The instruction at a PC issues, or its fetch faults (R46, R47). -/
def State.issueAt (s : State) (wid : Nat) (w : Warp) (pc : Addr54) : Host.Outcome State Fault Refusal :=
  match s.fetch (coreOf wid) (s.block w.blk).ctx pc with
  | .wait a => .next (s.updWarp wid fun w => { w with migrating := some a })
  | .fault a => exec (.instrFetch a) { s with cur := some wid }
  | .ok bs s => match decode bs with
    | .ok (i, _) => exec i { s with cur := some wid }
    | .error _ => exec .illegalInstruction { s with cur := some wid }

/-- An outcome whose next state is changed. -/
def mapNext (f : State → State) : Host.Outcome State Fault Refusal → Host.Outcome State Fault Refusal
  | .next s => .next (f s)
  | .fault r => .fault r
  | .refused r => .refused r

/-- Whether the next boundary of a warp takes a fault that its block holds (R433). -/
def State.faultDue (s : State) (wid : Nat) : Bool :=
  match s.warp? wid with
  | none => false
  | some w => let b := s.block w.blk; !b.held.isEmpty && s.asyncTarget b = some wid && s.atBoundary wid

/-- A warp's next issue, or a comparator hit in its place (R406). -/
def State.nextIssue (s : State) (wid : Nat) : Host.Outcome State Fault Refusal :=
  match s.warp? wid, s.nextPc wid with
  | some w, some (pc, ready) =>
    let b := s.block w.blk
    match (if ready || w.frame.isSome || w.pass = some pc then none else s.comparatorAt b.ctx pc) with
    | some n =>
      let e := match s.fetch (coreOf wid) b.ctx pc with
        | .ok bs _ => encOf (numOf bs)
        | _ => encOf 0
      .next (if (s.ctx b.ctx).claim.isSome then s.warpHit wid 1 n pc true
        else s.unlessHeld s [wid] (s.enterTrap wid pc [{ code := Code.breakpoint, pc := BitVec.ofNat 64 pc.toNat, info := 0x400 + n, lanes := w.selected b.width, scope := scopeByte e, members := s.scopeMask b e.scope e.sel.toNat wid }]))
    | none => s.issueAt wid w pc
  | _, _ => .next s

/-- The counter of the hang detector after an issue of a context (R138, R139). -/
def State.noHang (s : State) (ctx : Nat) : State := s.updCtx ctx fun c => { c with hangCount := 0, hangFired := false }

/-- The outcome of a step of a warp (R416), where its issue has been made: 0 issued, 1 parked, 2 faulted, 3 exited. -/
def stepOutcome (s t : State) (wid : Nat) : Option Nat :=
  match s.warp? wid, t.warp? wid with
  | some a, some b =>
    if b.live = 0 then some 3
    else if a.frame.isNone && b.frame.isSome then some 2
    else if s.issues = t.issues then none
    else if a.frame.isSome && b.frame.isNone then some 0
    else if a.selected (s.block a.blk).width &&& parkedOf b.parks != 0 then some 1 else some 0
  | some _, none => some 3
  | _, _ => none

/-- Ends a step of a warp once its issue has been made: the warp stays halted, a kind 5 record and the answer follow (R413, R416). -/
def State.endStep (s t : State) (wid : Nat) : State :=
  match s.warp? wid, stepOutcome s t wid with
  | some a, some st =>
    if !a.stepping then t
    else
      let ctx := (s.block a.blk).ctx
      let u := if (t.warp? wid).isSome then t else s
      let w := u.warpD wid
      let pc := if st = 3 then w.lastPc else w.standsAt (s.block a.blk).width
      let t := t.updWarp wid fun w => { w with stepping := false, halted := true, pass := none }
      let t := t.debugRecord ctx 5 st 0 (coreOf wid) (s.block a.blk).stopno 0 (u.warpName wid 0xFF pc) w.stopDetail
      match t.manage with
      | m :: r => { t.answerMgmt m 0 with manage := r }
      | [] => t
  | _, _ => t

/-- A warp's turn: an asynchronous fault that waits for it (R433), or its next issue. -/
def State.issueTurn (s : State) (wid : Nat) : Host.Outcome State Fault Refusal :=
  if s.faultDue wid then .next (s.endStep (s.deliverAsync (s.warpD wid).blk) wid)
  else if !s.canIssue wid then .next s
  else mapNext (fun t =>
    let t := { t with cur := none }
    let ctx := (s.block (s.warpD wid).blk).ctx
    s.endStep (if t.issues = s.issues then t else t.noHang ctx) wid) (s.nextIssue wid)

/-! ## The passing of time -/

/-- Cycles added to a context's hang counter (R138): it holds its value while no warp of the context is on the chip, and returns to zero
when a condition fails. -/
def State.countHang (s : State) (cycles : Nat) (e : Nat × Ctx) : Nat × Ctx :=
  if (s.hangWarps e.1).isEmpty then e
  else (e.1, { e.2 with hangCount := if s.hangs e.1 then e.2.hangCount + cycles else 0 })

/-- A core's counters of cycles (R419): candidates or none, stopped, warps parked by kind, warps stalled, allocations and ordered
operations that wait, the matrix engine busy, its queue full. -/
def State.countCycles (s : State) (core cycles : Nat) : State :=
  let ws := s.warpsOn core
  let s := if ws.isEmpty then s
    else if ws.all (fun (e : Nat × Warp) => e.2.halted) then s.addCore core 6 cycles
    else if ws.any (fun (e : Nat × Warp) => s.canIssue e.1 && (s.nextPc e.1).isSome) then s.addCore core 4 cycles
    else s.addCore core 5 cycles
  let s := ws.foldl (fun (s : State) (e : Nat × Warp) =>
    if s.isParked e.1 e.2 then match e.2.parks with
      | p :: _ => s.addCore core (7 + p.place.kind) cycles
      | [] => s
    else if s.canIssue e.1 then s else s.addCore core 15 cycles) s
  let s := if ((s.core core).mq.head?.any fun e => !e.started) then s.addCore core 30 cycles else s
  let s := if s.blocks.any fun (e : Nat × Block) => e.2.core = core && !e.2.ended && e.2.waiters.any fun x => !x.2.isEmpty then s.addCore core 50 cycles else s
  let s := if s.ordered.any fun o => (s.block o.blk).core = core then s.addCore core 62 cycles else s
  let q := (s.core core).mq.length
  let s := if q = 0 then s else s.addCore core 24 cycles
  if q < 16 then s else s.addCore core 29 cycles

/-- Skipped cycles of a unit held below its demand: as many as the free choice says (R425). -/
def State.skipped (s : State) (cycles : Nat) : Nat × State :=
  let (n, s) := s.draw
  (Config.freeChoice n % (cycles + 1), s)

/-- Whether a core, or an engine of it, is held below its demand (R425): by its own grants, or, while it makes room for another block or has a warp in
trap mode, by the grant of context-switch traffic or of trap mode. -/
def State.coreShort (s : State) (c : Nat) : Bool :=
  let p := s.platform
  p.short (c + 2) || p.short (c + 130) || p.short (c + 258)
    || (p.short 0 && s.blocks.any fun (e : Nat × Block) => e.2.core = c && (e.2.victim || e.2.swap) && !e.2.ended)
    || (p.short 1 && s.warps.any fun (e : Nat × Warp) => coreOf e.1 = c && e.2.frame.isSome)

/-- Whether a unit beside the cores of a die is held below its demand: a die link, or on die 0 the porter or the scheduler engine. -/
def Platform.dieShort (p : Platform) (d : Nat) : Bool := p.short (388 + 2 * d) || p.short (389 + 2 * d) || (d = 0 && (p.short 386 || p.short 387))

/-- The throttled cycles of a period's cycles (R418, R425). -/
def State.throttle (s : State) (cycles : Nat) : State :=
  if !s.platform.throttling then s
  else
    let s := (List.range 128).foldl (fun (s : State) c =>
      if s.coreShort c then
        let (k, s) := s.skipped cycles
        s.updCore c fun x => { x with throttled := x.throttled + k }
      else s) s
    (List.range 4).foldl (fun (s : State) d =>
      if s.platform.dieShort d then
        let (k, s) := s.skipped cycles
        s.updPlatform fun p => { p with dieThrottled := p.dieThrottled.put 0 d (p.dieThrottled.get 0 d + k) }
      else s) s

/-- Cycles and ticks pass (R11): the cycle counter, the pod clock, the hang counters, what a YIELD skipped. -/
def State.pass (s : State) (cycles ticks : Nat) : State :=
  let s := { s with cycle := s.cycle + BitVec.ofNat 64 cycles, clock := { s.clock with time := s.clock.time + ticks } }
  if cycles = 0 then s
  else
    let s := s.drainOrigin
    let s := s.drainSubmits s.submits
    let s := { s with ctxs := s.ctxs.map (s.countHang cycles) }
    let s := s.cores.foldl (fun (s : State) (e : Nat × Core) => s.countCycles e.1 cycles) s
    { s with warps := s.warps.map fun (e : Nat × Warp) => (e.1, { e.2 with skip := false }) }.throttle cycles

/-! ## What follows every turn -/

/-- Whether a parked group still stands in a warp, or in its trap frame. -/
def State.stillParked (s : State) (wid : Nat) (p : Park) : Bool := (s.warp? wid).any fun w => w.allParks.contains p

/-- The lanes of a parked access that wait on bytes of an owner that has ended, each with its SPACE_RANGE (R175), whatever block may hold the
bytes now. -/
def State.lateLanes (s : State) (op : MemOp) : List (Nat × Rec) :=
  let holds := fun (c o : Nat) => (s.blocks.any fun (e : Nat × Block) => op.owners.contains e.1 && !e.2.ended && e.2.core = c && e.2.holds o)
    || s.images.any fun x => op.owners.contains x.key && x.block.core = c && x.block.holds o
  op.lanes.filterMap fun a => match a.loc with
    | .spad c ws => if ws.all fun o => holds c o then none else some (a.wid, op.laneRec Code.spaceRange a)
    | _ => none

/-- A wait on bytes whose owner has ended faults (R175, R246); it waits while its warp is in trap mode. -/
def State.lateFault (s : State) (x : Nat × Park × Nat) : State :=
  let p := x.2.1
  if !s.stillParked x.1 p then s
  else match p.place with
    | .granule op => s.failOp op (s.lateLanes op) none
    | .mbwait core off _ _ scope mm warps =>
      s.failPark (fun q => q.place = p.place) warps [] p.pc scope mm (warps.head?.toList.map fun m =>
        (m.1, { code := x.2.2, lane := (members 64 m.2).headD 0, width := 8, addr := some (BitVec.ofNat 64 (core % 4 * 2 ^ 21 + off)), space := 2 })) none
    | _ => s

/-- Every such wait; those that had to wait remain. -/
def State.lateFaults (s : State) : State :=
  let s := s.late.foldl State.lateFault s
  { s with late := s.late.filter fun x => s.stillParked x.1 x.2.1 }

/-- HANG traps that waited for a migrating page or for their stream program (R139, R315). -/
def State.hangTraps (s : State) : State :=
  s.ctxs.foldl (fun (s : State) (e : Nat × Ctx) => match e.2.hangHeld, e.2.hangWaits with
    | some (n, bs, none), _ => s.writeGraph e.1 n bs
    | _, some n => s.deliverHang e.1 n
    | _, none => s) s

/-- What follows a turn at once: faults of waits whose owner ended, accesses, rings and porter queues that can go on, scope instances that
an exit has split (R133), HANG traps, and management commands that can go on. -/
def State.afterTurn (s : State) : State :=
  if s.platform.frozen then s
  else
    let s := s.lateFaults.retryParked.retryRings.settleQueues.snapshotsDone.splitFaults.hangTraps
    s.drainManage s.manage

/-! ## A turn -/

/-- What a frozen chip still does (R420, R421): the test access port, and reset. -/
def Turn.whileFrozen : Turn → Bool
  | .scanIr _ => true
  | .event .resetN => true
  | .event .idcode => true
  | .event .dumpdata => true
  | .event (.bypass _) => true
  | .event (.dumpaddr _) => true
  | _ => false

/-- A turn by itself. -/
def State.turnBare (s : State) : Turn → Host.Outcome State Fault Refusal
  | .issue wid => s.issueTurn wid
  | .event i => if i.fetched then .next s else exec i s
  | .tick cycles ticks => .next (s.pass cycles ticks)
  | .upset loc corrected => .next (s.upset loc corrected)
  | .scanIr code => .next (s.scanIr code)
  | .smbusCounter unit uncorrected => .next (s.smbusCounter unit uncorrected)
  | .smbusTemperature die => .next (s.smbusTemperature die)
  | .filterEvict line => .next (s.filterEvict line)
  | .bringUp ok => .next (s.bringUp ok)

/-- A turn with what follows it; a frozen chip does nothing but what `whileFrozen` says. -/
def State.turn (s : State) (t : Turn) : Host.Outcome State Fault Refusal :=
  if s.platform.frozen && !t.whileFrozen then .next s else mapNext State.afterTurn (s.turnBare t)

/-! ## Which turn comes (R136, R203, R372) -/

/-- Whether a warp is a candidate (R136): its turn would issue, or take a fault. -/
def State.candidate (s : State) (wid : Nat) : Bool :=
  if s.faultDue wid then s.trapHold [wid] != some none else s.canIssue wid && match s.issueTurn wid with
    | .next t => t.issues != s.issues || (t.warpD wid).frame.isSome != (s.warpD wid).frame.isSome || (t.warpD wid).halted != (s.warpD wid).halted
      || (t.warp? wid).isNone
    | _ => false

/-- Whether one candidate of a core goes before another (R136, R372). -/
def State.goesBefore (s : State) (a b : Nat × Warp) : Bool :=
  let d : Bool := s.dmode (s.block a.2.blk) && s.dmode (s.block b.2.blk)
  let turn := fun (wid : Nat) => (wid % 32 + 32 - s.cycle.toNat % 32) % 32
  if a.2.frame.isSome != b.2.frame.isSome then a.2.frame.isSome
  else if d then (if a.2.lclk = b.2.lclk then turn a.1 < turn b.1 else a.2.lclk.ult b.2.lclk)
  else if a.2.last = b.2.last then a.1 < b.1
  else a.2.last.getD 0 < b.2.last.getD 0

/-- The issues that may come next: on each core the first of its candidates. -/
def State.nextIssues (s : State) : List Turn :=
  (distinct (s.warps.map fun (e : Nat × Warp) => coreOf e.1)).filterMap fun core =>
    (leastBy s.goesBefore ((s.warpsOn core).filter fun (e : Nat × Warp) => s.candidate e.1)).map fun e => .issue e.1

/-- Events of warps and blocks that may come next. -/
def State.blockEvents (s : State) : List Instr :=
  let t := s.hytur.tables
  (s.warps.flatMap fun (e : Nat × Warp) => .acpCopyLanding e.1 :: (e.2.windows.filter fun x => x.ready && !x.done).map fun x => .longLatencyResult e.1 x.id)
    ++ (s.blocks.flatMap fun (e : Nat × Block) =>
      [.asyncFaultDelivery e.1, .blockStart e.1, .blockSave e.1, .itineraryCopyIssue e.1, .serialisedReexecution e.1]
        ++ (e.2.copies.flatMap fun c => c.left.map fun g => Instr.itineraryCopyLanding e.1 c.id g)
        ++ e.2.reads.map fun r => .consumingReadComplete e.1 r.id)
    ++ ((t.blocks.filter fun r => s.awaits r.grid r.bid).flatMap fun r => (List.range 160).map fun c => .blockAdmission r.grid r.bid c)
    ++ (s.images.map fun x => .blockRestore x.block.grid x.block.bid)
    ++ (s.shadows.map fun x => .shadowRun x.grid x.bid)
    ++ (s.cores.flatMap fun (e : Nat × Core) => [.warpReadmission e.1, .matrixEntryStart e.1, .matrixEntryComplete e.1, .clusterStop e.1, .orderedOperationPerform (.pool e.1)])
    ++ (s.ordered.map fun o => .orderedOperationPerform o.point)
    ++ (s.aliasQ.map fun r => .aliasSectorWrite r.window)
    ++ (s.jobs.map fun j => .engineRingClaim j.id)
    ++ (s.ctxs.map fun (e : Nat × Ctx) => .hang e.1)
    ++ (s.platform.errors ++ s.platform.latent).map .scrub

/-- Events of the order service, the porter and the platform that may come next. -/
def State.podEvents (s : State) : List Instr :=
  [.timeSlice, .floorPublication, .pcSample, .counterLatch, .lanternEmit, .eventDelivery, .decideTimeout, .rollCallRetry, .rollCallFence,
    .joinerTimeout, .founding, .clockUnlockFence, .bindDelay, .rejoinAsk]
    ++ (s.hytur.tables.view.flatMap fun c => [.suspicion c, .retransmitGapTimeout c])
    ++ (s.hytur.cuts.map fun (e : Nat × Nat) => .retransmitGapTimeout e.1)
    ++ (s.queues.flatMap fun (e : Nat × Queue) => [.pacedPacketSend e.1, .rnrResend e.1, .retransmitTimeout e.1, .congestionPeriod e.1, .ackCoalescing e.1])
    ++ ((List.range 17).map .ptpSyncInterval)
    ++ [.powerGrant ((List.range grantees).map fun i => Config.freeChoice (s.fresh + 2 + i))]

/-- Turns of the chip's own that are no events: a step of bring-up, evictions of the snoop filters. -/
def State.ownTurns (s : State) : List Turn :=
  (if s.platform.boot = .rom || s.platform.boot = .firmware then [.bringUp true, .bringUp false] else [])
    ++ (distinct (s.cores.flatMap fun (e : Nat × Core) => e.2.l1.map (·.1))).map .filterEvict

/-- The turn that the free choice picks among those that may come next (assumption 7); a cycle that passes takes a tick of the pod
clock, more or less where its rate is corrected (R11, R278). -/
def State.chooseTurn (s : State) : Turn × State :=
  let f := Config.freeChoice s.fresh
  let g := Config.freeChoice (s.fresh + 1) % 1000
  let all := Turn.tick 1 (if g = 0 then 0 else if g = 1 then 2 else 1) :: s.nextIssues ++ s.blockEvents.map .event ++ s.podEvents.map .event ++ s.ownTurns
  (all.getD (f % all.length) (.tick 1 1), { s with fresh := s.fresh + 398 })

end Sys2Proof.Machine
end

