-- ==== Sys2Proof/Machine/Step.lean ====
section
/-!
DEFINITION. The step of the machine, and the placing of an instruction where it fetches next.
-/

namespace Sys2Proof.Machine

/-- One step: the turn at the head of the agenda, or, where none is given, a turn that the free choice picks. -/
def step (s : State) : Host.Outcome State Fault Refusal :=
  match s.agenda with
  | t :: r => { s with agenda := r }.turn t
  | [] => s.chooseTurn.2.turn s.chooseTurn.1

/-- The state with an instruction stored where the next step fetches (assumption 20): at the PC of the warp whose turn comes
next where its page can be fetched, otherwise in a context, a block and a warp set up for it. -/
def State.withFetchWord (s : State) (nbits w : Nat) : State :=
  let bytes := bytesOf 12 (w % 2 ^ nbits)
  match s.fetchPlace with
  | some (core, ctx, pc, pa) => s.placeAt core ctx pc pa bytes
  | none => s.placeFresh bytes

end Sys2Proof.Machine
end

