-- ==== Sys2Proof/Safety.lean ====
section
/-!
DEFINITION. The terms that claims use: an instruction issues, what an instruction of registers leaves, where results stand.
-/

namespace Sys2Proof.Machine

/-! ## An instruction issues -/

/-- How the issue of a fetched instruction begins (R21, R47). -/
def State.beginOf (s : State) (i : Instr) : Begin :=
  match i.view with
  | .long op e => s.begin op e (encLen e)
  | .short op f => s.begin op (f.toEnc (s.curControl && op.code < 128)) 4
  | .nopShort => s.begin .nop (({ scope := .lane, dst := 0, a := 0, b := 0 } : Short).toEnc false) 4
  | .event => .nobody

/-- The issuing warp issues `i` now, none of the faults before the effect arises (R47, R147), its registers are not in a
lookahead window (R135), and some lane takes part (R82). `cx` holds its member warps with their participating lanes. -/
def Issues (s : State) (i : Instr) (cx : Cx) : Prop :=
  ∃ t back, s.beginOf i = .go cx t back ∧ cx.some_ = true

/-- As `Issues`; `t` is the state in which the effect acts: the issue is counted, and a collective's lanes have left their rendezvous. -/
def IssuesAs (s : State) (i : Instr) (cx : Cx) (t : State) : Prop :=
  ∃ back, s.beginOf i = .go cx t back ∧ cx.some_ = true

/-- No WAIT of the warp is met and yet has lanes parked (R155). -/
def Warp.waitsTested (w : Warp) : Prop := ∀ n, n < 12 → (∃ q ∈ w.parks, q.place = .wait n) → w.waitDone n = false

/-- The lanes of the issue are live, below W, and parked nowhere (R127); no WAIT of their warps is met (R155). -/
def Cx.free (cx : Cx) (t : State) : Prop :=
  cx.W ≤ 64 ∧ ∀ p ∈ cx.parts, (t.warp? p.wid).isSome ∧ p.lanes &&& ~~~ p.sel = 0 ∧ p.sel &&& ~~~ (t.warpD p.wid).live = 0 ∧ p.sel &&& ~~~ allSet cx.W = 0 ∧
    (t.warpD p.wid).waitsTested ∧ ∀ q ∈ (t.warpD p.wid).parks, q.lanes &&& p.sel = 0

/-- No entry of the warp's loop stack ends at the instruction (R159). -/
def Cx.noLoopEnd (cx : Cx) (t : State) (wid : Nat) : Prop := ∀ x ∈ (t.warpD wid).loops, x.stop ≠ cx.pc

/-- Every lane of a set stands at an address. -/
def Stand (u : State) (wid : Nat) (lanes : Lanes) (a : Addr54) : Prop := ∀ l, inSet lanes l = true → (u.warpD wid).pc l = a

/-- The lanes of the issue complete the instruction (R159): those of a warp in which no loop ends there stand at the next one. -/
def Cx.movesOn (cx : Cx) (t u : State) : Prop :=
  cx.free t → (cx.parts.map (·.wid)).Nodup → ∀ p ∈ cx.parts, cx.noLoopEnd t p.wid → Stand u p.wid p.sel cx.next

/-- The participating lanes of the issue are parked at the instruction, in a place of which P holds (R127). -/
def Cx.parks (cx : Cx) (u : State) (P : Place → Prop) : Prop :=
  ∀ p ∈ cx.parts, p.lanes ≠ 0 → ∃ q ∈ (u.warpD p.wid).parks, q.lanes = p.lanes ∧ q.pc = cx.pc ∧ P q.place

/-! ## Taking an exception (R134, R164) -/

/-- A trap entry of an issue at a state goes through: the first member, p, is not in trap mode and runs no shadow block, nothing holds the
entry back (R164, R300), and the fault area entries can be written. `v` has the other members suspended with their entries written, `z` the
first member's entry, with record `r`. -/
structure TrapReady (cx : Cx) (at_ : State) (p : Part) (rest : List Part) (r : Rec) (v z : State) : Prop where
  parts : cx.parts = p :: rest
  other : ∀ q ∈ rest, q.wid ≠ p.wid
  frame : (at_.warpD p.wid).frame = none
  real  : (at_.block (at_.warpD p.wid).blk).kind ≠ .shadow ∧ (v.block (v.warpD p.wid).blk).kind ≠ .shadow
  page  : at_.trapHold (cx.parts.map (·.wid)) = none
  rest_ : at_.suspendMembers p.wid (rest.map fun q => (q.wid, [{ r with lanes := q.lanes }])) = some v
  entry : (v.flushWarp p.wid).writeEntry p.wid [{ r with lanes := p.lanes }] = some z

/-- The record of an issue (R271, R272), but for the lanes. -/
def Cx.rec_ (cx : Cx) (at_ : State) (code info : Nat) : Rec :=
  { code := code, info := info, pc := BitVec.ofNat 64 cx.pc.toNat, scope := scopeByte cx.e, members := at_.memberMask cx }

/-- The warp of p is in trap mode: its frame has the lanes' places once its results are delivered and its WAITs tested (R135), its live lanes stand at %tvec, unparked, with no
pin and an empty loop stack, and %fault names its first record; the other members are suspended. -/
structure TrapTaken (at_ : State) (p : Part) (rest : List Part) (v z u : State) : Prop where
  frame : ∃ f, (u.warpD p.wid).frame = some f ∧ let w := (v.flushWarp p.wid).warpD p.wid
    f.pcs = w.pcs ∧ f.parks = w.parks ∧ f.pin = w.pin ∧ f.loops = w.loops
  fresh : (u.warpD p.wid).parks = [] ∧ (u.warpD p.wid).pin = 0 ∧ (u.warpD p.wid).loops = []
  live  : (u.warpD p.wid).live = (at_.warpD p.wid).live ∧ (u.warpD p.wid).tvec = (at_.warpD p.wid).tvec
  stand : Stand u p.wid ((at_.warpD p.wid).live &&& allSet (v.block (v.warpD p.wid).blk).width) (BitVec.ofNat 54 (at_.warpD p.wid).tvec.toNat)
  fault : (u.warpD p.wid).fault = BitVec.ofNat 64 (v.chip * 2 ^ 54 + (v.ctx (v.block (v.warpD p.wid).blk).ctx).faultBase + p.wid * 0x2000 + 0x2C0)
  mem   : u.mem = z.mem
  rest_ : ∀ q ∈ rest, (u.warp? q.wid).isSome → (u.warpD q.wid).suspended = some p.wid

/-- A warp outside trap mode, of a block that runs no shadow, whose fault area entry takes records: `z` is the state with them written. -/
structure TrapOpen (at_ : State) (wid : Nat) (recs : List Rec) (z : State) : Prop where
  here  : (at_.warp? wid).isSome = true
  frame : (at_.warpD wid).frame = none
  real  : (at_.block (at_.warpD wid).blk).kind ≠ .shadow
  page  : at_.trapHold [wid] = none
  entry : (at_.flushWarp wid).writeEntry wid recs = some z

/-- A warp in trap mode after a fault at `at_` (R164): its frame has the lanes' places once its results are delivered (R135), its live lanes stand at %tvec with nothing parked,
no pin and an empty loop stack, %fault names its first record, and memory holds the entry. -/
structure TrapIn (at_ z u : State) (wid : Nat) : Prop where
  frame : ∃ f, (u.warpD wid).frame = some f ∧ let w := (at_.flushWarp wid).warpD wid
    f.pcs = w.pcs ∧ f.parks = w.parks ∧ f.pin = w.pin ∧ f.loops = w.loops
  fresh : (u.warpD wid).parks = [] ∧ (u.warpD wid).pin = 0 ∧ (u.warpD wid).loops = []
  live  : (u.warpD wid).live = (at_.warpD wid).live ∧ (u.warpD wid).tvec = (at_.warpD wid).tvec
  stand : Stand u wid ((at_.warpD wid).live &&& allSet (at_.block (at_.warpD wid).blk).width) (BitVec.ofNat 54 (at_.warpD wid).tvec.toNat)
  fault : (u.warpD wid).fault = BitVec.ofNat 64 (at_.chip * 2 ^ 54 + (at_.ctx (at_.block (at_.warpD wid).blk).ctx).faultBase + wid * 0x2000 + 0x2C0)
  mem   : u.mem = z.mem

/-! ## What is left as it was -/

/-- A warp without its place: PCs, parked groups, loop stack, clock, windows and the order of its issues. -/
def Warp.still (w : Warp) : Warp :=
  { w with pcs := [], pin := 0, parks := [], loops := [], lclk := 0, windows := [], pass := none, last := none, skid := 0, lastPc := 0 }

/-- A warp without its place, its registers and its draws. -/
def Warp.bare (w : Warp) : Warp := { w.still with v := [], s := [], k := [], draw := [] }

/-- A core without its counters. -/
def Core.still (c : Core) : Core := { c with counters := [] }

/-- A state without its warps, its cores, the number of issues, the model's counter of fresh numbers, and the errors of stored
words with the counts of those corrected. -/
def State.still (s : State) : State :=
  { s with warps := [], cores := [], issues := 0, fresh := 0, platform := { s.platform with errors := [], latent := [], corrected := [] } }

/-- Nothing but places of warps and counters of cores has changed: registers, memory, scratchpads, accumulators, barrier marks,
tables, queues, contexts and every other field are as before. -/
structure Calm (s u : State) : Prop where
  warps : ∀ wid, (u.warp? wid).map Warp.still = (s.warp? wid).map Warp.still
  cores : ∀ c, (u.core c).still = (s.core c).still
  rest  : u.still = s.still

/-- As `Calm`, but for the registers of warps, and %draw. -/
structure Quiet (s u : State) : Prop where
  warps : ∀ wid, (u.warp? wid).map Warp.bare = (s.warp? wid).map Warp.bare
  cores : ∀ c, (u.core c).still = (s.core c).still
  rest  : u.still = s.still

/-! ## Results -/

/-- Whether lane `l` of warp `wid` takes part in an issue (R82). -/
def Cx.takes (cx : Cx) (s : State) (wid l : Nat) : Bool :=
  l < 64 && l < cx.W && inSet (s.warpD wid).live l && cx.parts.any fun p => p.wid = wid && inSet p.lanes l

/-- Whether a warp is a member of an issue. -/
def Cx.member (cx : Cx) (wid : Nat) : Bool := cx.parts.any fun p => p.wid = wid

/-- How many members of an issue hold a lane: one, where its warp is a member once. -/
def Cx.times (cx : Cx) (wid l : Nat) : Nat := (cx.parts.filter fun p => p.wid = wid && l < cx.W && inSet p.lanes l).length

/-- Registers d to d + n - 1 of every lane that takes part hold their values (R82, R83), every other lane and register is as before, and
each lane of the issue has taken `draws` draws (R69). -/
structure LanesDone (cx : Cx) (s u : State) (d n draws : Nat) (f : Warp → Nat → Nat → Word) : Prop where
  value : ∀ wid l i, i < n → cx.takes s wid l = true → (u.warpD wid).vget (d + i) l = f (s.warpD wid) l i
  vrest : ∀ wid r l, l < 64 → (d ≤ r → r < d + n → cx.takes s wid l = false) → (u.warpD wid).vget r l = (s.warpD wid).vget r l
  srest : ∀ wid r, (u.warpD wid).sget r = (s.warpD wid).sget r
  krest : ∀ wid r, (u.warpD wid).kget r = (s.warpD wid).kget r
  draw  : ∀ wid l, l < 64 → (s.warp? wid).isSome → (u.warpD wid).draw.get 0 l = (s.warpD wid).draw.get 0 l + BitVec.ofNat 32 (draws * cx.times wid l)
  quiet : Quiet s u

/-- As `LanesDone`, for one register and no draw. -/
abbrev VecDone (cx : Cx) (s u : State) (d : Nat) (f : Warp → Nat → Word) : Prop := LanesDone cx s u d 1 0 fun w l _ => f w l

/-- The results of a long-latency instruction (R135): every member has a lookahead window with its result, ready to be delivered;
no register has changed, and each lane of the issue has taken `draws` draws. -/
structure Pending (cx : Cx) (s u : State) (draws : Nat) (f : Part → List RegWrite) : Prop where
  window : ∀ p ∈ cx.parts, ∃ x ∈ (u.warpD p.wid).windows, x.ready = true ∧ x.done = false ∧ x.lanes = p.lanes ∧ x.writes = f p
  vrest : ∀ wid r l, (u.warpD wid).vget r l = (s.warpD wid).vget r l
  srest : ∀ wid r, (u.warpD wid).sget r = (s.warpD wid).sget r
  krest : ∀ wid r, (u.warpD wid).kget r = (s.warpD wid).kget r
  draw  : ∀ wid l, l < 64 → (s.warp? wid).isSome → (u.warpD wid).draw.get 0 l = (s.warpD wid).draw.get 0 l + BitVec.ofNat 32 (draws * cx.times wid l)
  quiet : Quiet s u

/-- Scalar register d of every member warp holds its value; every other register is as before. -/
structure ScalDone (cx : Cx) (s u : State) (d : Nat) (f : Warp → DWord) : Prop where
  value : ∀ wid, cx.member wid = true → (s.warp? wid).isSome → (u.warpD wid).sget d = f (s.warpD wid)
  srest : ∀ wid r, (r = d → cx.member wid = false) → (u.warpD wid).sget r = (s.warpD wid).sget r
  vrest : ∀ wid r l, (u.warpD wid).vget r l = (s.warpD wid).vget r l
  krest : ∀ wid r, (u.warpD wid).kget r = (s.warpD wid).kget r
  draw  : ∀ wid, (u.warpD wid).draw = (s.warpD wid).draw
  quiet : Quiet s u

/-- Bit l of mask register d of every lane that takes part holds its value, and every other bit below W is as before; so is every
other register. -/
structure MaskDone (cx : Cx) (s u : State) (d : Nat) (f : Warp → Nat → Bool) : Prop where
  value : ∀ wid l, cx.takes s wid l = true → inSet ((u.warpD wid).kget d) l = f (s.warpD wid) l
  bits  : ∀ wid l, l < cx.W → l < 64 → cx.takes s wid l = false → inSet ((u.warpD wid).kget d) l = inSet ((s.warpD wid).kget d) l
  krest : ∀ wid r, (r = d → cx.member wid = false) → (u.warpD wid).kget r = (s.warpD wid).kget r
  vrest : ∀ wid r l, (u.warpD wid).vget r l = (s.warpD wid).vget r l
  srest : ∀ wid r, (u.warpD wid).sget r = (s.warpD wid).sget r
  draw  : ∀ wid, (u.warpD wid).draw = (s.warpD wid).draw
  quiet : Quiet s u

/-- `exec` answers a next state for `i` at `s`, of which P holds. -/
def Completes (s : State) (i : Instr) (P : State → Prop) : Prop := ∃ u, exec i s = .next u ∧ P u

/-- The result of an instruction of classes 0 and 1 (R86): once for S = 1, otherwise in each lane that takes part. -/
def FormDone (cx : Cx) (s u : State) (scalar : DWord) (lane : Warp → Nat → Word) : Prop :=
  if cx.S then ScalDone cx s u cx.e.dst.toNat fun _ => scalar else VecDone cx s u cx.e.dst.toNat lane

/-! ## Memory -/

/-- Global memory holds nothing back: no alias request waits (R318), no exact sum is open and no L1 has an update-only line (R182, R183), no
word has an uncorrectable error. -/
def State.plainMem (t : State) : Prop :=
  t.aliasQ = [] ∧ (∀ h, (t.home h).slots = [] ∧ (t.home h).spill = []) ∧ (∀ c, (t.core c).exact = [] ∧ ∀ x ∈ (t.core c).l1, x.2.ops = []) ∧ t.platform.errors = []

/-- What a queue sends (R320): a packet between the GIDs of the two ends of its port, a data packet ECT(0). -/
def State.wireOf (s : State) (q : Nat) (o : Nat × Packet) : Out :=
  let x := s.queue q
  let host : Bool := x.port = 16
  let gid := fun (c : Nat) => s.platform.config.podPrefix ++ BitVec.ofNat 64 c
  .packet q o.1 { o.2 with ect := o.1 ≤ 6, src := if host then s.platform.config.portGid else gid s.chip, dst := if host then x.gid else gid x.chip }

/-- `u` has answered on a queue of `s` (R338, R339): an answer without payload leaves at once; one that an arrival with an unwritten record holds, or
that has a payload, or that stands behind one of those, waits. -/
def State.answersOn (s u : State) (q : Nat) (o : Nat × Packet) : Prop :=
  let x := s.queue q
  let held := fun (e : Nat × Packet) => ∃ j, s.jobs.find? (fun j => j.queue = some q && j.inc = x.inc && j.arrival) = some j ∧ psnSub e.2.psn.toNat j.psn < 2 ^ 23
  let waits : Prop := u.outbox = s.outbox ∧ (u.queue q).unsent = x.unsent ++ [o]
  ((∀ e ∈ x.unsent, held e) → ¬ held o → packetSize o.1 o.2 = 0 → u.outbox = s.outbox ++ [s.wireOf q o] ∧ (u.queue q).unsent = x.unsent) ∧
  ((∀ e ∈ x.unsent, held e) → held o ∨ packetSize o.1 o.2 ≠ 0 → waits) ∧
  ((∃ e l r, x.unsent = l ++ e :: r ∧ (∀ f ∈ l, held f) ∧ ¬ held e ∧ packetSize e.1 e.2 ≠ 0) → waits)

/-- `u` has placed a 64-byte answer on a well-known queue pair of `s` (R322), one that is not in ERROR. -/
def State.answersHost (s u : State) (k : Nat) (m : Msg) : Prop :=
  (s.queue (256 + k)).st ≠ .error → ∃ c, (u.queue (256 + k)).cmds = (s.queue (256 + k)).cmds ++ [c] ∧ c.kind = .send ∧ c.forward = true ∧ c.len = 64 ∧ c.data = bytesOf 64 m.toNat

/-- No watchpoint is set (R408), and the block's context neither runs in D-mode nor has the ordering-dependence detector on (R265). -/
def State.unwatched (t : State) (blk : Nat) : Prop :=
  (∀ c ∈ t.ctxs, c.2.watches = []) ∧ (t.ctx (t.block blk).ctx).dmode = false ∧ (t.ctx (t.block blk).ctx).detect = false

/-- The place where a lane's access lands, none where it faults or waits for a migration (R230). -/
def State.placeOf (t : State) (op : MemOp) (a : LaneAcc) : Option Loc := match t.checkLane op a with | .ok l => some l | _ => none

/-- Every access of an issue passes R230, and every granule that it touches is present (R178). -/
def Reaches (t : State) (op : MemOp) : Prop := ∀ a ∈ op.lanes, ∃ l, t.placeOf op a = some l ∧ t.locPresent l = true

/-- The bytes at a place, low first. -/
def State.bytesAt (t : State) (n : Nat) (l : Option Loc) : Nat := match l with | some l => numOf (t.readLoc n l).1 | none => 0

/-- Whether n bytes at a place cover a byte of global memory. -/
def coversGlb (n pa : Nat) (l : Option Loc) : Prop := ∃ x, l = some (.glb x) ∧ x ≤ pa ∧ pa < x + n

/-- Whether a place covers a byte of a core's scratchpad. -/
def coversSpad (c o : Nat) (l : Option Loc) : Prop := ∃ ws, l = some (.spad c ws) ∧ ∃ w ∈ ws, w ≤ o ∧ o < w + 4

/-- Whether n bytes at a place cover a byte of the die scratchpads. -/
def coversDie (n a : Nat) (l : Option Loc) : Prop := ∃ x, l = some (.die x) ∧ x ≤ a ∧ a < x + n

/-- Two places of n bytes do not meet. -/
def Apart (n : Nat) (l k : Option Loc) : Prop :=
  (∀ pa, ¬ (coversGlb n pa l ∧ coversGlb n pa k)) ∧ (∀ c o, ¬ (coversSpad c o l ∧ coversSpad c o k)) ∧ ∀ a, ¬ (coversDie n a l ∧ coversDie n a k)

/-- Every byte outside n bytes at each of some places reads as before: global memory, core scratchpads, die scratchpads. -/
structure Untouched (s u : State) (n : Nat) (ls : List (Option Loc)) : Prop where
  glb  : ∀ pa, (∀ l ∈ ls, ¬ coversGlb n pa l) → u.readByte pa = s.readByte pa
  spad : ∀ c o, (∀ l ∈ ls, ¬ coversSpad c o l) → Map.get 0 (u.core c).spad o = Map.get 0 (s.core c).spad o
  die  : ∀ a, (∀ l ∈ ls, ¬ coversDie n a l) → Map.get 0 u.dieSpad a = Map.get 0 s.dieSpad a

/-- Every register of every warp is as before. -/
structure RegsSame (s u : State) : Prop where
  vreg : ∀ wid r l, (u.warpD wid).vget r l = (s.warpD wid).vget r l
  sreg : ∀ wid r, (u.warpD wid).sget r = (s.warpD wid).sget r
  kreg : ∀ wid r, (u.warpD wid).kget r = (s.warpD wid).kget r

/-- A member's window with a result that has come (R135). -/
def Has (u : State) (p : Part) (ws : List RegWrite) : Prop :=
  ∃ x ∈ (u.warpD p.wid).windows, x.ready = true ∧ x.done = false ∧ x.lanes = p.lanes ∧ x.writes = ws

/-- ATOM's new value (R248). -/
def atomValue (code lane : Nat) (pc : Addr54) (old b c : Nat) : Nat :=
  match code with
  | 0 => (old + b) % 2 ^ 32
  | 1 | 6 => b
  | 2 | 7 => if old = b then c else old
  | 4 => ((ExactSum.empty.add (decodeVal .fp32 old)).add (decodeVal .fp32 b)).read.toNat
  | 5 => (old + b) % 2 ^ 64
  | _ => (fadd32 lane pc (BitVec.ofNat 32 old) (BitVec.ofNat 32 b)).toNat

/-- MRED's new value (R248). -/
def mredValue (code lane : Nat) (pc : Addr54) (old b : Word) : Word :=
  match code with
  | 0 => old + b
  | 1 => old &&& b
  | 2 => old ||| b
  | 3 => old ^^^ b
  | 4 => if b.toInt < old.toInt then b else old
  | 5 => if old.toInt < b.toInt then b else old
  | _ => fadd32 lane pc old b

/-- A D-mode request stands in its partition's queue by its key: behind those whose keys are not larger (R197, R376). -/
def JoinedByKey (old new : List Waiter) (x : Waiter) : Prop :=
  ∃ pre post, old = pre ++ post ∧ new = pre ++ x :: post ∧ (∀ y ∈ pre, y.clock.toNat < x.clock.toNat ∨ (y.clock = x.clock ∧ y.index ≤ x.index)) ∧
    ∀ y ∈ post.head?, x.clock.toNat < y.clock.toNat ∨ (x.clock = y.clock ∧ x.index < y.index)

/-- The published floor of a D-mode block's grid is above none of some clocks (R375, R376). -/
def State.floorHolds (s : State) (b : Block) (clocks : List DWord) : Prop :=
  (s.ctx b.ctx).dmode = true ∧ b.alone = false ∧ ∀ c ∈ clocks, s.floorAbove b c = false

/-- The handle of a tile as it stands (R192). -/
def Block.handleNow (b : Block) (pool t : Nat) : Nat := pool * 2 ^ 29 + t * 2 ^ 18 + (b.tile (tileKey pool t)).gen * 2 ^ 12

/-- No block of a core but `blk` at partition `part` has a request that its pool unit can serve (R197, R376). -/
def State.poolIdle (s : State) (core blk part : Nat) : Prop :=
  ∀ e ∈ s.blocks, e.2.core = core → ∀ y ∈ e.2.waiters, (e.1 = blk ∧ y.1 = part) ∨ y.2 = [] ∨ e.2.free.get [] y.1 = [] ∨
    (e.2.alone = false ∧ ∀ z ∈ y.2.head?, s.floorAbove e.2 z.clock = false)

/-- How many of some operands consume a read of a tile (R213). -/
def takesOf (os : List MtxOperand) (k : Nat) : Nat :=
  (os.filter fun o => match o.cons with | some (p, t, _) => tileKey p t = k | none => false).length

/-- Every consuming operand finds a read of its tile left (R193, R213). -/
def Block.grantsAll (b : Block) (os : List MtxOperand) : Prop :=
  ∀ o ∈ os, ∀ p t g, o.cons = some (p, t, g) → b.overread p t (some g) = false ∧ takesOf os (tileKey p t) ≤ (b.tile (tileKey p t)).count

/-- An entry's read of an operand: none where it consumes none, otherwise one that is in flight at the operand's tile (R193, R213). -/
def readsOperand (u : Block) (o : Option MtxOperand) (r : Option Nat) : Prop :=
  match o.bind (·.cons) with
  | none => r = none
  | some (p, t, _) => ∃ n, r = some n ∧ ∃ y ∈ u.reads, y.id = n ∧ y.tile = tileKey p t

/-- The register files of a block fit its record: distinct names stand for distinct registers of each warp's budget (R15). -/
def Block.budgeted (b : Block) : Prop := 0 < b.width ∧ b.width ≤ 64 ∧ ∀ i, b.xcount ≤ budgetOf b.record i ∧ budgetOf b.record i ≤ 512

/-- The registers, the draws and %tvec of a warp are those that a block image at `base` holds in memory (R305, R307). -/
structure ImageRegs (s : State) (base : Nat) (b : Block) (index : Nat) (w : Warp) : Prop where
  sreg : ∀ i, i < 64 → w.sget i = BitVec.ofNat 64 (s.readNum (base + 0x1000 + 0x2000 * index + 0x400 + 8 * i) 8)
  kreg : ∀ i, i < 12 → w.kget i &&& allSet b.width = BitVec.ofNat 64 (s.readNum (base + 0x1000 + 0x2000 * index + 0x600 + 8 * i) 8) &&& allSet b.width
  vreg : ∀ n p l, b.physReg index n = some p → l < b.width → w.vget n l = BitVec.ofNat 32 (s.readNum (base + b.regOff index + 4 * (p * b.width + l)) 4)
  tvec : w.tvec = BitVec.ofNat 64 (s.readNum (base + 0x1000 + 0x2000 * index + 0x740) 8)
  draw : ∀ l, l < 64 → w.draw.get 0 l = BitVec.ofNat 32 (s.readNum (base + 0x1000 + 0x2000 * index + 0x750 + 4 * l) 4)

/-- Nothing of a block's warps is under way: no result, no fence, no ordered operation, no started matrix entry, no return (R303, R378). -/
structure State.saveReady (s : State) (blk : Nat) (b : Block) : Prop where
  warps   : ∀ e ∈ s.warps, e.2.blk = blk → e.2.windows = [] ∧ e.2.fence = none ∧ e.2.waits = [] ∧ e.2.offcore = none ∧ e.2.index < b.wids.length ∧ (e.2.v.map (·.1)).Nodup
  places  : (s.warps.map (·.1)).Nodup ∧ ∀ e ∈ s.warps, ∀ f ∈ s.warps, e.2.blk = blk → f.2.blk = blk → e.2.index = f.2.index → e = f
  ordered : (∀ o ∈ s.ordered, o.blk ≠ blk) ∧ ∀ op ∈ s.parkedOps, op.blk = blk → s.opOrdered op = false
  engine  : ∀ e ∈ (s.core b.core).mq.head?, e.blk = blk → e.started = false
  line    : (s.core b.core).readmit = []

/-- A saved warp comes back as it stands in its image (R304): nothing woke it, and it waits at no barrier object, which it would test again. -/
def Warp.undisturbed (w : Warp) : Prop :=
  w.offcore = none ∧ ∀ p ∈ w.parks ++ (match w.frame with | some f => f.parks | none => []), p.woken = none ∧ ∀ c o t own sc m ws, p.place ≠ .mbwait c o t own sc m ws

/-- A barrier object after the completion test (R244). -/
def barTest (x : BarObj) : BarObj :=
  if x.left = 0 ∧ x.due = 0 then { epoch := (x.epoch + 1) % 4096, need := x.need, left := if x.need = 0 ∨ 4096 < x.need then 4096 else x.need, due := 0 } else x

/-! ## Integers (R88) -/

/-- A word of width w as an integer: unsigned where u says so. -/
def rdInt (u : Bool) {w : Nat} (x : BitVec w) : Int := if u then (x.toNat : Int) else x.toInt

/-- An exact result brought to width w (R88): clamped to the range of the type, or modulo 2^w. -/
def fit (w : Nat) (sat u : Bool) (t : Int) : BitVec w :=
  if sat then
    if u then BitVec.ofInt w (min (max t 0) (2 ^ w - 1)) else BitVec.ofInt w (min (max t (-(2 ^ (w - 1)))) (2 ^ (w - 1) - 1))
  else BitVec.ofInt w t

/-- ICMP's conditions (R87). -/
def intHolds (code : Nat) (a b : Int) : Prop :=
  match code with
  | 0 => a = b | 1 => a ≠ b | 2 => a < b | 3 => a ≤ b | 4 => a > b | _ => a ≥ b

/-! ## Bits (R90) -/

/-- Length of the field that b names in a word of width w: 0 where it is empty (R90). -/
def fieldLen (w : Nat) (b : BitVec w) : Nat :=
  let pos := b.toNat % 256
  let len := b.toNat / 256 % 256
  if len = 0 ∨ w ≤ pos then 0 else min (pos + len) w - pos

/-- Bit i of BFE's result (R90): the field's bits, then 0, or the field's top bit under .s. -/
def bfeBit (w : Nat) (sx : Bool) (a b : BitVec w) (i : Nat) : Bool :=
  let pos := b.toNat % 256
  let e := fieldLen w b
  if i < e then a.getLsbD (pos + i) else sx && e != 0 && a.getLsbD (pos + e - 1)

/-- Bit i of BFI's result (R90): the low bits of a inside the field, c outside. -/
def bfiBit (w : Nat) (a b c : BitVec w) (i : Nat) : Bool :=
  let pos := b.toNat % 256
  if pos ≤ i ∧ i < pos + fieldLen w b then a.getLsbD (i - pos) else c.getLsbD i

/-- Bit i of BPERM's result (R90): of the byte that its nibble of b selects, or that byte's bit 7. -/
def bpermBit (w : Nat) (a b : BitVec w) (i : Nat) : Bool :=
  let sel := b.toNat / 2 ^ (4 * (i / 8)) % 16
  let j := sel % 8
  decide (j < w / 8) && (if 8 ≤ sel then a.getLsbD (8 * j + 7) else a.getLsbD (8 * j + i % 8))

/-! ## Floating point by codes (R53, R91 to R95) -/

/-- Exponent field of a code. -/
def codeExp (f : Fmt) (c : Nat) : Nat := c / 2 ^ f.fbits % 2 ^ f.ebits

/-- Fraction field of a code. -/
def codeFrac (f : Fmt) (c : Nat) : Nat := c % 2 ^ f.fbits

/-- Sign bit of a code. -/
def codeNeg (f : Fmt) (c : Nat) : Bool := c / 2 ^ (f.bits - 1) % 2 = 1

/-- Magnitude bits of a code. -/
def codeMag (f : Fmt) (c : Nat) : Nat := c % 2 ^ (f.bits - 1)

/-- The element that SHFL reads for element e of n (R111). -/
def shflFrom (mode n e b : Nat) : Nat :=
  match mode with
  | 0 => b
  | 1 => (e + b) % n
  | 2 => Nat.xor e b
  | _ =>
    let size := 2 ^ min (b / 2 ^ 8 % 32) 11
    let step : Int := if b % 256 < 128 then (b % 256 : Nat) else (b % 256 : Nat) - 256
    e / size * size + (((e % size : Nat) + step) % size).toNat

/-- Whether a code of FP32, FP16 or BF16 is a NaN (R53). -/
def codeNan (f : Fmt) (c : Nat) : Bool := codeExp f c = 2 ^ f.ebits - 1 && codeFrac f c != 0

/-- A NaN's code with its quiet bit set (R73). -/
def codeQuiet (f : Fmt) (c : Nat) : Nat := if codeFrac f c / 2 ^ (f.fbits - 1) = 1 then c else c + 2 ^ (f.fbits - 1)

/-- A code as .ftz reads it (R71): a subnormal is a zero of its sign. -/
def codeIn (f : Fmt) (ftz : Bool) (c : Nat) : Nat := if ftz && f = .fp32 && codeExp f c = 0 then c - codeMag f c else c

/-- Place of a code that is no NaN in the order of FMIN and FMAX (R93): −0 below +0. -/
def codeKey (f : Fmt) (c : Nat) : Int := if codeNeg f c then -(codeMag f c : Int) - 1 else codeMag f c

/-- Place of a code that is no NaN in the order of FCMP (R94): +0 and −0 are equal. -/
def codeOrd (f : Fmt) (c : Nat) : Int := if codeNeg f c then -(codeMag f c : Int) else codeMag f c

/-- FMIN or FMAX of two codes (R93). -/
def codeMinMax (larger : Bool) (f : Fmt) (ftz : Bool) (a b : Nat) : Nat :=
  let x := codeIn f ftz a
  let y := codeIn f ftz b
  if codeNan f x then codeQuiet f x
  else if codeNan f y then codeQuiet f y
  else if codeKey f x ≤ codeKey f y then (if larger then y else x) else (if larger then x else y)

/-- FABS or FNEG of a code (R93). -/
def codeSign (neg : Bool) (f : Fmt) (ftz : Bool) (a : Nat) : Nat :=
  let x := codeIn f ftz a
  if codeNan f x then codeQuiet f x
  else if codeNeg f x = false && neg then x + 2 ^ (f.bits - 1)
  else codeMag f x

/-- FCLASS's mask of a code (R95). -/
def codeClass (f : Fmt) (ftz : Bool) (a : Nat) : Nat :=
  let x := codeIn f ftz a
  let neg := codeNeg f x
  2 ^ (if codeNan f x then (if codeFrac f x / 2 ^ (f.fbits - 1) = 1 then 9 else 8)
    else if codeExp f x = 2 ^ f.ebits - 1 then (if neg then 0 else 7)
    else if codeMag f x = 0 then (if neg then 3 else 4)
    else if codeExp f x = 0 then (if neg then 2 else 5)
    else (if neg then 1 else 6))

/-- FCMP's conditions (R91, R94). -/
def codeCond (code : Nat) (ftz : Bool) (a b : Nat) : Bool :=
  let x := codeIn .fp32 ftz a
  let y := codeIn .fp32 ftz b
  let un := codeNan .fp32 x || codeNan .fp32 y
  let l := codeOrd .fp32 x
  let r := codeOrd .fp32 y
  match code with
  | 0 => !un && decide (l = r)
  | 1 => un || decide (l ≠ r)
  | 2 => !un && decide (l < r)
  | 3 => !un && decide (l ≤ r)
  | 4 => !un && decide (l > r)
  | 5 => !un && decide (l ≥ r)
  | 6 => !un
  | _ => un

/-- A function of codes applied to a register: once for FP32, otherwise to each half (R91). -/
def byElem (f : Fmt) (g : Nat → Nat → Nat) (x y : Word) : Word :=
  if f = .fp32 then BitVec.ofNat 32 (g x.toNat y.toNat)
  else BitVec.ofNat 32 (g (x.toNat % 2 ^ 16) (y.toNat % 2 ^ 16) + 2 ^ 16 * g (x.toNat / 2 ^ 16) (y.toNat / 2 ^ 16))

end Sys2Proof.Machine
end

