-- ==== Sys2Proof/Certificates/Slice0/Obligations.lean ====
section
/-!
DEFINITION. The statements for the provers.
-/

open Sys2Proof Sys2Proof.Machine

/-! ## Registers: classes 0, 1, 5 and 6 -/

/-- R88: what each integer instruction computes, in every lane that takes part or once for S = 1: the exact result of the rule's table,
wrapped or clamped (`fit`); ICMP and SEL by their conditions. Everything but the destination and the warps' places is as before.
R87 gives IABS and INEG no .u and LEA neither .sat nor .u. -/
def Obligations.IntegerInstructions : Prop :=
  ∀ (e : Enc) (f : Short) (s : State) (cx : Cx),
    let sat : Bool := cx.m / 16 % 2 = 1
    let u : Bool := cx.m / 8 % 2 = 1
    let a := fun (w : Warp) l => w.vget cx.e.a.toNat l
    let sa := cx.sval s cx.e.a.toNat
    (∀ x ∈ ([(.iadd e, fun _ a b => a + b), (.iaddF32 f, fun _ a b => a + b), (.isub e, fun _ a b => a - b), (.isubF32 f, fun _ a b => a - b),
        (.imul e, fun _ a b => a * b), (.imulF32 f, fun _ a b => a * b), (.imulh e, fun w a b => a * b / 2 ^ w),
        (.imin e, fun _ a b => min a b), (.iminF32 f, fun _ a b => min a b), (.imax e, fun _ a b => max a b), (.imaxF32 f, fun _ a b => max a b)]
        : List (Instr × (Nat → Int → Int → Int))), Issues s x.1 cx →
      Completes s x.1 fun t => FormDone cx s t (fit 64 sat u (x.2 64 (rdInt u sa) (rdInt u (cx.sB s))))
        fun w l => fit 32 sat u (x.2 32 (rdInt u (a w l)) (rdInt u (cx.vB w l)))) ∧
    (Issues s (.imad e) cx → Completes s (.imad e) fun t =>
      FormDone cx s t (fit 64 sat u (rdInt u sa * rdInt u (cx.sval s cx.e.b.toNat) + rdInt u (cx.sC s)))
        fun w l => fit 32 sat u (rdInt u (a w l) * rdInt u (w.vget cx.e.b.toNat l) + rdInt u (cx.vC w l))) ∧
    (∀ x ∈ ([(.iabs e, fun a => (a.natAbs : Int)), (.iabsF32 f, fun a => (a.natAbs : Int)), (.ineg e, fun a => -a), (.inegF32 f, fun a => -a)] : List (Instr × (Int → Int))),
      Issues s x.1 cx → u = false → Completes s x.1 fun t => FormDone cx s t (fit 64 sat false (x.2 sa.toInt)) fun w l => fit 32 sat false (x.2 (a w l).toInt)) ∧
    (Issues s (.lea e) cx → Completes s (.lea e) fun t =>
      FormDone cx s t (BitVec.ofInt 64 (sa.toInt + (cx.sB s).toInt * 2 ^ (cx.m % 8))) fun w l => BitVec.ofInt 32 ((a w l).toInt + (cx.vB w l).toInt * 2 ^ (cx.m % 8))) ∧
    (Issues s (.icmp e) cx → ∃ (c : Warp → Nat → Bool) (d : Bool),
      (∀ w l, c w l = true ↔ intHolds (cx.m % 8) (rdInt u (a w l)) (rdInt u (cx.vB w l))) ∧ (d = true ↔ intHolds (cx.m % 8) (rdInt u sa) (rdInt u (cx.sB s))) ∧
      Completes s (.icmp e) fun t => if cx.S then ScalDone cx s t cx.e.dst.toNat fun _ => if d then 1 else 0 else MaskDone cx s t cx.e.dst.toNat c) ∧
    (Issues s (.sel e) cx → Completes s (.sel e) fun t => FormDone cx s t (if cx.sval s cx.e.c.toNat ≠ 0 then sa else cx.sB s)
      fun w l => if inSet (w.kget cx.e.c.toNat) l then a w l else cx.vB w l)

/-- R90: what each bit instruction computes, by bits where the rule speaks of bits. -/
def Obligations.BitInstructions : Prop :=
  ∀ (e : Enc) (f : Short) (s : State) (cx : Cx),
    let a := fun (w : Warp) l => w.vget cx.e.a.toNat l
    let sa := cx.sval s cx.e.a.toNat
    (∀ x ∈ ([(.and e, fun _ a b => a &&& b), (.andF32 f, fun _ a b => a &&& b), (.or e, fun _ a b => a ||| b), (.orF32 f, fun _ a b => a ||| b),
        (.xor e, fun _ a b => a ^^^ b), (.xorF32 f, fun _ a b => a ^^^ b), (.andn e, fun _ a b => a &&& ~~~ b), (.andnF32 f, fun _ a b => a &&& ~~~ b),
        (.shl e, fun w a b => BitVec.ofNat w (a.toNat * 2 ^ b.toNat)), (.shlF32 f, fun w a b => BitVec.ofNat w (a.toNat * 2 ^ b.toNat)),
        (.shr e, fun w a b => BitVec.ofNat w (a.toNat / 2 ^ b.toNat)), (.shrF32 f, fun w a b => BitVec.ofNat w (a.toNat / 2 ^ b.toNat)),
        (.sar e, fun w a b => BitVec.ofInt w (a.toInt / 2 ^ min b.toNat (w - 1))), (.sarF32 f, fun w a b => BitVec.ofInt w (a.toInt / 2 ^ min b.toNat (w - 1))),
        (.rotl e, fun w a b => a.rotateLeft (b.toNat % w))] : List (Instr × ((w : Nat) → BitVec w → BitVec w → BitVec w))),
      Issues s x.1 cx → Completes s x.1 fun t => FormDone cx s t (x.2 64 sa (cx.sB s)) fun w l => x.2 32 (a w l) (cx.vB w l)) ∧
    (∀ x ∈ ([(.not e, fun _ a => ~~~ a), (.notF32 f, fun _ a => ~~~ a), (.popc e, fun w a => BitVec.ofNat w ((List.range w).filter a.getLsbD).length),
        (.clz e, fun w a => BitVec.ofNat w (((List.range w).find? a.getMsbD).getD w)), (.ctz e, fun w a => BitVec.ofNat w (((List.range w).find? a.getLsbD).getD w)),
        (.brev e, fun _ a => a.reverse)] : List (Instr × ((w : Nat) → BitVec w → BitVec w))),
      Issues s x.1 cx → Completes s x.1 fun t => FormDone cx s t (x.2 64 sa) fun w l => x.2 32 (a w l)) ∧
    (∀ x ∈ ([(.bfe e, fun w a b => bfeBit w (cx.m / 16 % 2 = 1) a b), (.bperm e, fun w a b => bpermBit w a b)] : List (Instr × ((w : Nat) → BitVec w → BitVec w → Nat → Bool))),
      Issues s x.1 cx → ∃ g : (w : Nat) → BitVec w → BitVec w → BitVec w,
        (∀ a b i, i < 32 → (g 32 a b).getLsbD i = x.2 32 a b i) ∧ (∀ a b i, i < 64 → (g 64 a b).getLsbD i = x.2 64 a b i) ∧
        Completes s x.1 fun t => FormDone cx s t (g 64 sa (cx.sB s)) fun w l => g 32 (a w l) (cx.vB w l)) ∧
    (Issues s (.bfi e) cx → ∃ g : (w : Nat) → BitVec w → BitVec w → BitVec w → BitVec w,
      (∀ a b c i, i < 32 → (g 32 a b c).getLsbD i = bfiBit 32 a b c i) ∧ (∀ a b c i, i < 64 → (g 64 a b c).getLsbD i = bfiBit 64 a b c i) ∧
      Completes s (.bfi e) fun t => FormDone cx s t (g 64 sa (cx.sB s) (cx.sval s cx.e.c.toNat)) fun w l => g 32 (a w l) (cx.vB w l) (w.vget cx.e.c.toNat l))

/-- R109: the mask instructions, in each member warp. R109 gives KMOV the directions 0, 1 and 2. -/
def Obligations.MaskInstructions : Prop :=
  ∀ (e : Enc) (f : Short) (s : State) (cx : Cx),
    let ka := fun (w : Warp) => inSet (w.kget cx.e.a.toNat)
    let kb := fun (w : Warp) => inSet (w.kget cx.e.b.toNat)
    let d := cx.e.dst.toNat
    (∀ x ∈ ([(.kand e, fun a b => a && b), (.kandF32 f, fun a b => a && b), (.kor e, fun a b => a || b), (.korF32 f, fun a b => a || b),
        (.kxor e, fun a b => a != b), (.kxorF32 f, fun a b => a != b), (.knot e, fun a _ => !a), (.knotF32 f, fun a _ => !a), (.kmovF32 f, fun a _ => a)]
        : List (Instr × (Bool → Bool → Bool))),
      Issues s x.1 cx → Completes s x.1 fun t => MaskDone cx s t d fun w l => x.2 (ka w l) (kb w l)) ∧
    (Issues s (.kmov e) cx →
      (cx.m % 4 = 0 → Completes s (.kmov e) fun t => MaskDone cx s t d fun w l => ka w l) ∧
      (cx.m % 4 = 1 → Completes s (.kmov e) fun t => ScalDone cx s t d fun w => w.kget cx.e.a.toNat &&& BitVec.ofNat 64 (2 ^ cx.W - 1)) ∧
      (cx.m % 4 = 2 → Completes s (.kmov e) fun t => MaskDone cx s t d fun _ l => inSet (cx.sval s cx.e.a.toNat) l)) ∧
    (Issues s (.kpop e) cx → Completes s (.kpop e) fun t => ScalDone cx s t d fun w => BitVec.ofNat 64 ((List.range cx.W).filter (ka w)).length) ∧
    (Issues s (.kfirst e) cx → Completes s (.kfirst e) fun t => ScalDone cx s t d fun w => BitVec.ofNat 64 (((List.range cx.W).find? (ka w)).getD 64))

/-- R117, R118: MOV in its 32-bit, .b64 and scalar forms, MOVI in its three, V2S and S2V. V2S reads its lane whether or not it takes
part. -/
def Obligations.Moves : Prop :=
  ∀ (e : Enc) (s : State) (cx : Cx),
    let d := cx.e.dst.toNat
    let a := cx.e.a.toNat
    let x := cx.lit.getD 0
    (Issues s (.mov e) cx →
      (cx.S = false → cx.m % 2 = 0 → Completes s (.mov e) fun t => VecDone cx s t d fun w l => w.vget a l) ∧
      (cx.S = false → cx.m % 2 = 1 → Completes s (.mov e) fun t => LanesDone cx s t d 2 0 fun w l i => w.vget (a + i) l) ∧
      (cx.S = true → Completes s (.mov e) fun t => ScalDone cx s t d fun _ => cx.sval s a)) ∧
    (Issues s (.movi e) cx →
      (cx.S = false → Completes s (.movi e) fun t => VecDone cx s t d fun _ _ => x) ∧
      (cx.S = true → cx.m % 2 = 0 → Completes s (.movi e) fun t => ScalDone cx s t d fun _ => x.signExtend 64) ∧
      (cx.S = true → cx.m % 2 = 1 → Completes s (.movi e) fun t => ScalDone cx s t d fun w => x ++ (w.sget d).extractLsb' 0 32)) ∧
    (Issues s (.v2s e) cx → Completes s (.v2s e) fun t => ScalDone cx s t d fun _ =>
      let v := (s.warpD cx.wid).vget a cx.e.b.toNat
      if cx.m % 2 = 1 then v.signExtend 64 else v.zeroExtend 64) ∧
    (Issues s (.s2v e) cx → Completes s (.s2v e) fun t => VecDone cx s t d fun _ _ =>
      if cx.m % 2 = 1 then (cx.sval s a).extractLsb' 32 32 else (cx.sval s a).extractLsb' 0 32)

/-! ## Registers: classes 2 to 6 -/

/-- R93, R94, R95: FMIN, FMAX, FABS, FNEG, FCLASS and FCMP by codes: no rounding, no draw, NaN operands quieted, −0 below +0, and
.ftz on FP32. -/
def Obligations.FloatSelection : Prop :=
  ∀ (e : Enc) (f : Short) (s : State) (cx : Cx),
    let t := typeFmt cx.m
    let z : Bool := cx.m % 2 = 1
    (∀ x ∈ ([(.fmin e, codeMinMax false t z), (.fminF32 f, codeMinMax false t z), (.fmax e, codeMinMax true t z), (.fmaxF32 f, codeMinMax true t z),
        (.fabs e, fun a _ => codeSign false t z a), (.fabsF32 f, fun a _ => codeSign false t z a), (.fneg e, fun a _ => codeSign true t z a),
        (.fnegF32 f, fun a _ => codeSign true t z a), (.fclass e, fun a _ => codeClass t z a)] : List (Instr × (Nat → Nat → Nat))),
      Issues s x.1 cx → Completes s x.1 fun u => VecDone cx s u cx.e.dst.toNat fun w l => byElem t x.2 (w.vget cx.e.a.toNat l) (cx.vB w l)) ∧
    (Issues s (.fcmp e) cx → Completes s (.fcmp e) fun u => MaskDone cx s u cx.e.dst.toNat fun w l =>
      codeCond (cx.m / 2 % 8) z (w.vget cx.e.a.toNat l).toNat (cx.vB w l).toNat)

/-- R91, R92, R96, R97: the rounding instructions complete; each lane's elements are computed by the operation under the modifier's type,
mode and .ftz, with one draw per element under .sr (FDOT2: one). -/
def Obligations.FloatArithmetic : Prop :=
  ∀ (e : Enc) (f : Short) (s : State) (cx : Cx),
    let b := s.block cx.blk
    let d := cx.e.dst.toNat
    let n := if cx.m / 2 % 8 = 5 then (if cx.m / 16 % 4 = 0 then 1 else 2) else 0
    (∀ x ∈ ([(.fadd e, faddOp), (.faddF32 f, faddOp), (.fsub e, fsubOp), (.fsubF32 f, fsubOp), (.fmul e, fmulOp), (.fmulF32 f, fmulOp),
        (.fdiv e, fdivOp), (.fsqrt e, fsqrtOp), (.frint e, frintOp)] : List (Instr × FpOp)),
      Issues s x.1 cx → Completes s x.1 fun u => LanesDone cx s u d 1 n fun w l _ =>
        fpLane x.2 b w cx.m cx.pc l (w.vget cx.e.a.toNat l) (cx.vB w l) (cx.vC w l)) ∧
    (Issues s (.ffma e) cx → Completes s (.ffma e) fun u => LanesDone cx s u d 1 n fun w l _ =>
      fpLane ffmaOp b w cx.m cx.pc l (w.vget cx.e.a.toNat l) (w.vget cx.e.b.toNat l) (cx.vC w l)) ∧
    (Issues s (.fdot2 e) cx → Completes s (.fdot2 e) fun u => LanesDone cx s u d 1 (if cx.m / 2 % 8 = 5 then 1 else 0) fun w l _ =>
      let z : Bool := cx.m % 2 = 1
      let v := fun (r : BitVec 9) i => decodeVal (typeFmt cx.m) (elemOf (typeFmt cx.m) (w.vget r.toNat l) i)
      let c := ftzIn .fp32 z (decodeVal .fp32 (w.vget cx.e.c.toNat l).toNat)
      BitVec.ofNat 32 (ftzOut .fp32 z (encodeVal .fp32 (Rnd.ofCode (cx.m / 2 % 8)) false (b.rdraw w l 0)
        (fdot2Val (v cx.e.a 0) (v cx.e.a 1) (v cx.e.b 0) (v cx.e.b 1) c l cx.pc))))

/-- R66, R67, R71, R72, R73, R75, R92, R99: a value that a format holds is encoded as its own code in every mode, whatever the draw, so no instruction
that gives such a value rounds it, and a NaN's code comes back quiet where the format keeps payloads; the special cases of the rounding
instructions, on values (no value: the origin NaN); and the special inputs of the seven special functions, whatever their free value is. -/
def Obligations.SpecialValues : Prop :=
  (∀ (f : Fmt) (mode : Rnd) (sat : Bool) (r c : Nat), f.isFloat = true → c < 2 ^ f.bits →
      ((decodeVal f c).isNan = false → (∀ n, decodeVal f c ≠ .inf n) → encodeVal f mode sat r (decodeVal f c) = c) ∧
      (∀ n, decodeVal f c = .inf n → encodeVal f mode false r (decodeVal f c) = c) ∧
      (f ∈ [Fmt.fp32, .bf16, .fp16] → (decodeVal f c).isNan = true → encodeVal f mode sat r (decodeVal f c).quiet = codeQuiet f c)) ∧
  (∀ (mode : Rnd) (a b c : Val) (x y : Bool),
      (addVal mode (.inf x) (.inf (!x)) = none ∧ subVal mode (.inf x) (.inf x) = none ∧ mulVal (.zero x) (.inf y) = none ∧ mulVal (.inf x) (.zero y) = none ∧
        divVal (.zero x) (.zero y) = none ∧ divVal (.inf x) (.inf y) = none ∧ sqrtVal (.inf true) = none ∧ (∀ m, sqrtVal (.fin true m) = none)) ∧
      (a.isNan = true → addVal mode a b = some a.quiet ∧ subVal mode a b = some a.quiet ∧ mulVal a b = some a.quiet ∧ divVal a b = some a.quiet ∧
        sqrtVal a = some a.quiet ∧ fmaVal mode a b c = some a.quiet) ∧
      (a.isNan = false → b.isNan = true → addVal mode a b = some b.quiet ∧ subVal mode a b = some b.quiet ∧ mulVal a b = some b.quiet ∧
        divVal a b = some b.quiet ∧ fmaVal mode a b c = some b.quiet) ∧
      (∀ m, divVal (.fin x m) (.zero y) = some (.inf (x != y))) ∧ sqrtVal (.zero x) = some (.zero x) ∧
      addVal mode (.zero x) (.zero (!x)) = some (.zero (mode = .rd)) ∧ addVal mode (.zero x) (.zero x) = some (.zero x)) ∧
  (∀ (ty : Nat) (v : FpEnv) (n : Bool), v.fmt ∈ [Fmt.fp32, .fp16, .bf16] →
      let code := fun (fn : Nat) (x : Val) => specialCode fn ty v (encodeVal v.fmt .rn false 0 x)
      let out := fun (x : Val) => encodeVal v.fmt .rn false 0 x
      let one := fun (neg : Bool) => Val.fin neg { num := 1, exp := 0 }
      let invalid := out (nanpay v.fmt v.lane v.pc)
      (code 0 (.zero n) = out (.inf n) ∧ code 1 (.zero n) = out (.inf n) ∧ code 2 (.zero n) = out (one false) ∧ code 3 (.zero n) = out (.inf true) ∧
        code 4 (.zero n) = out (.zero n) ∧ code 5 (.zero n) = out (one false) ∧ code 6 (.zero n) = out (.zero n)) ∧
      (code 0 (.inf n) = out (.zero n) ∧ code 1 (.inf false) = out (.zero false) ∧ code 1 (.inf true) = invalid ∧ code 2 (.inf false) = out (.inf false) ∧
        code 2 (.inf true) = out (.zero false) ∧ code 3 (.inf false) = out (.inf false) ∧ code 3 (.inf true) = invalid ∧ code 4 (.inf n) = invalid ∧
        code 5 (.inf n) = invalid ∧ code 6 (.inf n) = out (one n)) ∧
      (∀ c, c < 2 ^ v.fmt.bits → (∃ m, v.rd c = .fin true m) → specialCode 1 ty v c = invalid ∧ specialCode 3 ty v c = invalid) ∧
      code 3 (one false) = out (.zero false) ∧ code 4 (one n) = out (.zero n) ∧ code 5 (one n) = out (one true))


/-- R101 to R104: CVT, PACK and UNPACK: each source element is decoded and encoded in the result format under the rounding class, with
one draw per result under .sr. That CVT and UNPACK set the quiet bit of a signalling NaN before they convert it is the model's (assumption 15). -/
def Obligations.Conversions : Prop :=
  ∀ (e : Enc) (s : State) (cx : Cx),
    let b := s.block cx.blk
    let d := cx.e.dst.toNat
    let g := roundingClass (cx.m / 16)
    let f := packFmt (cx.m % 16)
    let n := packCount (cx.m % 16)
    let words := if n = 16 then 3 else 1
    (Issues s (.cvt e) cx → Completes s (.cvt e) fun u => LanesDone cx s u d 1 (if cx.m / 16 = 3 then 1 else 0) fun w l _ =>
      BitVec.ofNat 32 (convert (cvtFmts (cx.m % 16)).1 (cvtFmts (cx.m % 16)).2 g.1 g.2 (b.rdraw w l 0) (w.vget cx.e.a.toNat l).toNat)) ∧
    (Issues s (.pack e) cx → Completes s (.pack e) fun u => LanesDone cx s u d words (if cx.m / 16 = 3 then n else 0) fun w l i =>
      BitVec.ofNat 32 (packString f g.1 g.2 (b.rdraw w l) 0 (w.vrange cx.e.a.toNat l (n / 2) ++ w.vrange cx.e.b.toNat l (n / 2)) / 2 ^ (32 * i))) ∧
    (Issues s (.unpack e) cx → Completes s (.unpack e) fun u => LanesDone cx s u d n 0 fun w l i =>
      BitVec.ofNat 32 (convert f .fp32 .rn false 0 (numOfWords (w.vrange cx.e.a.toNat l words) / 2 ^ (f.bits * i) % 2 ^ f.bits)))

/-- R98 to R100, R135: the special functions and RAND complete; their results wait in a lookahead window of each member, RAND after one draw of
stream t per lane. The values inside the bounds of R98 are free (assumption 8). -/
def Obligations.SpecialFunctions : Prop :=
  ∀ (e : Enc) (s : State) (cx : Cx),
    let b := s.block cx.blk
    (∀ x ∈ ([(.frcp e, 0), (.frsq e, 1), (.fexp2 e, 2), (.flog2 e, 3), (.fsin e, 4), (.fcos e, 5), (.ftanh e, 6)] : List (Instr × Nat)),
      Issues s x.1 cx → Completes s x.1 fun u => Pending cx s u 0 fun p =>
        let w := s.warpD p.wid
        [cx.lanesWrite p cx.e.dst.toNat fun l => fpLane (fun v a _ _ => specialCode x.2 (match v.fmt with | .fp32 => 0 | .fp16 => 1 | _ => 2) v a) b w
          (cx.m / 16 * 16 + cx.m % 2) cx.pc l (w.vget cx.e.a.toNat l) (cx.vB w l) (cx.vC w l)]) ∧
    (Issues s (.rand e) cx → Completes s (.rand e) fun u => Pending cx s u 1 fun p =>
      let w := s.warpD p.wid
      [cx.lanesWrite p cx.e.dst.toNat fun l =>
        let x := (drawOf b.seed (b.lid w.index l).toNat (cx.m % 8) (w.draw.get 0 l).toNat).toNat
        if cx.m / 8 % 2 = 0 then BitVec.ofNat 32 (x / 2 ^ 32)
        else BitVec.ofNat 32 (encodeVal .fp32 .rn false 0 (Val.ofInt (x / 2 ^ 40 : Nat) (-24)))])

/-- R105 to R108: MXENC, IXENC, MXDEC and IXDEC complete, with the block's codes and scale, or its decoded elements, in the windows. -/
def Obligations.BlockConversions : Prop :=
  ∀ (e : Enc) (s : State) (cx : Cx),
    let d := cx.e.dst.toNat
    let sf := if cx.m / 32 = 1 then Fmt.sf8 else .e8m0
    let f := elemFmt (cx.m % 16)
    let inp := fun (p : Part) (l : Nat) => ((s.warpD p.wid).vrange cx.e.a.toNat l 32).map fun x => decodeVal .fp32 x.toNat
    let enc := fun (n width : Nat) (g : List Val → Nat × List Nat) (p : Part) =>
      (List.range n).map (fun i => cx.lanesWrite p (d + i) fun l => BitVec.ofNat 32 (packCodes width (g (inp p l)).2 / 2 ^ (32 * i)))
        ++ [cx.lanesWrite p cx.e.b.toNat fun l => BitVec.ofNat 32 (g (inp p l)).1]
    let dec := fun (n : Nat) (f : Fmt) (p : Part) => (List.range 32).map fun i => cx.lanesWrite p (d + i) fun l =>
      (((decodeBlock f sf (numOfWords ((s.warpD p.wid).vrange cx.e.a.toNat l n)) (((s.warpD p.wid).vget cx.e.b.toNat l).toNat % 256)).map
        fun v => BitVec.ofNat 32 (encodeVal .fp32 .rn false 0 v)) : List Word).getD i 0
    (Issues s (.mxenc e) cx → Completes s (.mxenc e) fun u => Pending cx s u 0 (enc (mxWords (cx.m % 16)) f.bits (encodeBlock f sf))) ∧
    (Issues s (.ixenc e) cx → Completes s (.ixenc e) fun u => Pending cx s u 0 (enc 4 4 (encodeI4x sf (cx.m / 8 % 4)))) ∧
    (Issues s (.mxdec e) cx → Completes s (.mxdec e) fun u => Pending cx s u 0 (dec (mxWords (cx.m % 16)) f)) ∧
    (Issues s (.ixdec e) cx → Completes s (.ixdec e) fun u => Pending cx s u 0 (dec 4 .i4x))

/-- R110 to R112: SHFL and BCAST complete: the element that a lane reads by the rule's formula, its own a (or 0 under .fz) where that
element is not present. That a literal takes b's place under either bkind is the model's (assumption 73). -/
def Obligations.LaneMoves : Prop :=
  ∀ (e : Enc) (s : State) (cx : Cx),
    let a := fun (j : Nat) => ((cx.elems s fun w l => w.vget cx.e.a.toNat l).lookup j : Option Word)
    let n : Nat := (declared (s.block cx.blk) cx.e.scope cx.e.sel.toNat cx.wid).length * cx.W
    let own := fun (p : Part) (l : Nat) => (s.warpD p.wid).vget cx.e.a.toNat l
    let scalar := (match cx.e.lit with | some x => x.toNat | none => (cx.sval s cx.e.b.toNat).toNat % 2 ^ 32 : Nat)
    let vec : Prop := cx.S = false ∧ cx.e.lit = none
    (Issues s (.shfl e) cx → ∃ b : Part → Nat → Nat,
      (∀ p l, (vec → b p l = ((s.warpD p.wid).vget cx.e.b.toNat l).toNat) ∧ (¬ vec → b p l = scalar)) ∧
      Completes s (.shfl e) fun u => Pending cx s u 0 fun p => [cx.lanesWrite p cx.e.dst.toNat fun l =>
        let j := shflFrom (cx.m % 4) n (p.rank * cx.W + l) (b p l)
        (if j < n then a j else none : Option Word).getD (if cx.m / 16 % 2 = 0 then own p l else 0)]) ∧
    (Issues s (.bcast e) cx → ∃ j : Nat,
      (vec → j = ((cx.elems s fun w l => w.vget cx.e.b.toNat l).head?.map fun x => x.2.toNat).getD 0) ∧ (¬ vec → j = scalar) ∧
      Completes s (.bcast e) fun u => Pending cx s u 0 fun p => [cx.lanesWrite p cx.e.dst.toNat fun l => (a j).getD (own p l)])

/-- R113 to R115: RED, SCAN, VOTE and MATCH complete, with their results over the present elements in the windows. -/
def Obligations.LaneReductions : Prop :=
  ∀ (e : Enc) (s : State) (cx : Cx),
    let d := cx.e.dst.toNat
    let av := (cx.elems s fun w l => w.vget cx.e.a.toNat l : List (Nat × Word))
    let el := fun (p : Part) (l : Nat) => p.rank * cx.W + l
    let yes := (av.filter fun x => x.2 != 0).length
    let ints : List (Nat × Word × (Word → Word → Word)) := [(0, 0, fun x y => x + y), (1, 0x7FFFFFFF, fun x y => if y.toInt < x.toInt then y else x),
      (2, 0x80000000, fun x y => if x.toInt < y.toInt then y else x), (3, 0xFFFFFFFF, fun x y => if y.toNat < x.toNat then y else x),
      (4, 0, fun x y => if x.toNat < y.toNat then y else x), (5, 0xFFFFFFFF, fun x y => x &&& y), (6, 0, fun x y => x ||| y), (7, 0, fun x y => x ^^^ y)]
    let minMax := fun (larger : Bool) (x y : Word) => BitVec.ofNat 32 (codeMinMax larger .fp32 false x.toNat y.toNat)
    let folds := ints ++ [(9, 0x7F800000, minMax false), (10, 0xFF800000, minMax true)]
    let steps : List (Nat × Word × (Nat → Word → Word → Word)) :=
      folds.map (fun o => (o.1, o.2.1, fun _ => o.2.2)) ++ [(8, 0x80000000, fun k => fadd32 (k % cx.W) cx.pc)]
    (Issues s (.red e) cx → Completes s (.red e) fun u => ∃ x : Word,
      (∀ o ∈ folds, cx.m % 16 = o.1 → ∀ y r, av = y :: r → x = r.foldl (fun v z => o.2.2 v z.2) y.2) ∧ (cx.m % 16 = 8 → x = redAll 8 cx.W cx.pc av) ∧
      Pending cx s u 0 fun p => [if cx.S then .scal d (x.zeroExtend 64) else cx.lanesWrite p d fun _ => x]) ∧
    (Issues s (.scan e) cx → Completes s (.scan e) fun u => ∃ out : Nat → Option Word,
      (∀ o ∈ steps, cx.m % 16 = o.1 → (av.map Prod.fst).Nodup → ∀ k, (h : k < av.length) → out (av[k]).1 = some
        (if cx.m / 16 % 2 = 0 then (av.take (k + 1)).tail.foldl (fun v z => o.2.2 z.1 v z.2) ((av.head?.map Prod.snd).getD 0)
         else if k = 0 then o.2.1 else (av.take k).tail.foldl (fun v z => o.2.2 z.1 v z.2) ((av.head?.map Prod.snd).getD 0))) ∧
      Pending cx s u 0 fun p => [cx.lanesWrite p d fun l => (out (el p l)).getD 0]) ∧
    (Issues s (.vote e) cx →
      (cx.m % 8 = 0 → cx.S = false → Completes s (.vote e) fun u => Pending cx s u 0 fun p => [cx.maskWrite p d fun l => (av.lookup (el p l)).getD 0 != 0]) ∧
      (cx.m % 8 = 0 → cx.S = true → Completes s (.vote e) fun u => Pending cx s u 0 fun _ => [.scal d (setOf ((av.filter fun x => x.2 != 0).map (·.1)))]) ∧
      (cx.m % 8 = 1 → Completes s (.vote e) fun u => Pending cx s u 0 fun _ => [.scal d (BitVec.ofNat 64 yes)]) ∧
      (∀ x ∈ ([(2, decide (yes = av.length)), (3, decide (yes ≠ 0)), (4, decide (yes % 2 = 1)), (5, decide (av.length < 2 * yes)),
          (6, decide (∀ x ∈ av, ∀ y ∈ av, x.2 = y.2))] : List (Nat × Bool)), cx.m % 8 = x.1 →
        Completes s (.vote e) fun u => Pending cx s u 0 fun p => [if cx.S then .scal d (if x.2 then 1 else 0) else cx.maskWrite p d fun _ => x.2])) ∧
    (Issues s (.matchOp e) cx → ∀ a : Warp → Nat → DWord,
      (∀ w l, a w l = if cx.m % 2 = 1 then w.vget (cx.e.a.toNat + 1) l ++ w.vget cx.e.a.toNat l else (w.vget cx.e.a.toNat l).zeroExtend 64) →
      let bv := cx.elems s a
      Completes s (.matchOp e) fun u => Pending cx s u 0 fun p => [cx.maskWrite p d fun l =>
        (bv.lookup (el p l)).isSome && bv.lookup (el p l) = ((if cx.m / 2 % 2 = 1 then bv.getLast? else bv.head?).map (·.2))])

/-- R16, R17, R119: what MOVSR reads of each special register, and what MOVSW writes to %tvec and to the loop registers (R158).
That MOVSR of %lclk counts its own issue is the model's (assumption 14), and so is that a MOVSR of several members gives each its own value (assumption 59). -/
def Obligations.SpecialRegisters : Prop :=
  ∀ (e : Enc) (s t : State) (cx : Cx) (p : Part), cx.parts = [p] →
    let b := s.block cx.blk
    let w := s.warpD p.wid
    let pos := b.pos3
    let core := if p.wid < 4096 then p.wid / 32 else 128 + (p.wid - 4096) / 16
    let loop := fun (i : Nat) => match w.loops[i]? with
      | some x => BitVec.ofNat 64 (2 ^ 63 + (x.stop - x.start).toNat / 4 % 2 ^ 15 * 2 ^ 48 + x.remaining.toNat)
      | none => 0
    let x := cx.sval s cx.e.a.toNat
    (Issues s (.movsr e) cx → (cx.e.a = 0 → Completes s (.movsr e) fun u => VecDone cx s u cx.e.dst.toNat fun _ l => BitVec.ofNat 32 l) ∧
      (cx.e.a = 13 → Completes s (.movsr e) fun u => VecDone cx s u cx.e.dst.toNat fun w l => w.draw.get 0 l) ∧
      (∀ r ∈ ([(1, w.index), (2, p.wid), (3, b.bid), (4, pos.1 + pos.2.1 * 2 ^ 21 + pos.2.2 * 2 ^ 42), (5, b.grid), (6, s.chip), (7, core),
          (8, if core < 128 then core / 4 else core - 128), (9, b.width), (10, b.ctx), (11, w.live.toNat), (12, p.lanes.toNat), (15, s.ptimeOf b),
          (16, w.tvec.toNat), (21, w.fault.toNat), (22, b.pbase)] : List (Nat × Nat)),
        cx.e.a.toNat = r.1 → Completes s (.movsr e) fun u => ScalDone cx s u cx.e.dst.toNat fun _ => BitVec.ofNat 64 r.2) ∧
      (cx.joint = false → ∀ i, i < 4 → cx.e.a.toNat = 17 + i → Completes s (.movsr e) fun u => ScalDone cx s u cx.e.dst.toNat fun _ => loop i)) ∧
    (IssuesAs s (.movsr e) cx t → cx.e.a = 14 → Completes s (.movsr e) fun u => ScalDone cx s u cx.e.dst.toNat fun _ => (t.warpD p.wid).lclk) ∧
    (Issues s (.movsw e) cx →
      (cx.e.dst = 16 → Completes s (.movsw e) fun u => Calm (s.updWarp p.wid fun w => { w with tvec := BitVec.ofNat 64 (x.toNat / 4 * 4) }) u) ∧
      (17 ≤ cx.e.dst.toNat → cx.e.dst.toNat ≤ 20 → Completes s (.movsw e) fun u => Calm s u ∧ (cx.joint = false → cx.noLoopEnd s p.wid → w.waitsTested →
        let i := cx.e.dst.toNat - 17
        (u.warpD p.wid).loops = if w.loops.length ≤ i then w.loops
          else if x.toNat / 2 ^ 63 = 0 then w.loops.take i else w.loops.modify i fun y => { y with remaining := BitVec.ofNat 32 x.toNat })))

/-! ## Control flow: class 7 -/

/-- R148, R149, R151, R152: BRA moves the participating lanes whose mask bit holds to the target and every other selected lane to the next
instruction; a split pins the side that the hint names (R128). JMP, CALL and RET move every participating lane of every member to one target, the
literal's or an aligned register's; CALL writes its return address to s63, after the target is read, and nothing else changes. -/
def Obligations.Jumps : Prop :=
  (∀ (e : Enc) (s t : State) (cx : Cx) (p : Part), IssuesAs s (.bra e) cx t → cx.parts = [p] → cx.free t →
    let w := t.warpD p.wid
    let k := w.kget cx.e.a.toNat
    let taken := p.lanes &&& (if cx.m / 4 % 2 = 1 then ~~~ k else k)
    let rest := p.sel &&& ~~~ taken
    let target := cx.pc + BitVec.ofInt 54 (4 * (cx.lit.getD 0).toInt)
    let next := cx.pc + BitVec.ofNat 54 cx.len
    let split := taken ≠ 0 ∧ rest ≠ 0
    ¬ (split ∧ cx.m % 4 = 3) → Completes s (.bra e) fun u => Calm s u ∧ Stand u p.wid taken target ∧ Stand u p.wid rest next ∧
      (u.warpD p.wid).loops = w.loops ∧ (split → (u.warpD p.wid).pin = if cx.m % 4 = 1 then taken else if cx.m % 4 = 2 then rest else 0)) ∧
  ∀ (e : Enc) (s t : State) (cx : Cx),
    let lit := fun (x : Word) => cx.pc + BitVec.ofInt 54 (4 * x.toInt)
    (∀ x ∈ ([(.jmp e, cx.e.a.toNat), (.call e, cx.e.a.toNat), (.ret e, 63)] : List (Instr × Nat)), ∀ target : Addr54,
      IssuesAs s x.1 cx t → cx.free t →
      ((∃ y, cx.lit = some y ∧ target = lit y) ∨ (cx.lit = none ∧ (cx.sval s x.2).toNat % 4 = 0 ∧ target = BitVec.ofNat 54 (cx.sval s x.2).toNat)) →
      Completes s x.1 fun u => (∀ p ∈ cx.parts, Stand u p.wid p.lanes target) ∧
        (if x.1 = .call e then ScalDone cx s u 63 fun _ => BitVec.ofNat 64 (cx.pc + BitVec.ofNat 54 cx.len).toNat else Calm s u))

/-- R156: LOOP with a free entry: a count of 0 goes behind the instruction at end; any other count pushes an entry whose remaining count
is one less, and goes on to the next instruction. The length at end is read when the LOOP issues. -/
def Obligations.LoopEntry : Prop :=
  ∀ (e : Enc) (s t v : State) (cx : Cx) (p : Part) (bs : List Byte) (n : Nat), IssuesAs s (.loop e) cx t → cx.parts = [p] → cx.free t →
    let w := t.warpD p.wid
    let count : Word := if cx.m % 2 = 1 then BitVec.ofNat 32 cx.e.a.toNat else BitVec.ofNat 32 (cx.sval s cx.e.a.toNat).toNat
    let stop := cx.pc + BitVec.ofInt 54 (4 * (cx.lit.getD 0).toInt)
    let next := cx.pc + BitVec.ofNat 54 cx.len
    w.loops.length < 4 → cx.noLoopEnd t p.wid → t.fetchWord (coreOf p.wid) (t.block cx.blk).ctx stop = .ok bs v → lengthOf (numOf bs) = some n →
    Completes s (.loop e) fun u => Calm v u ∧
      (count = 0 → (u.warpD p.wid).loops = w.loops ∧ Stand u p.wid p.lanes (stop + BitVec.ofNat 54 n)) ∧
      (count ≠ 0 → (u.warpD p.wid).loops = w.loops ++ [{ start := next, stop := stop, remaining := count - 1 }] ∧ Stand u p.wid p.lanes next)

/-- R162, R163, R159: NOP and YIELD complete and change places only; YIELD gives up the next cycle. A group that completes an instruction
where no loop ends goes to the next one; where the innermost loop ends there, it goes back to its start while branches back are left, and
leaves the loop otherwise. -/
def Obligations.Advance : Prop :=
  ∀ (e : Enc) (s t : State) (cx : Cx), 
    (∀ i ∈ [Instr.nop e, .nopF32, .yield e], IssuesAs s i cx t → Completes s i fun u =>
      Calm (if i = .yield e then cx.parts.foldl (fun (v : State) (p : Part) => v.updWarp p.wid fun w => { w with skip := true }) s else s) u ∧
      ∀ p, cx.parts = [p] → cx.free t →
        let w := t.warpD p.wid
        let next := cx.pc + BitVec.ofNat 54 cx.len
        (cx.noLoopEnd t p.wid → (u.warpD p.wid).loops = w.loops ∧ Stand u p.wid p.sel next) ∧
        (∀ outer x, w.loops = outer ++ [x] → x.stop = cx.pc → p.sel ≠ 0 →
          (x.remaining ≠ 0 → (u.warpD p.wid).loops = outer ++ [{ x with remaining := x.remaining - 1 }] ∧ Stand u p.wid p.sel x.start) ∧
          (x.remaining = 0 → (∀ y ∈ outer, y.stop ≠ cx.pc) → (u.warpD p.wid).loops = outer ∧ Stand u p.wid p.sel next)))

/-- R153 to R155: JOIN and LEAVE set and clear their lanes' own bits of a mask. WAIT: lanes outside the mask pass; where every live lane of
the mask has arrived, the arriving lanes and those parked earlier all stand behind their own WAITs, 8 bytes on (where no loop ends there); otherwise the arriving lanes of the mask park. -/
def Obligations.Reconvergence : Prop :=
  ∀ (e : Enc) (s t : State) (cx : Cx),
    (Issues s (.join e) cx → Completes s (.join e) fun u => MaskDone cx s u cx.e.dst.toNat fun _ _ => true) ∧
    (Issues s (.leave e) cx → Completes s (.leave e) fun u => MaskDone cx s u cx.e.dst.toNat fun _ _ => false) ∧
    (∀ p, IssuesAs s (.wait e) cx t → cx.parts = [p] → cx.len = 8 → cx.free t → cx.noLoopEnd t p.wid →
      let w := t.warpD p.wid
      let n := cx.e.a.toNat
      let arr := p.lanes &&& w.kget n
      let next := cx.pc + BitVec.ofNat 54 cx.len
      let earlier := w.parks.filter fun q => q.place = .wait n
      let done : Prop := (w.live &&& w.kget n) &&& ~~~ (arr ||| parkedOf earlier) = 0
      Completes s (.wait e) fun u => Calm s u ∧ Stand u p.wid (p.sel &&& ~~~ arr) next ∧
        (arr ≠ 0 → done → Stand u p.wid arr next ∧ (∀ q ∈ (u.warpD p.wid).parks, q.place ≠ .wait n) ∧
          ((∀ r ∈ earlier, ∀ x ∈ w.loops, x.stop ≠ r.pc) → ∀ q ∈ earlier, q.lanes &&& ~~~ (w.live &&& allSet cx.W) = 0 →
            (∀ r ∈ earlier, r.pc ≠ q.pc → r.lanes &&& q.lanes = 0) → Stand u p.wid q.lanes (q.pc + 8))) ∧
        (arr ≠ 0 → ¬ done → n < 12 → { lanes := arr, pc := cx.pc, len := cx.len, place := .wait n, clock := w.lclk } ∈ (u.warpD p.wid).parks)) ∧
    (∀ v w, (s.testWaits v).warp? v = some w → w.waitsTested)

/-- R161, R153, R122: EXIT while the block has lanes left: the lanes of the issue are no longer live, and their bits leave every mask
register; the other selected lanes go on. Nothing changes but those warps' live lanes, masks and places and the blocks' exit clocks. An EXIT of a
plain kernel block's last lanes takes the block and its warps off the chip. -/
def Obligations.Exit : Prop :=
  ∀ (e : Enc) (s t : State) (cx : Cx), IssuesAs s (.exit e) cx t → (cx.parts.map (·.wid)).Nodup → (∀ p ∈ cx.parts, (t.warpD p.wid).blk = cx.blk) →
    let rest := fun (w : Warp) => { w.still with live := 0, k := [], frame := none }
    (cx.exitsLast t = false → Completes s (.exit e) fun u => (∀ p ∈ cx.parts,
        (u.warpD p.wid).live = (s.warpD p.wid).live &&& ~~~ p.lanes ∧
        (∀ n, n < 12 → (u.warpD p.wid).kget n = ((s.warpD p.wid).kget n &&& ~~~ p.lanes) &&& allSet (s.block cx.blk).width) ∧
        (u.warp? p.wid).map rest = (s.warp? p.wid).map rest ∧ (u.warpD p.wid).frame.isSome = (s.warpD p.wid).frame.isSome ∧
        (cx.free t → cx.noLoopEnd t p.wid → Stand u p.wid (p.sel &&& ~~~ p.lanes) cx.next)) ∧
      (∀ v, cx.member v = false → (u.warp? v).map Warp.still = (s.warp? v).map Warp.still) ∧ (∀ c, (u.core c).still = (s.core c).still) ∧
      (∀ k, (u.block? k).map (fun b => { b with exitClk := 0 }) = (s.block? k).map fun b => { b with exitClk := 0 }) ∧
      { u.still with blocks := [] } = { s.still with blocks := [] }) ∧
    (cx.exitsLast t = true → t.originFull = false → t.strictAbandoned (t.block cx.blk) = false → (t.block? cx.blk).isSome → (t.block cx.blk).kind = .kernel →
      (t.block cx.blk).flag 2 = false → Completes s (.exit e) fun u =>
      (∀ v w, u.warp? v = some w → w.blk ≠ cx.blk) ∧ (∀ b, u.block? cx.blk = some b → b.ended = true) ∧ u.mem = s.mem)

/-! ## Exceptions -/

/-- R164, R134, R166, R167, R363: TRAP, and BKPT (its pass flag clear, R407) and HALT without a claim, enter trap mode with codes 0x38 and 0x39 behind the
instruction: the frame holds the places of the lanes after it has completed. A collective TRAP suspends its other members. -/
def Obligations.TrapInstructions : Prop :=
  ∀ (e : Enc) (s t v z : State) (cx : Cx) (p : Part) (rest : List Part),
    (∀ x ∈ ([(.trap e, 0x38, cx.e.b.toNat), (.bkpt e, 0x39, cx.e.b.toNat), (.halt e, 0x39, 0x200)] : List (Instr × Nat × Nat)),
      IssuesAs s x.1 cx t → (x.1 = .trap e ∨ (t.ctx (t.block cx.blk).ctx).claim = none) → (x.1 = .bkpt e → p.pass = false) →
      t.trapHold (cx.parts.map (·.wid)) = none →
      TrapReady cx (t.advance cx) p rest (cx.rec_ (t.advance cx) x.2.1 x.2.2) v z →
      Completes s x.1 fun u => TrapTaken (t.advance cx) p rest v z u)

/-- R164, R147, R151, R152, R156, R168: precise faults of class 7 enter trap mode at the instruction, which issues again on return:
DIVERGENT_UNIFORM of a splitting BRA .uni, PC_ALIGN of an unaligned register target, LOOP_DEPTH of a fifth loop, ILLEGAL_INSTRUCTION of a
TRET outside trap mode. -/
def Obligations.PreciseFaults : Prop :=
  ∀ (e : Enc) (s t v z : State) (cx : Cx) (p : Part) (rest : List Part),
    let w := t.warpD p.wid
    let k := if cx.m / 4 % 2 = 1 then ~~~ (w.kget cx.e.a.toNat) else w.kget cx.e.a.toNat
    let splits := p.lanes &&& k ≠ 0 ∧ p.sel &&& ~~~ (p.lanes &&& k) ≠ 0 ∧ cx.m % 4 = 3
    let unaligned := fun (r : Nat) => cx.lit = none ∧ (cx.sval s r).toNat % 4 ≠ 0
    ∀ x ∈ ([(.bra e, 0x09, splits), (.jmp e, 0x05, unaligned cx.e.a.toNat), (.call e, 0x05, unaligned cx.e.a.toNat), (.ret e, 0x05, unaligned 63),
        (.loop e, 0x0A, 4 ≤ w.loops.length), (.tret e, 0x01, True)] : List (Instr × Nat × Prop)),
      IssuesAs s x.1 cx t → x.2.2 → TrapReady cx t p rest (cx.rec_ t x.2.1 0) v z → Completes s x.1 fun u => TrapTaken t p rest v z u

/-- R165, R274, R283: TRAP, BKPT and HALT in trap mode, and precise faults there, are double faults: the block is FAULTED and leaves its core. A FAULT event of its
grid and number with code 0x3E, the warp and its fault area entry is originated (at once, where the origin queue has room), and the DOUBLE_FAULT record, which names the fault's own
code, stands after the records of the entry's group. The scope, members and lanes of that record are the faulting issue's (assumption 17); a shadow run orders no FAULT (R386). -/
def Obligations.DoubleFaults : Prop :=
  ∀ (e : Enc) (s t : State) (cx : Cx) (p : Part) (rest : List Part) (b : Block), cx.parts = p :: rest → (t.warpD p.wid).frame.isSome = true →
    (t.warpD p.wid).blk = cx.blk → t.block? cx.blk = some b → b.ended = false → t.entryMigrating p.wid = false →
    let entry := (t.ctx b.ctx).faultBase + p.wid * 0x2000
    let n := (t.warpD p.wid).records
    let gone := fun (i : Instr) (at_ : State) (code : Nat) => Completes s i fun u =>
      (∀ v w, u.warp? v = some w → w.blk ≠ cx.blk) ∧ (∀ b, u.block? cx.blk = some b → b.ended = true) ∧
      (b.kind ≠ .shadow → t.isMember = true → t.hytur.fenced = false → t.originFull = false → ∃ x : Ev, u.outbox = t.outbox ++ [.datagram x] ∧ msgType x.msg = 5 ∧
        bodyField x.msg 0 2 = b.grid % 2 ^ 16 ∧ bodyField x.msg 2 1 = 0x3E ∧ bodyField x.msg 4 4 = b.bid % 2 ^ 32 ∧ bodyField x.msg 8 2 = p.wid % 2 ^ 16 ∧
        bodyField x.msg 0x10 8 = (t.chip * 2 ^ 54 + entry) % 2 ^ 64) ∧
      ∀ v, at_.writeVirt b.ctx (entry + 0x2C0 + 64 * n) (Rec.bytes { cx.rec_ t 0x3E code with lanes := p.lanes } b p.wid n (n + 1)) = some v → u.mem = v.mem
    (IssuesAs s (.trap e) cx t → gone (.trap e) (t.advance cx) 0x38) ∧
    (IssuesAs s (.bkpt e) cx t → (t.ctx (t.block cx.blk).ctx).claim = none → p.pass = false → gone (.bkpt e) (t.advance cx) 0x39) ∧
    (IssuesAs s (.halt e) cx t → gone (.halt e) (t.advance cx) 0x39) ∧
    (IssuesAs s (.jmp e) cx t → cx.lit = none → (cx.sval s cx.e.a.toNat).toNat % 4 ≠ 0 → gone (.jmp e) t 0x05) ∧
    (IssuesAs s (.loop e) cx t → 4 ≤ (t.warpD p.wid).loops.length → gone (.loop e) t 0x0A)

/-- R168: TRET .all resumes every lane from the frame; .kill makes the lanes of its mask exit; .abort ends the block. The members that the fault
had suspended are released. That parked lanes stand outside the pin is the model's reading of R128 (assumption 11). -/
def Obligations.TrapReturn : Prop :=
  ∀ (e : Enc) (s t : State) (cx : Cx) (p : Part) (f : Frame), IssuesAs s (.tret e) cx t → cx.parts = [p] → (t.warpD p.wid).frame = some f →
    let w := t.warpD p.wid
    let free := fun (u : State) => ∀ v x, u.warp? v = some x → x.suspended ≠ some p.wid
    (cx.m % 4 = 0 → ({ w with parks := f.parks } : Warp).waitsTested → (∀ q ∈ f.parks, q.woken = none) → Completes s (.tret e) fun u =>
      (u.warpD p.wid).frame = none ∧ (u.warpD p.wid).pcs = f.pcs ∧ (u.warpD p.wid).parks = f.parks ∧ (u.warpD p.wid).loops = f.loops ∧
      (u.warpD p.wid).pin = f.pin &&& (w.live &&& ~~~ parkedOf f.parks) ∧ (u.warpD p.wid).live = w.live ∧ free u ∧ u.mem = s.mem) ∧
    (cx.m % 4 = 1 → Completes s (.tret e) fun u => ∀ x, u.warp? p.wid = some x → x.frame = none ∧ x.live = w.live &&& ~~~ (w.kget cx.e.a.toNat)) ∧
    (2 ≤ cx.m % 4 → (t.block? cx.blk).isSome → Completes s (.tret e) fun u => ∀ v x, u.warp? v = some x → x.blk ≠ cx.blk)

/-- R403, R407, R363: under a debugger's claim BKPT stops its warp at the BKPT and HALT behind the HALT, with no handler; the BKPT that a
resumed warp stands at passes, claim or no claim. That a BKPT under a claim stops in trap mode too, and is no double fault, is the model's (assumption 56). -/
def Obligations.DebugStops : Prop :=
  ∀ (e : Enc) (s t : State) (cx : Cx) (p : Part), cx.parts = [p] → (t.warpD p.wid).blk = cx.blk →
    let claimed : Prop := (t.ctx (t.block cx.blk).ctx).claim.isSome = true
    (IssuesAs s (.bkpt e) cx t → p.pass = true → Completes s (.bkpt e) fun u => Calm s u ∧ cx.movesOn t u) ∧
    (IssuesAs s (.bkpt e) cx t → claimed → p.pass = false → (t.warpD p.wid).waitsTested → Completes s (.bkpt e) fun u =>
      (u.warpD p.wid).halted = true ∧ (u.warpD p.wid).frame = (t.warpD p.wid).frame ∧ (u.warpD p.wid).pcs = (t.warpD p.wid).pcs) ∧
    (IssuesAs s (.halt e) cx t → claimed → (t.warpD p.wid).frame = none → cx.free t → cx.noLoopEnd t p.wid → Completes s (.halt e) fun u =>
      (u.warpD p.wid).halted = true ∧ (u.warpD p.wid).frame = none ∧ Stand u p.wid p.sel (cx.pc + BitVec.ofNat 54 cx.len))

/-! ## Memory: classes 8 to 10 -/

/-- R229, R232 to R234: LD: each member's window holds the little-endian words at the places of its own lanes (the scalar form: the first lane's
eight bytes, for every member); a consuming load also begins its read of the tile. No register and no byte of memory changes. That an access is
performed whole at its issue is the model's (assumption 5). -/
def Obligations.Loads : Prop :=
  ∀ (e : Enc) (s t : State) (cx : Cx), IssuesAs s (.ld e) cx t →
    let form := cx.m % 8
    let scalar : Prop := form % 4 = 3
    let n := 2 ^ (form % 4)
    let d := cx.e.dst.toNat
    let op := if form % 4 = 3 then cx.memOp t (.load 2 true false) cx.space 8 (cx.scalarAcc t cx.space 8 cx.e.a.toNat [] [])
      else cx.memOp t (.load n false (4 ≤ form)) cx.space (4 * n) (cx.laneAccs t cx.space (4 * n) cx.e.a.toNat noWords noWords)
    let value := fun (a : LaneAcc) => t.bytesAt op.width (t.placeOf op a)
    let out := fun (u : State) => RegsSame s u ∧ Untouched s u 0 [] ∧ ∀ p ∈ cx.parts,
      (scalar → Has u p [.scal d (BitVec.ofNat 64 ((op.lanes.head?.map value).getD 0))]) ∧
      (¬ scalar → Has u p ((List.range n).map fun i => .vec (d + i) ((op.lanes.filter fun a => a.wid = p.wid).map fun a => (a.lane, BitVec.ofNat 32 (value a / 2 ^ (32 * i))))))
    t.plainMem → t.unwatched cx.blk → Reaches t op →
    (form < 4 ∨ scalar → Completes s (.ld e) out) ∧
    (4 ≤ form → ¬ scalar → ∀ key pool tile, t.consumed (t.located op) = some (key, pool, tile) → (t.block key).overread pool tile none = false →
      Completes s (.ld e) fun u => out u ∧ ((u.block key).tile (tileKey pool tile)).count = ((s.block key).tile (tileKey pool tile)).count - 1 ∧
        ∃ r ∈ (u.block key).reads, r.tile = tileKey pool tile)

/-- R229, R231 to R233: ST: the places of the lanes hold their words, a later lane's over an earlier one's; every byte outside them and every
register is as before. That an access is performed whole at its issue is the model's (assumption 5). -/
def Obligations.Stores : Prop :=
  ∀ (e : Enc) (s t : State) (cx : Cx), IssuesAs s (.st e) cx t →
    let form := cx.m % 8
    let n := 2 ^ (form % 4)
    let x := cx.sval s cx.e.b.toNat
    let op := if form % 4 = 3 then cx.memOp t (.store 2 true (form = 7)) cx.space 8
        (cx.scalarAcc t cx.space 8 cx.e.a.toNat [BitVec.ofNat 32 x.toNat, BitVec.ofNat 32 (x.toNat / 2 ^ 32)] [])
      else cx.memOp t (.store n false false) cx.space (4 * n) (cx.laneAccs t cx.space (4 * n) cx.e.a.toNat (vecWords cx.e.b.toNat n) noWords)
    t.plainMem → t.unwatched cx.blk → (t.block cx.blk).kind ≠ .shadow → Reaches t op →
    (∀ a ∈ op.lanes, ∀ c ws, t.placeOf op a = some (.spad c ws) → ∀ w ∈ ws, w / 8 * 8 ∉ (t.core c).marks) →
    Completes s (.st e) fun u => RegsSame s u ∧ Untouched s u op.width (op.lanes.map (t.placeOf op)) ∧
      ∀ pre a post, op.lanes = pre ++ a :: post → (∀ b ∈ post, Apart op.width (t.placeOf op a) (t.placeOf op b)) →
        (∀ x ∈ op.lanes, ∀ pa, t.placeOf op x = some (.glb pa) → inAperture pa = false) → u.bytesAt op.width (t.placeOf op a) = wordsNum a.data

/-- R169 to R176, R230: where a lane's access lands, and what it takes otherwise: the alignment, the partition, the cluster window, the die
window, the lane-private layout, and in global memory the chip field, the alignment, the translation and the alias range of an atomic. An effective address below 0, an
address value with bits beyond its space and a .cls offset that leaves its core's window are SPACE_RANGE, in global memory before any other cause. Every width of an access divides 2^54. -/
def Obligations.AccessPlaces : Prop :=
  (∀ (s : State) (op : MemOp) (a : LaneAcc) (v : Nat) (off : Int), 0 < op.width → (a.addr, a.bad) = effAddr op.space v op.width off →
    let aligned : Prop := a.addr % (op.width : Int) = 0
    (op.space ≠ 0 → ¬ aligned → s.checkLane op a = .bad Code.misaligned) ∧
    (op.space ≠ 0 → op.space ≠ 2 → a.addr = v + off ∧ (aligned → (v + off < 0 ∨ 2 ^ 32 ≤ v) → s.checkLane op a = .bad Code.spaceRange)) ∧
    (op.space = 2 → aligned → (2 ^ 23 ≤ v ∨ (v % 2 ^ 21 : Nat) + off < 0 ∨ 2 ^ 21 < (v % 2 ^ 21 : Nat) + off + op.width) → s.checkLane op a = .bad Code.spaceRange) ∧
    (op.space = 0 → (v + off < 0 ∨ 2 ^ 64 ≤ v + off) → s.checkLane op a = .bad Code.spaceRange)) ∧
  ∀ (s : State) (op : MemOp) (a : LaneAcc) (x : Nat), a.bad = false → a.addr = (x : Int) → 0 < op.width → 2 ^ 54 % op.width = 0 →
    let b := s.block op.blk
    let words := fun (o : Nat) => wordsFrom o op.width
    let own : Prop := b.kind = .shadow ∨ x / 2 ^ 54 = s.chip
    (op.space ≠ 0 → x % op.width ≠ 0 → s.checkLane op a = .bad Code.misaligned) ∧
    (x % op.width = 0 →
      (op.space = 1 → x + op.width ≤ b.psize → s.checkLane op a = .ok (.spad b.core (words (b.pbase + x)))) ∧
      (op.space = 1 → b.psize < x + op.width → s.checkLane op a = .bad Code.spaceRange) ∧
      (op.space = 2 → s.checkLane op a = if ∀ i, i < op.width → (s.ownerOf b.ctx (4 * clusterOf (coreOf a.wid) + x / 2 ^ 21) (x % 2 ^ 21 + i)).isSome = true
        then .ok (.spad (4 * clusterOf (coreOf a.wid) + x / 2 ^ 21) (words (x % 2 ^ 21))) else .bad Code.spaceRange) ∧
      (op.space = 3 → ∀ base size, (s.ctx b.ctx).diewin.getD (dieOf (coreOf a.wid)) (0, 0) = (base, size) →
        s.checkLane op a = if x + op.width ≤ size * 65536 then .ok (.die (dieOf (coreOf a.wid) * 2 ^ 25 + base * 65536 + x)) else .bad Code.spaceRange) ∧
      (op.space = 4 → x + op.width ≤ b.lanepriv → s.checkLane op a = .ok (.spad b.core ((words x).map fun o =>
        b.pbase + b.plain + (o / 4 * (b.nwarps * b.width) + ((s.warpD a.wid).index * b.width + a.lane)) * 4))) ∧
      (op.space = 4 → b.lanepriv < x + op.width → s.checkLane op a = .bad Code.spaceRange) ∧
      (op.space = 0 → x < 2 ^ 64 → own →
        (∀ pa, s.translate (coreOf a.wid) b.ctx (x % 2 ^ 54) op.kind.access = .ok pa →
          s.checkLane op a = if op.kind.atomic = true ∧ inAperture pa = true then .bad Code.formatAtomic else .ok (.glb pa)) ∧
        (s.translate (coreOf a.wid) b.ctx (x % 2 ^ 54) op.kind.access = .pageFault → s.checkLane op a = .bad Code.pageFault) ∧
        (s.translate (coreOf a.wid) b.ctx (x % 2 ^ 54) op.kind.access = .permission → s.checkLane op a = .bad Code.permission))) ∧
    (op.space = 0 → x < 2 ^ 64 → ¬ own → s.checkLane op a = .bad Code.remoteDirect) ∧
    (op.space = 0 → own → x < 2 ^ 64 → x % op.width ≠ 0 → s.checkLane op a = .bad Code.misaligned)

/-- R236: PRF, CFL and CINV change no register and no byte: CFL leaves no dirty copy of its lines in any L1, CINV none of them in the issuing
core's L1. PRF never faults. No L1 holds an exact contribution, which an evicted line could spill to the stack's reserved memory (R183). -/
def Obligations.CacheLines : Prop :=
  ∀ (e : Enc) (s t : State) (cx : Cx), (∀ c, (t.core c).exact = []) →
    let op := cx.lineOp t
    let same := fun (u : State) => RegsSame s u ∧ Untouched s u 0 []
    (IssuesAs s (.prf e) cx t → Completes s (.prf e) same) ∧
    (IssuesAs s (.cfl e) cx t → t.laneFaults op = [] → t.laneMig op = none → Completes s (.cfl e) fun u => same u ∧
      ∀ a ∈ op.lanes, ∀ pa, t.placeOf op a = some (.glb pa) → ∀ c x, (u.core c).l1.find (pa / 128) = some x → x.dirty = 0) ∧
    (IssuesAs s (.cinv e) cx t → t.laneFaults op = [] → t.laneMig op = none → Completes s (.cinv e) fun u => same u ∧
      ∀ a ∈ op.lanes, ∀ pa, t.placeOf op a = some (.glb pa) → (u.core (coreOf a.wid)).l1.find (pa / 128) = none)

/-- R247, R248, R231: ATOM outside D-mode: the lanes act in ascending order; each lane's window word is the value that the earlier lanes at its
place have left, and the place ends with the value after all of them; .fadd.exact adds exactly to a slot that starts from the value it has read
(R79, R183), no home agent having more words of the issue than slots. That the lanes act at one moment is the model's (assumption 5). -/
def Obligations.Atomics : Prop :=
  ∀ (e : Enc) (s t : State) (cx : Cx), IssuesAs s (.atom e) cx t →
    let code := cx.m % 8
    let b := cx.sval s cx.e.b.toNat
    let c := if code = 7 then cx.sval s cx.e.c.toNat else 0
    let halves := fun (x : DWord) => [BitVec.ofNat 32 x.toNat, BitVec.ofNat 32 (x.toNat / 2 ^ 32)]
    let op := if 5 ≤ code then cx.memOp t (.atom code) cx.space 8 (cx.scalarAcc t cx.space 8 cx.e.a.toNat (halves b) (halves c))
      else cx.memOp t (.atom code) cx.space 4 (cx.laneAccs t cx.space 4 cx.e.a.toNat (vecWords cx.e.b.toNat 1) (if code = 2 then vecWords cx.e.c.toNat 1 else noWords))
    let place := t.placeOf op
    let fold := fun (ls : List LaneAcc) (a : LaneAcc) => (ls.filter fun x => place x = place a).foldl (fun v x =>
      atomValue code x.lane cx.pc v (wordsNum x.data) (wordsNum x.cmp)) (t.bytesAt op.width (place a))
    (code = 4 → cx.space = 0 ∧ ∀ h, (op.lanes.filter fun a => match place a with | some (.glb pa) => homeOf pa = h | _ => false).length ≤ 1024) → t.plainMem → t.unwatched cx.blk → (t.block cx.blk).kind ≠ .shadow → Reaches t op →
    (∀ a ∈ op.lanes, ∀ c ws, place a = some (.spad c ws) → ∀ w ∈ ws, w / 8 * 8 ∉ (t.core c).marks) →
    (∀ a ∈ op.lanes, ∀ x ∈ op.lanes, place a = place x ∨ Apart op.width (place a) (place x)) →
    Completes s (.atom e) fun u => RegsSame s u ∧ Untouched s u op.width (op.lanes.map place) ∧
      (∀ a ∈ op.lanes, u.bytesAt op.width (place a) = fold op.lanes a) ∧
      (5 ≤ code → ∀ p ∈ cx.parts, ∀ a ∈ op.lanes.head?, Has u p [.scal cx.e.dst.toNat (BitVec.ofNat 64 (fold [] a))]) ∧
      (code < 5 → ∀ p ∈ cx.parts, ∃ ws, Has u p [.vec cx.e.dst.toNat ws] ∧ ∀ pre a post, op.lanes = pre ++ a :: post → a.wid = p.wid →
        (a.lane, BitVec.ofNat 32 (fold pre a)) ∈ ws)

/-- R247, R248, R231, R79, R183: MRED outside D-mode: each place ends with the value after all of its lanes, in ascending order; .fadd.exact adds
every lane exactly to the value that the place had, and what is read there is the sum rounded once, no home agent having more words of the issue than slots. That the lanes act at one moment is the
model's (assumption 5). -/
def Obligations.Reductions : Prop :=
  ∀ (e : Enc) (s t : State) (cx : Cx), IssuesAs s (.mred e) cx t →
    let code := cx.m % 8
    let op := cx.memOp t (.mred code) cx.space 4 (cx.laneAccs t cx.space 4 cx.e.a.toNat (vecWords cx.e.b.toNat 1) noWords)
    let place := t.placeOf op
    let own := fun (a : LaneAcc) => op.lanes.filter fun x => place x = place a
    (code = 7 → cx.space = 0 ∧ ∀ h, (op.lanes.filter fun a => match place a with | some (.glb pa) => homeOf pa = h | _ => false).length ≤ 1024) → t.plainMem → t.unwatched cx.blk → (t.block cx.blk).kind ≠ .shadow → Reaches t op →
    (∀ a ∈ op.lanes, ∀ c ws, place a = some (.spad c ws) → ∀ w ∈ ws, w / 8 * 8 ∉ (t.core c).marks) →
    (∀ a ∈ op.lanes, ∀ x ∈ op.lanes, place a = place x ∨ Apart 4 (place a) (place x)) →
    Completes s (.mred e) fun u => RegsSame s u ∧ Untouched s u 4 (op.lanes.map place) ∧
      ∀ a ∈ op.lanes, u.bytesAt 4 (place a) = if code = 7
        then ((own a).foldl (fun (v : ExactSum) x => v.add (decodeVal .fp32 (x.data.getD 0 0).toNat)) (ExactSum.empty.add (decodeVal .fp32 (t.bytesAt 4 (place a))))).read.toNat
        else ((own a).foldl (fun v x => mredValue code x.lane cx.pc v (x.data.getD 0 0)) (BitVec.ofNat 32 (t.bytesAt 4 (place a)))).toNat

/-- R251, R252, R240: FENCE goes on, and a full or .rel one has the writes to format windows that wait performed first; every other access is
performed by then. QFENCE goes on where none of the operations that it names stands in its queue; otherwise its members wait for exactly those.
STAGE raises the block's stage counter, which saturates. That no other access is outstanding at a FENCE is the model's (assumption 5). -/
def Obligations.FencesAndStage : Prop :=
  ∀ (e : Enc) (s t : State) (cx : Cx),
    let b := s.block cx.blk
    let queued := fun (id : Nat) =>
      (cx.m % 2 = 1 ∧ ∃ x, (x ∈ (s.core b.core).mq ∨ x ∈ (s.core b.core).mwait) ∧ x.blk = cx.blk ∧ x.id = id) ∨
      (cx.m / 2 % 2 = 1 ∧ ∃ x ∈ b.copies, x.id = id) ∨
      (cx.m / 4 % 2 = 1 ∧ ∃ x ∈ b.acp, cx.member x.wid = true ∧ x.id = id) ∨
      (cx.m / 8 % 2 = 1 ∧ ∃ q ∈ s.queues, ∃ x ∈ q.2.cmds, x.blk = some cx.blk ∧ (∃ w ∈ x.issuers, cx.member w = true) ∧ x.id = id)
    let n := if cx.m % 2 = 1 then cx.e.a.toNat else (cx.sval s cx.e.a.toNat).toNat % 2 ^ 32
    (IssuesAs s (.fence e) cx t → Completes s (.fence e) fun u => Calm (if cx.m / 8 % 4 = 1 then s else t.aliasDone) u ∧ cx.movesOn t u ∧
      (cx.m / 8 % 4 ≠ 1 → u.aliasQ = []) ∧ RegsSame s u) ∧
    (IssuesAs s (.qfence e) cx t → (∀ id, ¬ queued id) → Completes s (.qfence e) fun u => Calm s u ∧ cx.movesOn t u) ∧
    (Issues s (.qfence e) cx → (∃ id, queued id) → (cx.parts.map (·.wid)).Nodup → Completes s (.qfence e) fun u => RegsSame s u ∧ Untouched s u 0 [] ∧
      ∀ p ∈ cx.parts, (u.warpD p.wid).fence.isSome = true ∧ ∀ id, id ∈ (u.warpD p.wid).waits ↔ id ∈ (s.warpD p.wid).waits ∨ queued id) ∧
    (IssuesAs s (.stage e) cx t → Completes s (.stage e) fun u => RegsSame s u ∧ Untouched s u 0 [] ∧ cx.movesOn t u ∧
      ((s.block? cx.blk).isSome = true → (u.block cx.blk).stage = if n = 0 then b.stage else min (b.stage + n) (2 ^ 32 - 1)) ∧
      ∀ k, k ≠ cx.blk → u.block? k = s.block? k)

/-- R241 to R245: the barrier instructions at the object in words o and o + 4 of a core's scratchpad: MBINIT, MBARR and MBEXP change its fields and
make the completion test, and go on; MBWAIT goes on where its target is reached and parks otherwise; MBTEST's result is whether it is. Each marks
the word; no other byte and no register changes. -/
def Obligations.Barriers : Prop :=
  ∀ (e : Enc) (s t : State) (cx : Cx) (c o : Nat) (a : LaneAcc),
    let op := fun (k : AccKind) => cx.memOp t k cx.space 8 (cx.scalarAcc t cx.space 8 cx.e.a.toNat [] [])
    let at_ := fun (i : Instr) (k : AccKind) => IssuesAs s i cx t ∧ t.plainMem ∧ t.unwatched cx.blk ∧ (op k).lanes = [a] ∧
      t.placeOf (op k) a = some (.spad c [o, o + 4]) ∧ t.locPresent (.spad c [o, o + 4]) = true
    let frame := fun (u : State) => RegsSame s u ∧ Untouched s u 8 [some (.spad c [o, o + 4])] ∧ o ∈ (u.core c).marks
    let x := s.barObj c o
    let b := (cx.sval s cx.e.b.toNat).toNat
    let n := if b % 2 ^ 13 = 0 ∨ 4096 < b % 2 ^ 13 then 4096 else b % 2 ^ 13
    let hit : Prop := (x.epoch + 4096 - b % 4096) % 4096 < 2048
    (at_ (.mbinit e) (.mbinit n) → Completes s (.mbinit e) fun u => frame u ∧ cx.movesOn t u ∧ u.barObj c o = { epoch := 0, need := n, left := n, due := 0 }) ∧
    (at_ (.mbarr e) .mbarr → Completes s (.mbarr e) fun u => frame u ∧ cx.movesOn t u ∧ u.barObj c o = barTest { x with left := x.left - 1 }) ∧
    (at_ (.mbexp e) (.mbexp (b % 2 ^ 26)) → Completes s (.mbexp e) fun u => frame u ∧ cx.movesOn t u ∧ u.barObj c o = barTest { x with due := (x.due + b) % 2 ^ 26 }) ∧
    (at_ (.mbwait e) (.mbwait (b % 2 ^ 12)) → Completes s (.mbwait e) fun u => frame u ∧ u.barObj c o = x ∧ (hit → cx.movesOn t u) ∧
      (¬ hit → cx.parks u fun q => ∃ own sc m ws, q = .mbwait c o (b % 2 ^ 12) own sc m ws)) ∧
    (at_ (.mbtest e) (.mbtest (b % 2 ^ 12) (cx.m % 2 = 1)) → ∃ h : Bool, (h = true ↔ hit) ∧ Completes s (.mbtest e) fun u => frame u ∧ cx.movesOn t u ∧ u.barObj c o = x ∧
      ((cx.parts.map (·.wid)).Nodup → ∀ p ∈ cx.parts, Has u p [if cx.m % 2 = 1 then .scal cx.e.dst.toNat (if h then 1 else 0) else .mask cx.e.dst.toNat p.lanes (if h then p.lanes else 0)]))

/-- R237, R238: ACP: the copy of its lanes' pieces stands last in its block's queue, and every granule of a destination has one more copy in flight; no
byte is copied yet, and the lanes go on. -/
def Obligations.CopyIssue : Prop :=
  ∀ (e : Enc) (s t : State) (cx : Cx), IssuesAs s (.acp e) cx t →
    let b := s.block cx.blk
    let size := if cx.m / 2 % 4 = 3 then 64 else 4 * 2 ^ (cx.m / 2 % 4)
    let op := cx.memOp t (.load 0 false false) cx.space size (cx.laneAccs t cx.space size cx.e.b.toNat noWords noWords)
    let dst := fun (a : LaneAcc) => ((s.warpD a.wid).vget cx.e.a.toNat a.lane).toNat
    let object := (cx.sval s cx.e.c.toNat).toNat
    let source := fun (l : Option Loc) => match l with | some (.glb x) => some x | some (.die x) => some x | _ => none
    let granules := ((op.lanes.map fun a => (b.pbase + dst a) / 64).eraseDups)
    (∀ a ∈ op.lanes, (source (t.placeOf op a)).isSome = true ∧ dst a % size = 0 ∧ dst a + size ≤ b.psize) →
    (cx.m % 2 = 1 → object % 8 = 0 ∧ object + 8 ≤ b.psize) → (∀ g ∈ granules, (s.core b.core).inflight.get 0 g < 15) → (s.block? cx.blk).isSome = true →
    Completes s (.acp e) fun u => RegsSame s u ∧ Untouched s u 0 [] ∧ cx.movesOn t u ∧ (∃ x, (u.block cx.blk).acp = b.acp ++ [x] ∧ x.wid = cx.wid ∧ x.size = size ∧
        x.pieces = (op.lanes.filterMap fun a => (source (t.placeOf op a)).map fun p => (p, b.pbase + dst a)) ∧ x.granules = ascending granules ∧
        x.object = if cx.m % 2 = 1 then some (b.pbase + object) else none) ∧
      ∀ g, (u.core b.core).inflight.get 0 g = (s.core b.core).inflight.get 0 g + if g ∈ granules then 1 else 0

/-! ## Tiles and the matrix engine: classes 11 and 12 -/

/-- R190 to R193, R197 to R199: TALLOC takes the head of the free list of its partition, with the declared number of reads, where no request waits, and
its handle is every member's result; without a free tile the lanes park and the request waits last, in D-mode at the place of its key while the floor is not above it (R376). On a good handle TDROP brings the count
down by one or to zero, a tile without reads left and nothing in flight joins the tail of its free list under the next generation; TEXTEND
adds to the count; TQUERY reads the count, the offset, the number of free tiles, or takes the oldest itinerary handle. That the key of a
collective has its latest arrival's clock is the model's (assumption 62). -/
def Obligations.Tiles : Prop :=
  (∀ (e : Enc) (s t : State) (cx : Cx), IssuesAs s (.talloc e) cx t →
      let b := s.block cx.blk
      let pool := cx.e.a.toNat
      let part := allocPart b pool (s.warpD cx.wid).index (cx.m % 2 = 1)
      let key := pool * 8 + part
      let reads := cx.e.b.toNat
      (s.block? cx.blk).isSome = true → (poolOf b.record pool).valid = true → ((poolOf b.record pool).part part).2 ≠ 0 → pool < 8 →
      (s.floorHolds b (cx.clock :: (b.waiters.get [] key).map (·.clock)) → Completes s (.talloc e) fun u => RegsSame s u ∧ Untouched s u 0 [] ∧ (u.block cx.blk).free = b.free ∧
        ∃ x, JoinedByKey (b.waiters.get [] key) ((u.block cx.blk).waiters.get [] key) x ∧ x.clock = cx.clock ∧ x.index = (s.warpD cx.wid).index ∧ x.reads = reads ∧
          cx.parks u fun q => q = .talloc x.id) ∧
      ((s.ctx b.ctx).dmode = false → (∀ x r, b.free.get [] key = x :: r → b.waiters.get [] key = [] → Completes s (.talloc e) fun u => RegsSame s u ∧ Untouched s u 0 [] ∧
        (∀ p ∈ cx.parts, Has u p [.scal cx.e.dst.toNat (BitVec.ofNat 64 (pool * 2 ^ 29 + x * 2 ^ 18 + (b.tile (tileKey pool x)).gen * 2 ^ 12))]) ∧
        (u.block cx.blk).free.get [] key = r ∧ (u.block cx.blk).tile (tileKey pool x) = { b.tile (tileKey pool x) with count := reads, pend := 0, free := false, byEntry := false }) ∧
      (b.free.get [] key = [] → Completes s (.talloc e) fun u => RegsSame s u ∧ Untouched s u 0 [] ∧
        ∃ x, (u.block cx.blk).waiters.get [] key = b.waiters.get [] key ++ [x] ∧ x.reads = reads ∧ cx.parks u fun q => q = .talloc x.id))) ∧
  (∀ (e : Enc) (s : State) (cx : Cx) (p t g : Nat),
      let b := s.block cx.blk
      let h := cx.sval s cx.e.a.toNat
      let x := b.tile (tileKey p t)
      let frame := fun (u : State) => RegsSame s u ∧ Untouched s u 0 []
      let left := if cx.m % 2 = 1 then 0 else x.count - 1
      let part := p * 8 + (poolOf b.record p).partOf t
      let good : Prop := b.handle? h = some (p, t, g) ∧ b.overread p t (some g) = false
      let d := cx.e.dst.toNat
      (s.block? cx.blk).isSome = true →
      (Issues s (.tdrop e) cx → good →
        (left ≠ 0 ∨ x.pend ≠ 0 ∨ s.tileBusy b p t = true → Completes s (.tdrop e) fun u => frame u ∧ (u.block cx.blk).tile (tileKey p t) = { x with count := left }) ∧
        (left = 0 → x.pend = 0 → s.tileBusy b p t = false → b.waiters.get [] part = [] → Completes s (.tdrop e) fun u => frame u ∧
          (u.block cx.blk).tile (tileKey p t) = { count := 0, pend := 0, gen := (x.gen + 1) % 64, free := true, clock := cx.clock } ∧
          (u.block cx.blk).free.get [] part = b.free.get [] part ++ [t])) ∧
      (Issues s (.textend e) cx → good → x.count + cx.e.b.toNat ≤ 65535 → Completes s (.textend e) fun u => frame u ∧
        (u.block cx.blk).tile (tileKey p t) = { x with count := x.count + cx.e.b.toNat }) ∧
      (Issues s (.tquery e) cx →
        (cx.m % 4 = 0 → b.handle? h = some (p, t, g) → Completes s (.tquery e) fun u => Pending cx s u 0 fun _ => [.scal d (BitVec.ofNat 64 (if x.gen = g then x.count else 0))]) ∧
        (cx.m % 4 = 1 → b.handle? h = some (p, t, g) → Completes s (.tquery e) fun u => Pending cx s u 0 fun _ => [.scal d (BitVec.ofNat 64 ((poolOf b.record p).offset + t * (poolOf b.record p).size))]) ∧
        (cx.m % 4 = 2 → (poolOf b.record cx.e.a.toNat).valid = true → Completes s (.tquery e) fun u => Pending cx s u 0 fun _ =>
          [.scal d (BitVec.ofNat 64 (b.free.get [] (cx.e.a.toNat * 8 + allocPart b cx.e.a.toNat (s.warpD cx.wid).index false)).length)]) ∧
        (cx.m % 4 = 3 → b.handles = [] → Completes s (.tquery e) fun u => Pending cx s u 0 fun _ => [.scal d 0xFFF]) ∧
        (∀ y r, cx.m % 4 = 3 → b.handles = y :: r → Completes s (.tquery e) fun u => frame u ∧ (u.block cx.blk).handles = r ∧
          ∀ q ∈ cx.parts, Has u q [.scal d (BitVec.ofNat 64 y.toNat)])))


/-- R206, R211 to R227: the instructions of class 12 whose checks pass put one entry at the end of a matrix queue that has a place, with what they
captured, and go on; nothing is computed yet. Each consuming operand takes one of its tile's reads, which stands in flight until the entry completes (R213). A full queue leaves the instruction waiting at its issue; an ADRAIN .tile that has its tile waits
in its warps instead, in D-mode at the place of its key while the floor is not above it (R376). That the key of a collective has its latest
arrival's clock is the model's (assumption 62). -/
def Obligations.MatrixIssue : Prop :=
  ∀ (e : Enc) (s t : State) (cx : Cx),
    let b := s.block cx.blk
    let core := b.core
    let type := cx.m % 16
    let chunks := cx.e.c.toNat + 1
    let row := 4 * chunks * mtxWidth type
    let rows := fun (bit : Nat) => if cx.m / 2 ^ bit % 2 = 1 then 64 else 128
    let ext := (cx.e.lit.getD 0).toNat
    let sb := (cx.sval s cx.e.b.toNat).toNat
    let place : Prop := (s.core core).mq.length < 16 ∧ (s.core core).mwait = []
    let joins := fun (i : Instr) (os : List MtxOperand) (P : MEntry → Prop) => b.grantsAll os → ((∃ o ∈ os, o.cons ≠ none) → (s.block? cx.blk).isSome = true) →
      (place → Completes s i fun u => RegsSame s u ∧ Untouched s u 0 [] ∧ cx.movesOn t u ∧
        ∃ x, (u.core core).mq = (s.core core).mq ++ [x] ∧ x.blk = cx.blk ∧ x.started = false ∧ x.ranks = (cx.parts.map fun p => (p.wid, p.rank, p.lanes)) ∧ P x ∧
          readsOperand (u.block cx.blk) os[0]? x.readA ∧ readsOperand (u.block cx.blk) os[1]? x.readB ∧
          ∀ k, (u.block cx.blk).tile k = { b.tile k with count := (b.tile k).count - takesOf os k, pend := (b.tile k).pend + takesOf os k }) ∧
      (¬ place → Completes s i fun u => RegsSame s u ∧ Untouched s u 0 [] ∧ (u.core core).mq = (s.core core).mq ∧ (u.core core).mwait = (s.core core).mwait ∧
        ∀ k, u.block? k = s.block? k)
    (∀ i ∈ [Instr.mma e, .mmaw e], ∀ oa ob, IssuesAs s i cx t →
      b.checkOperand (cx.sval s cx.e.a.toNat) (rows 5) row (rows 5 = 128) false = .ok oa →
      b.checkOperand (cx.sval s cx.e.b.toNat) (rows 4) row (rows 4 = 128) (i = .mmaw e) = .ok ob →
      (i = .mmaw e → (Window2.of ext).bad (32 * chunks) (mtxWidth type) ob.len = false) →
      joins i [oa, ob] fun x => x.op = (if i = .mma e then 0 else 2) ∧ x.type = type ∧ x.shape = cx.m / 16 ∧ x.tile = cx.e.dst.toNat ∧ x.k = chunks ∧ x.ext = ext ∧
        x.a = oa.start ∧ x.pitchA = oa.step ∧ x.halfA = oa.half ∧ x.b = ob.start ∧ x.pitchB = ob.step ∧ x.halfB = ob.half) ∧
    (∀ oa ob, IssuesAs s (.mmas e) cx t → cx.rangeBad s (s.rangeUses b cx.wid cx.op cx.e) = none →
      b.checkOperand (cx.sval s cx.e.a.toNat) (rows 5) row (rows 5 = 128) false = .ok oa →
      b.checkOperand (cx.sval s cx.e.b.toNat) (rows 4) row (rows 4 = 128) false = .ok ob →
      cx.scaleExited s (rows 5 * chunks) = false → cx.scaleExited s (rows 4 * chunks) = false →
      joins (.mmas e) [oa, ob] fun x => x.op = 1 ∧ x.type = type ∧ x.tile = cx.e.dst.toNat ∧ x.k = chunks ∧ x.ext = ext ∧ x.a = oa.start ∧ x.b = ob.start ∧
        x.scalesA = cx.scales s (ext % 512) (ext / 2 ^ 20 % 4) (rows 5 * chunks) ∧ x.scalesB = cx.scales s (ext / 512 % 512) (ext / 2 ^ 22 % 4) (rows 4 * chunks)) ∧
    (IssuesAs s (.aclr e) cx t → joins (.aclr e) [] fun x => x.op = 3 ∧ x.tile = cx.e.dst.toNat) ∧
    (∀ o, IssuesAs s (.ald e) cx t → b.checkOperand (cx.sval s cx.e.a.toNat) 128 (if cx.m % 4 = 0 then 512 else 256) true false = .ok o →
      joins (.ald e) [o] fun x => x.op = 4 ∧ x.type = cx.m % 4 ∧ x.tile = cx.e.dst.toNat ∧ x.a = o.start ∧ x.pitchA = o.step) ∧
    (IssuesAs s (.adrain e) cx t → cx.m / 16 = 0 → cx.rangeBad s (s.rangeUses b cx.wid cx.op cx.e) = none →
      sb / 2 ^ 15 = 0 → sb / 2 ^ 7 % 2 = 0 → sb % 128 + sb / 2 ^ 8 % 128 + 1 ≤ 128 →
      joins (.adrain e) [] fun x => x.op = 5 ∧ x.shape = 0 ∧ x.type = cx.m % 16 ∧ x.tile = cx.e.a.toNat ∧ x.dst = cx.e.dst.toNat ∧ x.sb.toNat = sb) ∧
    (IssuesAs s (.adrain e) cx t → cx.m / 16 = 1 →
      let bytes := 16 * convWidth (cx.m % 16)
      let pitch := sb / 2 ^ 42 % 2 ^ 14 * 8
      let step := if pitch = 0 then bytes else pitch
      sb / 2 ^ 56 = 0 → sb % 2 ^ 21 % 64 = 0 → bytes ≤ step → scaleBad b (cx.m % 16) sb = false → sb % 2 ^ 21 + 127 * step + bytes ≤ b.psize →
      joins (.adrain e) [] fun x => x.op = 5 ∧ x.shape = 1 ∧ x.type = cx.m % 16 ∧ x.tile = cx.e.a.toNat ∧ x.a = sb % 2 ^ 21 ∧ x.pitchA = step) ∧
    (IssuesAs s (.adrain e) cx t → 2 ≤ cx.m / 16 →
      let pool := sb % 8
      let part := allocPart b pool (s.warpD cx.wid).index (sb / 8 % 2 = 1)
      let key := pool * 8 + part
      let size := 16 * convWidth (cx.m % 16)
      let entry := fun (x : MEntry) => x.blk = cx.blk ∧ x.op = 5 ∧ x.shape = 2 ∧ x.type = cx.m % 16 ∧ x.tile = cx.e.a.toNat ∧ x.sb.toNat = sb ∧ x.pitchA = size
      (s.block? cx.blk).isSome = true → (poolOf b.record pool).valid = true → ((poolOf b.record pool).part part).2 ≠ 0 →
      sb / 16 % 16 = 0 → sb / 2 ^ 8 % 256 ≠ 0 → sb / 2 ^ 16 % 32 = 0 → sb / 2 ^ 42 = 0 → scaleBad b (cx.m % 16) sb = false → 128 * size ≤ (poolOf b.record pool).size →
      (s.floorHolds b (cx.clock :: (b.waiters.get [] key).map (·.clock)) → Completes s (.adrain e) fun u => RegsSame s u ∧ Untouched s u 0 [] ∧ (u.core core).mq = (s.core core).mq ∧
        (u.block cx.blk).free = b.free ∧ ∃ x y, JoinedByKey (b.waiters.get [] key) ((u.block cx.blk).waiters.get [] key) x ∧ x.clock = cx.clock ∧ x.index = (s.warpD cx.wid).index ∧
          x.who = .adrain pool y ∧ entry y ∧ x.reads = sb / 2 ^ 8 % 256 ∧ cx.parks u fun q => q = .talloc x.id) ∧
      ((s.ctx b.ctx).dmode = false → (∀ y r, b.free.get [] key = y :: r → b.waiters.get [] key = [] → Completes s (.adrain e) fun u => RegsSame s u ∧ Untouched s u 0 [] ∧
        (∃ x, entry x ∧ x.a = b.tileOffset pool y ∧ (place → (u.core core).mq = (s.core core).mq ++ [x]) ∧
          (¬ place → (u.core core).mq = (s.core core).mq ∧ (u.core core).mwait = (s.core core).mwait ++ [x])) ∧ (u.block cx.blk).free.get [] key = r ∧
        ∀ p ∈ cx.parts, Has u p [.scal cx.e.dst.toNat (BitVec.ofNat 64 (pool * 2 ^ 29 + y * 2 ^ 18 + (b.tile (tileKey pool y)).gen * 2 ^ 12))]) ∧
      (b.free.get [] key = [] → Completes s (.adrain e) fun u => RegsSame s u ∧ Untouched s u 0 [] ∧ (u.core core).mq = (s.core core).mq ∧
        ∃ x y, (u.block cx.blk).waiters.get [] key = b.waiters.get [] key ++ [x] ∧ x.who = .adrain pool y ∧ entry y ∧ x.reads = sb / 2 ^ 8 % 256 ∧
          cx.parks u fun q => q = .talloc x.id))) ∧
    (IssuesAs s (.msync e) cx t → joins (.msync e) [] fun x => x.op = 6) ∧
    (IssuesAs s (.msync e) cx t → place → Completes s (.msync e) fun u => ∀ p ∈ cx.parts, ∃ y ∈ (u.warpD p.wid).windows, y.done = false ∧ y.leftS = cx.look)

/-- R207, R210, R215, R221 to R227, R193: a matrix entry starts when it is first and every granule that it touches is present; when it completes
it leaves the queue with its results written: accumulator words, rows of the scratchpad with their scales, or its members' windows. A consuming
read that no entry holds ends, and its tile returns once no read is left. That an entry reads and writes at its completion is the model's
(assumption 42). -/
def Obligations.MatrixEntries : Prop :=
  ∀ (s : State) (core : Nat),
    let c := s.core core
    let ready := fun (e : MEntry) => ∀ x ∈ s.readRanges e ++ s.writeRanges e, ∀ g, x.1 / 64 ≤ g → 64 * g < x.1 + x.2 → c.present (64 * g) = true
    (c.mq = [] → ∀ i ∈ [Instr.matrixEntryStart core, .matrixEntryComplete core], Completes s i fun u => u = s) ∧
    (∀ e r, c.mq = e :: r →
      (e.started = false → ready e → Completes s (.matrixEntryStart core) fun u => u = s.setCore core { c with mq := { e with started := true } :: r }) ∧
      (e.started = true ∨ ¬ ready e → Completes s (.matrixEntryStart core) fun u => u = s) ∧
      (e.started = false → Completes s (.matrixEntryComplete core) fun u => u = s)) ∧
    (∀ e r, c.mq = e :: r → e.started = true → (s.block e.blk).core = core → s.platform.errors = [] → (∀ x ∈ s.ctxs, x.2.watches = []) → s.parkedOps = [] →
      e.readA = none → e.readB = none → Completes s (.matrixEntryComplete core) fun u =>
        let base := (s.block e.blk).pbase
        let acc := fun (i j : Nat) => c.acc.get 0 (accKey e.tile i j)
        let width := convWidth e.type
        let at_ := fun (i o : Nat) => Map.get 0 (u.core core).spad (base + e.a + i * e.pitchA + o)
        let scales := base + e.sb.toNat / 2 ^ 21 % 2 ^ 21
        let word := fun (i j : Nat) => numOf (c.readSpad (base + e.a + i * e.pitchA + (if e.type = 0 then 4 else 2) * j) (if e.type = 0 then 4 else 2))
        (u.core core).mq = r ++ c.mwait.take 1 ∧ (u.core core).mwait = c.mwait.drop 1 ∧ RegsSame s u ∧ u.mem = s.mem ∧ u.dieSpad = s.dieSpad ∧
        (e.op ≤ 2 → (∀ i j, i < (entryShape e).1 → j < (entryShape e).2 → (u.core core).acc.get 0 (accKey e.tile (64 * e.halfA + i) (64 * e.halfB + j)) =
            s.mmaWord e i j (acc (64 * e.halfA + i) (64 * e.halfB + j))) ∧
          (∀ k, (∀ i j, i < (entryShape e).1 → j < (entryShape e).2 → k ≠ accKey e.tile (64 * e.halfA + i) (64 * e.halfB + j)) → (u.core core).acc.get 0 k = c.acc.get 0 k)) ∧
        (e.op = 3 → ∀ k, (u.core core).acc.get 0 k = if k / 16384 = e.tile then 0 else c.acc.get 0 k) ∧
        (e.op = 4 → (∀ i j, i < 128 → j < 128 → (u.core core).acc.get 0 (accKey e.tile i j) = BitVec.ofNat 32 (if e.type = 0 then word i j
            else encodeVal .fp32 .rn false 0 (decodeVal (if e.type = 1 then .bf16 else .fp16) (word i j)))) ∧
          (∀ k, k / 16384 ≠ e.tile → (u.core core).acc.get 0 k = c.acc.get 0 k)) ∧
        (5 ≤ e.op → (u.core core).acc = c.acc) ∧ (e.op ≠ 5 ∨ e.shape = 0 → (u.core core).spad = c.spad) ∧
        (e.op = 5 → e.shape ≠ 0 → e.type ≤ 14 →
          (∀ o, (∀ x ∈ s.writeRanges e, ¬ (x.1 ≤ o ∧ o < x.1 + x.2)) → Map.get 0 (u.core core).spad o = Map.get 0 c.spad o) ∧
          (e.type ≤ 2 → 16 * width ≤ e.pitchA → ∀ i j k, i < 128 → j < 128 → k < width / 8 →
            at_ i (j * (width / 8) + k) = BitVec.ofNat 8 (convWord e.type (acc i j) / 256 ^ k)) ∧
          (3 ≤ e.type → 16 * width ≤ e.pitchA → (scales + 512 ≤ base + e.a ∨ base + e.a + 128 * e.pitchA ≤ scales) → ∀ i n, i < 128 → n < 4 →
            let x := encodeBlock (convFmt e.type) (if 9 ≤ e.type then .sf8 else .e8m0) ((List.range 32).map fun j => decodeVal .fp32 (acc i (32 * n + j)).toNat)
            (∀ k, k < 4 * width → at_ i (n * (4 * width) + k) = BitVec.ofNat 8 (packCodes width x.2 / 256 ^ k)) ∧
            Map.get 0 (u.core core).spad (scales + 4 * i + n) = BitVec.ofNat 8 x.1)) ∧
        (e.op = 5 → e.shape = 0 → e.type = 0 → 0 < e.ext → ∀ wid win rank ls y, e.wins = [(wid, win)] → e.ranks = [(wid, rank, ls)] →
          y ∈ (s.warpD wid).windows → y.id = win → ∃ z ∈ (u.warpD wid).windows, z.id = win ∧ z.ready = true ∧
            ∀ i l, l < (s.block e.blk).width → inSet ls l = true →
              let q := i * e.ext + rank * (s.block e.blk).width + l
              q < (e.sb.toNat / 2 ^ 8 % 128 + 1) * 128 → ∃ ws, .vec (e.dst + i) ws ∈ z.writes ∧ (l, acc (e.sb.toNat % 128 + q / 128) (q % 128)) ∈ ws) ∧
        (e.op = 5 → e.shape = 0 → e.type = 1 ∨ e.type = 2 → 0 < e.ext → ∀ wid win rank ls y, e.wins = [(wid, win)] → e.ranks = [(wid, rank, ls)] →
          y ∈ (s.warpD wid).windows → y.id = win → ∃ z ∈ (u.warpD wid).windows, z.id = win ∧ z.ready = true ∧
            ∀ i l, l < (s.block e.blk).width → inSet ls l = true →
              let q := i * e.ext + rank * (s.block e.blk).width + l
              let half := fun (f : Nat) => convWord e.type (acc (e.sb.toNat % 128 + f / 128) (f % 128))
              q < (e.sb.toNat / 2 ^ 8 % 128 + 1) * 64 → ∃ ws, .vec (e.dst + i) ws ∈ z.writes ∧ (l, BitVec.ofNat 32 (half (2 * q) + 2 ^ 16 * half (2 * q + 1))) ∈ ws) ∧
        (e.op = 6 → ∀ m ∈ e.wins, ∀ y ∈ (u.warpD m.1).windows, y.id = m.2 → y.done = true)) ∧
    (∀ blk id b r, s.block? blk = some b → b.ended = false → s.parkedOps = [] → b.reads.find? (fun r => r.id = id) = some r →
      let x := b.tile r.tile
      let p := r.tile / 2048
      let part := p * 8 + (poolOf b.record p).partOf (r.tile % 2048)
      let held := (s.core b.core).mq.any (fun e => e.readA = some id || e.readB = some id) || (s.core b.core).mwait.any fun e => e.readA = some id || e.readB = some id
      let back : Prop := x.free = false ∧ x.count = 0 ∧ x.pend ≤ 1 ∧ s.tileBusy b p (r.tile % 2048) = false
      (held = true → Completes s (.consumingReadComplete blk id) fun u => u = s) ∧
      (held = false → ¬ back → Completes s (.consumingReadComplete blk id) fun u => RegsSame s u ∧ u.mem = s.mem ∧
        (u.block blk).tile r.tile = { x with pend := x.pend - 1 } ∧ (u.block blk).reads = b.reads.filter fun q => q.id != id) ∧
      (held = false → back → b.waiters.get [] part = [] → Completes s (.consumingReadComplete blk id) fun u => RegsSame s u ∧ u.mem = s.mem ∧
        (u.block blk).tile r.tile = { count := 0, pend := 0, gen := (x.gen + 1) % 64, free := true, clock := r.clock } ∧
        (u.block blk).free.get [] part = b.free.get [] part ++ [r.tile % 2048]))

/-! ## The porter, rings and system instructions: classes 13 and 14 -/

/-- R342 to R345, R347, R349, R350: PUT, GET, PATOM and PCOUNT on queues that the context has bound put their commands at the end of the queue, one for
each lane in ascending order or one in all, and POST enters the table of posted requests; nothing moves yet. Where a queue has no room for all of
them, or the table is full, the instruction waits at its issue. -/
def Obligations.PorterCommands : Prop :=
  ∀ (e : Enc) (s t : State) (cx : Cx),
    let b := s.block cx.blk
    let q := cx.e.a.toNat
    let x := s.queue q
    let frame := fun (u : State) => RegsSame s u ∧ Untouched s u 0 []
    let bound := fun (q : Nat) => (s.queue q).st ≠ .unbound ∧ (s.queue q).slot = b.ctx ∧ (s.queue q).gen = (s.ctx b.ctx).gen
    let runs : Prop := b.kind ≠ .shadow ∧ bound q
    let room := fun (n : Nat) => (x.cmds.filter fun c => !c.forward).length + n ≤ 1024
    let joins := fun (i : Instr) (ls : List NetLane) (P : NetLane → Cmd → Prop) =>
      (room ls.length → x.st ≠ .error → Completes s i fun u => frame u ∧ cx.movesOn t u ∧ ∃ cs, (u.queue q).cmds = x.cmds ++ cs ∧ cs.length = ls.length ∧ (∀ z ∈ ls.zip cs, P z.1 z.2) ∧
        ∀ c ∈ cs, c.blk = some cx.blk ∧ c.issuers = cx.parts.map Part.wid ∧ c.sent = 0 ∧ c.acked = 0) ∧
      (¬ room ls.length → Completes s i fun u => frame u ∧ u.queues = s.queues)
    let here := fun (a : DWord) => x.port = 16 ∨ a.toNat / 2 ^ 54 = x.chip
    let raw := match cx.lit with | some l => l.toNat | none => (cx.sval s cx.e.dst.toNat).toNat
    let lanes := cx.netLanes s (cx.m / 4 % 2 = 1)
    let each := cx.netLanes s (!cx.S)
    let single : NetLane := { wid := cx.wid, lane := 0, b := 0, c := 0 }
    (IssuesAs s (.put e) cx t → runs → (∀ l ∈ lanes, l.c.toNat / 2 ^ 54 = s.chip) →
      (cx.m / 2 % 2 = 0 → (∀ l ∈ lanes, here l.b) → raw ≤ 2 ^ 30 →
        joins (.put e) lanes fun l c => c.kind = .put none ∧ c.remote = l.b ∧ c.local_ = l.c ∧ c.len = raw ∧ c.cpl = (cx.m % 2 = 1)) ∧
      (cx.m / 2 % 2 = 1 → raw % 2 ^ 32 ≤ 4088 →
        joins (.put e) lanes fun l c => c.kind = .put (some (BitVec.ofNat 32 (raw / 2 ^ 32))) ∧ c.local_ = l.c ∧ c.len = raw % 2 ^ 32 ∧ c.cpl = (cx.m % 2 = 1))) ∧
    (IssuesAs s (.get e) cx t → runs → (∀ l ∈ lanes, l.c.toNat / 2 ^ 54 = s.chip ∧ here l.b) → 1 ≤ raw → raw ≤ 2 ^ 30 →
      joins (.get e) lanes fun l c => c.kind = .get ∧ c.remote = l.b ∧ c.local_ = l.c ∧ c.len = raw ∧ c.cpl = (cx.m % 2 = 1)) ∧
    (IssuesAs s (.patom e) cx t → runs → (∀ l ∈ each, here l.b ∧ (x.port = 16 ∨ l.b.toNat % 8 = 0)) →
      joins (.patom e) each fun l c => c.remote = l.b ∧ c.len = 8 ∧ c.dst = cx.e.dst.toNat ∧ c.lane = (if cx.S then none else some l.lane) ∧
        c.kind = .patom (cx.m % 2 = 1) l.c (if cx.m % 2 = 0 then 0 else if cx.S then cx.sval s (cx.e.c.toNat + 1) else (s.warpD l.wid).vpair (cx.e.c.toNat + 2) l.lane)) ∧
    (IssuesAs s (.pcount e) cx t → runs → bound cx.e.b.toNat →
      joins (.pcount e) [single] fun _ c => c.kind = .pcount cx.e.b.toNat (BitVec.ofNat 32 (cx.sval s cx.e.c.toNat).toNat) ∧ c.cpl = (cx.m % 2 = 1)) ∧
    (∀ pa body, IssuesAs s (.post e) cx t → runs → t.plainMem → t.checkGlb (coreOf cx.wid) b.ctx 64 .read false (cx.sval s cx.e.b.toNat).toNat = .ok (.glb pa) →
      body = BitVec.ofNat 512 (t.bytesAt 64 (some (.glb pa))) → cx.postFault t body = none →
      (s.posted.length < 8192 → Completes s (.post e) fun u => frame u ∧ cx.movesOn t u ∧ (u.queue q).posts = (x.posts + 1) % 2 ^ 32 ∧ ∃ r, u.posted = s.posted ++ [r] ∧
        r.queue = q ∧ r.tag = BitVec.ofNat 32 (cx.sval s cx.e.c.toNat).toNat ∧ r.number = x.posts ∧ r.body = body ∧ r.blk = some cx.blk) ∧
      (8192 ≤ s.posted.length → Completes s (.post e) fun u => frame u ∧ u.posted = s.posted))

/-- R336, R337, R351 to R354, R358: the ring instructions on a ring whose header and slots they can reach: RPUSH and SVC claim consecutive slots and
fill each one's payload before its sequence; RPOP takes the records at a consumer's cursor and moves the cursor; RWAIT passes once its record
or its room is there; RCUR reads. All but SVC go on then; where there is no room or no record yet, the lanes park and memory is as before. SVC's
participating lanes go on, the others stay, and its warp leaves the core with its sequence, the results that have come delivered, and its record and its block's shared
sections in the block's image. That its BLOCK event is stamped and put once on the outbox at the issue is the model's (assumptions 47 and 50), and so is the room of the cloakroom in which the
image stands (assumption 37). -/
def Obligations.RingInstructions : Prop :=
  ∀ (e : Enc) (s t : State) (cx : Cx),
    let b := s.block cx.blk
    let header := cx.sval s cx.e.a.toNat
    let parked := fun (i : Instr) => Completes s i fun u => RegsSame s u ∧ u.mem = s.mem ∧ cx.parks u fun q => ∃ o, q = .ring o
    let room := fun (r : Ring) (k : Nat) => ∀ i, i < r.ncons → r.tail + k ≤ r.cursors.getD i 0 + 2 ^ r.lgn
    let reach := fun (v : State) (r : Ring) (n k : Nat) (acc : Access) => ∀ j, j < k → ∃ pa, v.translateEngine r.ctx (r.slot (n + j)) acc = .ok pa
    let runs := fun (i : Instr) => IssuesAs s i cx t ∧ b.kind ≠ .shadow ∧ t.plainMem
    let word := fun (v : State) (r : Ring) (n k : Nat) => ((v.readVirt r.ctx (r.slot n + 8) k).1.map numOf).getD 0
    let sources := cx.netLanes s (!cx.S)
    let takers := cx.parts.flatMap fun p => (cx.lanesOf p).map fun l => (p.wid, l)
    let i := cx.m % 8
    (∀ r v, runs (.rpush e) → t.readRing b.ctx header = .ok r v → sources.length ≤ 2 ^ r.lgn →
      let copy := fun (l : NetLane) => (v.readVirt r.ctx (va54 l.b) (2 ^ r.lgs - 8)).1
      (∀ l ∈ sources, (∃ x, t.checkGlb (coreOf l.wid) b.ctx 8 .read false l.b.toNat = .ok x) ∧ (copy l).isSome = true) →
      (room r sources.length → reach v r r.tail sources.length .write → ∀ a, v.claim r sources.length = some a →
        Completes s (.rpush e) fun u => RegsSame s u ∧ cx.movesOn t u ∧ u.mem = (a.fillSlots r cx.clock r.tail (sources.map fun l => (copy l).getD [])).mem) ∧
      (¬ room r sources.length → parked (.rpush e))) ∧
    (∀ r v, runs (.rpop e) → t.readRing b.ctx header = .ok r v → i < r.ncons →
      let c := r.cursors.getD i 0
      let k := if cx.S then 1 else takers.length
      k ≤ 2 ^ r.lgn → reach v r c k .read →
      ((∀ j, j < k → v.slotSeq r (c + j) = c + j) → ∀ a, v.writeVirt r.ctx (r.header + 0x40 + 8 * i) (bytesOf 8 ((c + k) % 2 ^ 64)) = some a →
        Completes s (.rpop e) fun u => RegsSame s u ∧ cx.movesOn t u ∧ u.mem = a.mem ∧
          (cx.S = true → ∀ p ∈ cx.parts, Has u p [.scal cx.e.dst.toNat (BitVec.ofNat 64 (word v r c 8))]) ∧
          (cx.S = false → ∀ p ∈ cx.parts, ∃ ws, Has u p [.vec cx.e.dst.toNat ws] ∧ ∀ j, (h : j < takers.length) → takers[j].1 = p.wid →
            (takers[j].2, BitVec.ofNat 32 (word v r (c + j) 4)) ∈ ws)) ∧
      ((∃ j, j < k ∧ v.slotSeq r (c + j) ≠ c + j) → parked (.rpop e))) ∧
    (∀ r v, runs (.rwait e) → t.readRing b.ctx header = .ok r v →
      let n := (cx.sval s cx.e.b.toNat).toNat
      let passes := Completes s (.rwait e) fun u => RegsSame s u ∧ u.mem = s.mem ∧ cx.movesOn t u
      (cx.m % 2 = 0 → reach v r n 1 .read → (v.slotSeq r n = n → passes) ∧ (v.slotSeq r n ≠ n → parked (.rwait e))) ∧
      (cx.m % 2 = 1 → ((∀ j, j < r.ncons → n < r.cursors.getD j 0 + 2 ^ r.lgn) → passes) ∧
        ((∃ j, j < r.ncons ∧ r.cursors.getD j 0 + 2 ^ r.lgn ≤ n) → parked (.rwait e)))) ∧
    (∀ r v, runs (.rcur e) → t.readRing b.ctx header = .ok r v → i < r.ncons → Completes s (.rcur e) fun u => RegsSame s u ∧ u.mem = s.mem ∧ cx.movesOn t u ∧
      ∀ p ∈ cx.parts, Has u p [.scal cx.e.dst.toNat (BitVec.ofNat 64 (match cx.m / 8 % 4 with
        | 0 => r.cursors.getD i 0
        | 1 => s.chip * 2 ^ 54 + r.base + r.cursors.getD i 0 % 2 ^ r.lgn * 2 ^ r.lgs
        | _ => r.tail))]) ∧
    (∀ p r v, runs (.svc e) → cx.parts = [p] → (s.warpD p.wid).blk = cx.blk → t.readRing b.ctx (cx.sval s 62) = .ok r v → 32 + 32 * (cx.lanesOf p).length ≤ 2 ^ r.lgs - 8 →
      (room r 1 → s.originFull = false → t.resultsOwed p.wid = false → reach v r r.tail 1 .write → ∀ a, v.claim r 1 = some a → Completes s (.svc e) fun u =>
        RegsSame (t.flushWarp p.wid) u ∧ (u.warpD p.wid).offcore = some (BitVec.ofNat 64 r.tail) ∧
        (cx.free t → cx.noLoopEnd t p.wid → Stand u p.wid p.lanes cx.next ∧ ∀ l, inSet (p.sel &&& ~~~ p.lanes) l = true → (u.warpD p.wid).pc l = (t.warpD p.wid).pc l) ∧
        (∃ w : Warp, w.offcore = some (BitVec.ofNat 64 r.tail) ∧ let x := (t.flushWarp p.wid).warpD p.wid
          w.v = x.v ∧ w.s = x.s ∧ w.k = x.k ∧ u.mem = (((((a.fillSlots r cx.clock r.tail [cx.svcPayload s p]).mergeAlias a.aliasQ.length).aliasDone.writeImageWarp (s.imageBase b.ctx cx.blk) b w).writeImageShared
            (s.imageBase b.ctx cx.blk) b (((s.core b.core).mq ++ (s.core b.core).mwait).filter fun y => y.blk = cx.blk))).mem) ∧
        (s.isMember = true → s.hytur.fenced = false → ∃ x, u.outbox = s.outbox ++ [.datagram x] ∧ msgType x.msg = 3 ∧ msgCtx x.msg = b.ctx % 64)) ∧
      (¬ room r 1 → parked (.svc e)))

/-- R355 to R357, R360 to R362: LAUNCH and EVSUB on a member chip hand one event to the origin queue, LAUNCH with its record, whose site it has written,
and with the next number of its control core; a chip that is no member, and an origin queue that is full, let them wait at their issue; EVWAIT returns a recorded outcome and parks otherwise; TIME, CLK, CTXQ and DGREAD read the
clocks, the context and the digests. That an event is stamped and put once on the outbox when it enters the queue is the model's (assumptions 47 and 50). -/
def Obligations.SystemInstructions : Prop :=
  ∀ (e : Enc) (s t : State) (cx : Cx),
    let b := s.block cx.blk
    let c := s.ctx b.ctx
    let tables := s.hytur.tables
    let d := cx.e.dst.toNat
    let a := cx.sval s cx.e.a.toNat
    let cc := controlOf (coreOf cx.wid)
    let own := s.controls.get {} cc
    let sends := fun (u : State) (type : Nat) (att : Option Attach) => ∃ x, u.outbox = s.outbox ++ [.datagram x] ∧
      u.hytur.undelivered = s.hytur.undelivered ++ [x] ∧ msgType x.msg = type % 256 ∧ msgCtx x.msg = b.ctx % 64 ∧ crcOk x.msg = true ∧ x.att = att
    let waits := fun (u : State) => RegsSame s u ∧ u.mem = s.mem ∧ u.outbox = s.outbox ∧ u.hytur = s.hytur
    let site := cx.pc.toNat + (s.chip + cc * 2 ^ 10) * 2 ^ 64 + own.commands.toNat * 2 ^ 96
    let pair := fun (x : DWord) (i : Nat) => if i = 0 then BitVec.ofNat 32 x.toNat else BitVec.ofNat 32 (x.toNat / 2 ^ 32)
    let timed := fun (i : Instr) (x : DWord) => Completes s i fun u => cx.movesOn t u ∧
      if cx.S then ScalDone cx s u d fun _ => x else LanesDone cx s u d 2 0 fun _ _ i => pair x i
    (∀ n off v pa, IssuesAs s (.launch e) cx t → b.kind ≠ .shadow → s.isMember = true → s.hytur.fenced = false → cx.readRecord t a 8 = .ok (n, off, v) →
      recordValid (BitVec.ofNat 4096 n) = true → v.translate (coreOf cx.wid) b.ctx (va54 a + 0x40) .write = .ok pa →
      (s.originFull = true → Completes s (.launch e) waits) ∧ (s.originFull = false → Completes s (.launch e) fun u =>
        RegsSame s u ∧ cx.movesOn t u ∧ u.mem = (v.storeGlb pa (bytesOf 16 site)).mem ∧ (u.controls.get {} cc).commands = own.commands + 1 ∧
        sends u 1 (some (BitVec.ofNat 4096 (setField n 0x40 16 site))))) ∧
    (∀ n off v, IssuesAs s (.evsub e) cx t → b.kind ≠ .shadow → s.isMember = true → s.hytur.fenced = false → cx.readRecord t a 1 = .ok (n, off, v) →
      evsubOk (BitVec.ofNat 512 n) b.ctx = true →
      (s.originFull = true → Completes s (.evsub e) waits) ∧
      (s.originFull = false → Completes s (.evsub e) fun u => RegsSame s u ∧ cx.movesOn t u ∧ u.mem = v.mem ∧ sends u (msgType (BitVec.ofNat 512 n)) none)) ∧
    (∀ i ∈ [Instr.launch e, .evsub e], Issues s i cx → b.kind ≠ .shadow → s.isMember = false → Completes s i waits) ∧
    (∀ x, IssuesAs s (.evwait e) cx t → a.toNat / 2 ^ 56 = 1 → own.outcome (BitVec.ofNat 32 a.toNat) = some x →
      Completes s (.evwait e) fun u => cx.movesOn t u ∧ Pending cx s u 0 fun _ => [.scal d x]) ∧
    (Issues s (.evwait e) cx → (a.toNat / 2 ^ 56 = 1 ∧ own.outcome (BitVec.ofNat 32 a.toNat) = none) ∨ a.toNat / 2 ^ 56 = 2 → Completes s (.evwait e) fun u => RegsSame s u ∧ Untouched s u 0 [] ∧
      ∀ p ∈ cx.parts, p.lanes ≠ 0 → ∃ q ∈ (u.warpD p.wid).parks, q.lanes = p.lanes ∧ q.pc = cx.pc ∧ ∃ w, q.place = .evwait a d w) ∧
    (IssuesAs s (.time e) cx t → timed (.time e) (BitVec.ofNat 64 (if c.dmode = false then s.clock.time
      else if recField b.record 0x38 8 = 0 then (tables.grids.get {} b.grid).stamp else recField b.record 0x38 8))) ∧
    (IssuesAs s (.clk e) cx t → timed (.clk e) (if c.dmode then cx.clock else s.cycle)) ∧
    (IssuesAs s (.ctxq e) cx t → ∀ x ∈ ([(0, b.ctx + c.gen * 2 ^ 16), (1, c.prio % 8 + (if c.dmode then 2 ^ 8 else 0) + (if c.detect then 2 ^ 9 else 0) + (if c.suspended then 2 ^ 10 else 0) + c.slice * 2 ^ 32),
        (2, s.chip + (tables.chips.filter fun x => x.2.st = .member).length * 2 ^ 16), (3, own.commands.toNat), (4, 8192 - s.posted.length),
        (5, tables.liveGrids (c.gen * 64 + b.ctx)), (6, s.hytur.delivered), (7, tables.position)] : List (Nat × Nat)),
      cx.e.a.toNat = x.1 → Completes s (.ctxq e) fun u => cx.movesOn t u ∧ Pending cx s u 0 fun _ => [.scal d (BitVec.ofNat 64 x.2)]) ∧
    (IssuesAs s (.dgread e) cx t → ∀ x ∈ ([(0, if b.folds then b.digest else 0), (1, (tables.grids.get {} b.grid).digest), (2, tables.sd), (3, BitVec.ofNat 64 tables.position)] : List (Nat × DWord)),
      cx.e.a.toNat = x.1 → Completes s (.dgread e) fun u => cx.movesOn t u ∧ Pending cx s u 0 fun _ => [.scal d x.2])

/-! ## Faults and results that come by themselves -/

/-- R271: the 64 bytes of a fault record, field by field, and R133's or another code's own body in its last 32. -/
def Obligations.FaultRecord : Prop :=
  ∀ (r : Rec) (b : Block) (wid index count : Nat),
    let bs := r.bytes b wid index count
    let f := fun (o n : Nat) => fieldAt (numOf bs) o n
    let fields := fun (l : List (Nat × Nat × Nat)) => ∀ x ∈ l, f x.1 x.2.1 = x.2.2 % 2 ^ (8 * x.2.1)
    bs.length = 64 ∧
    fields [(0, 1, r.code), (1, 1, r.lane), (2, 1, r.width), (3, 1, r.scope), (4, 2, index), (6, 2, count), (8, 8, r.pc.toNat),
      (0x10, 8, match r.addr with | some a => a.toNat | none => 0), (0x18, 4, b.bid), (0x1C, 2, wid), (0x1E, 1, if r.addr = none then r.space else r.space + 128), (0x1F, 1, 0)] ∧
    (r.body = none → fields [(0x20, 4, r.info), (0x24, 4, r.members), (0x28, 8, r.lanes.toNat), (0x30, 4, (siteOf b.record).2.2), (0x34, 4, (siteOf b.record).2.1), (0x38, 8, (siteOf b.record).1)]) ∧
    (∀ x, r.body = some x → x.length = 32 → bs.drop 32 = x)

/-- R46, R47, R139, R164, R315, R433: a pattern that is no instruction and a fetch that fails enter trap mode in the issuing warp at its PC; a fault that a
block holds, in the first of its warps that may take it; a HANG, in a stream program of the context with its wait-for graph written, which waits for a migrating page. The scope byte of a record that no
known instruction gives is the model's (assumption 17); so are the graph's order, the stream program that takes the HANG, its wait for the end of a trap, and its record's lanes (assumption 36). -/
def Obligations.EventTraps : Prop :=
  ∀ (s z : State) (wid : Nat),
    (∀ (pc : Addr54) (k : Bool), s.cur = some wid → s.nextPc wid = some (pc, k) →
      let at_ := s.updWarp wid fun w => { w with lclk := w.lclk + 1, pass := none }
      let rec_ := fun (code : Nat) (a : Option DWord) => [({ code := code, pc := BitVec.ofNat 64 pc.toNat, addr := a, lanes := (s.warpD wid).selected (s.block (s.warpD wid).blk).width } : Rec)]
      (TrapOpen at_ wid (rec_ 0x01 none) z → Completes s .illegalInstruction fun u => TrapIn at_ z u wid) ∧
      (∀ a : Addr54, TrapOpen at_ wid (rec_ 0x04 (some (BitVec.ofNat 64 (s.chip * 2 ^ 54 + a.toNat)))) z → Completes s (.instrFetch a) fun u => TrapIn at_ z u wid)) ∧
    (∀ (blk : Nat) (f : AsyncFault) (r : List AsyncFault), (s.block blk).held = f :: r →
      let can := fun (v : Nat) => ∃ w, s.warp? v = some w ∧ w.live ≠ 0 ∧ w.frame = none ∧ w.suspended = none
      let at_ := s.updBlock blk fun b => { b with held := r }
      (∃ pre post, (s.block blk).wids = pre ++ wid :: post ∧ can wid ∧ ∀ v ∈ pre, ¬ can v) →
      (s.atBoundary wid = true → TrapOpen at_ wid [{ code := f.code, info := f.info, pc := f.pc, addr := f.addr, space := f.space, body := f.body, scope := f.scope, width := f.width, lanes := f.lanes, members := f.members }] z →
        Completes s (.asyncFaultDelivery blk) fun u => TrapIn at_ z u wid ∧ (u.block blk).held = r) ∧
      (s.atBoundary wid = false → Completes s (.asyncFaultDelivery blk) fun u => u = s)) ∧
    (∀ slot v, (s.ctxs.find slot).isSome = true →
      let c := s.ctx slot
      let fired := s.updCtx slot fun c => { c with hangFired := true }
      let graph := s.hangGraph slot
      let bytes := (graph.take 4096).flatMap id
      let at_ := (v.updCtx slot fun c => { c with hangHeld := none }).updCtx slot fun c => { c with hangWaits := none }
      (c.hangFired = true ∨ c.hangCount < 2 ^ c.hang → Completes s (.hang slot) fun u => u = s) ∧
      (∀ a, c.hangFired = false → 2 ^ c.hang ≤ c.hangCount → fired.migratingIn slot (c.faultBase + 0x2400000) bytes.length = some a → Completes s (.hang slot) fun u =>
        u = fired.updCtx slot fun c => { c with hangHeld := some (graph.length, bytes, some a) }) ∧
      (c.hangFired = false → 2 ^ c.hang ≤ c.hangCount → fired.migratingIn slot (c.faultBase + 0x2400000) bytes.length = none → fired.writeVirt slot (c.faultBase + 0x2400000) bytes = some v →
        v.hangTarget slot = some wid → (v.warpD wid).suspended = none → v.atBoundary wid = true →
        TrapOpen at_ wid [{ code := 0x3B, pc := BitVec.ofNat 64 (((v.warpD wid).selectedPc 1).getD ((v.warpD wid).pc 0)).toNat, info := graph.length, lanes := (v.warpD wid).live }] z →
        Completes s (.hang slot) fun u => TrapIn at_ z u wid ∧ (u.ctx slot).hangFired = true))

/-- R135, R82, R153, R359: a result that has come is written to its destinations, once, in the lanes that it names, whether or not they have exited since, but that a mask keeps no bit of a lane that is
gone; memory and every other warp are as before. For a warp off-core it waits, which is the model's reading of R359 (assumption 13). -/
def Obligations.ResultDelivery : Prop :=
  ∀ (s : State) (wid id : Nat) (x : Window),
    let w := s.warpD wid
    let W := (s.block w.blk).width
    ((∀ x ∈ w.windows, x.id = id → x.ready = false ∨ x.done = true) → Completes s (.longLatencyResult wid id) fun u => u = s) ∧
    (w.offcore.isSome = true → Completes s (.longLatencyResult wid id) fun u => u = s) ∧
    ((s.warp? wid).isSome = true → w.offcore = none → w.windows.find? (fun x => x.id = id && x.ready && !x.done) = some x → Completes s (.longLatencyResult wid id) fun u =>
      u.mem = s.mem ∧ (∀ v, v ≠ wid → u.warp? v = s.warp? v) ∧ (∀ y ∈ (u.warpD wid).windows, y.id = id → y.done = true) ∧
      (∀ d v, x.writes = [.scal d v] → ∀ r, (u.warpD wid).sget r = if r = d then v else w.sget r) ∧
      (∀ d ls, x.writes = [.vec d ls] → (ls.map (·.1)).Nodup → (∀ y ∈ ls, y.1 < 64) → ∀ r l, l < 64 →
        ((r = d → ∀ v, (l, v) ∉ ls) → (u.warpD wid).vget r l = w.vget r l) ∧
        (∀ v, r = d → (l, v) ∈ ls → (u.warpD wid).vget r l = v)) ∧
      (∀ d bits v, x.writes = [.mask d bits v] → ∀ r l, l < W → l < 64 →
        inSet ((u.warpD wid).kget r) l = if r = d ∧ inSet bits l = true ∧ inSet w.live l = true then inSet v l else inSet (w.kget r) l))

/-! ## Blocks on cores -/

/-- R122, R290, R292, R304, R370: a block that the tables place on this chip is admitted to a core with room: free warp slots (a saved stream program keeps its own), a range of the
scratchpad that meets no other, warps with every lane live at the record's entry, registers zero but for a stream's argument, and a partition
of zeros. It starts once the pod clock has reached its record's start. The lowest room that fits is taken
(assumption 38). -/
def Obligations.BlockAdmission : Prop :=
  ∀ (s t : State) (grid bid core : Nat) (g : GridRow), s.hytur.tables.grids.find grid = some g →
    let ctx := g.ctxRow % 64
    let r := g.record
    let W := if g.stream then 1 else widthOf (recField r 0x2C 1)
    let may : Prop := s.awaits grid bid = true ∧ s.ctxRuns g.ctxRow = true ∧ s.rerunning ctx = false ∧ (s.core core).readmit = [] ∧ s.barred core grid bid = false
    let image : Prop := s.coreError ctx core = false
    let turn := s.turnOf grid bid core r
    let seated := fun (kind : BlockKind) (clock : DWord) => Completes s (.blockAdmission grid bid core) fun u => ∃ key b, u.block? key = some b ∧ b.grid = grid ∧ b.bid = bid ∧
      b.ctx = ctx ∧ b.kind = kind ∧ b.core = core ∧ b.record = r ∧ b.width = W ∧ b.started = false ∧ b.psize = partitionSize r ∧ b.pbase + b.psize ≤ 2 ^ 21 ∧
      b.wids.length = recField r 0x2D 1 ∧ b.wids.Nodup ∧ (∀ v ∈ b.wids, ∃ i, i < (if core < 128 then 32 else 16) ∧ v = widOf core i ∧ i ∉ s.heldSlots core) ∧
      (∀ x ∈ s.takenRanges core, ∀ o, ¬ (x.1 ≤ o ∧ o < x.1 + x.2 ∧ b.pbase ≤ o ∧ o < b.pbase + b.psize)) ∧
      (∀ o, b.pbase ≤ o → o < b.pbase + b.psize → Map.get 0 (u.core core).spad o = 0) ∧
      ∀ i, (h : i < b.wids.length) → ∃ w, u.warp? b.wids[i] = some w ∧ w.blk = key ∧ w.index = i ∧ w.live = allSet W ∧ w.lclk = clock ∧ w.parks = [] ∧ w.frame = none ∧
        (∀ l, l < W → w.pc l = BitVec.ofNat 54 (recField r 8 8 / 4 * 4)) ∧ w.tvec = BitVec.ofNat 64 (recField r 0x10 8 / 4 * 4) ∧ (∀ n l, w.vget n l = 0) ∧ (∀ n, w.kget n = 0) ∧
        ∀ n, w.sget n = if n = 0 ∧ g.stream = true then g.arg else 0
    (may → image → g.stream = true → core = 128 + ctx % 32 → s.seat grid bid g core .stream 0 id = some t → seated .stream 0) ∧
    (may → image → g.stream = false → core < 128 → (s.ctx ctx).dmode = false → s.seat grid bid g core .kernel 0 id = some t → seated .kernel 0) ∧
    (may → image → g.stream = false → core < 128 → (s.ctx ctx).dmode = true → s.savedAhead ctx core = false → core = s.dcore r bid →
      (s.positions.get (0, 0) (positionKey grid core turn.1)).1 = turn.2.1 → s.seat grid bid g core .kernel turn.2.2 (fun b => { b with pos := turn.1 }) = some t → seated .kernel turn.2.2) ∧
    (¬ may → Completes s (.blockAdmission grid bid core) fun u => u = s) ∧
    (∀ blk b, s.block? blk = some b →
      (recField b.record 0x38 8 ≤ s.clock.time → Completes s (.blockStart blk) fun u => u.block? blk = some { b with started := true } ∧ { u with blocks := s.blocks } = s) ∧
      (s.clock.time < recField b.record 0x38 8 → Completes s (.blockStart blk) fun u => u = s))

/-- R301 to R307, R358, R359: a block that is to leave is saved once its results, copies and reads are done: it and its warps leave the chip for an
image in the cloakroom, which holds its header, each warp's record and registers, and its scratchpad; an image whose own room is free comes back under its key, with the registers, the PCs and the scratchpad that stand
there; a warp that a service call parked returns to its slot with its registers as saved when they fit; a time slice is taken once a microsecond and marks blocks only where they have held their core for their context's slice. Which room of the cloakroom is taken is
the model's (assumption 37). -/
def Obligations.BlockSaves : Prop :=
  ∀ (s : State),
    (∀ blk b, s.block? blk = some b → b.ended = false →
      let ready : Prop := s.resultsDue b = false ∧ b.copies = [] ∧ b.acp = [] ∧ (∀ r ∈ b.reads, (s.core b.core).holdsRead r.id = true) ∧ s.halfPerformed blk = false
      let due : Prop := b.victim = true ∨ (b.swap = true ∧ b.halted = true) ∨ b.slice = true ∨ (s.ctx b.ctx).suspended = true
      (due → ready → s.platform.errors = [] → Completes s (.blockSave blk) fun u => u.block? blk = none ∧ (∀ v w, u.warp? v = some w → w.blk ≠ blk) ∧
        ∃ x, u.images = s.images ++ [x] ∧ x.key = blk ∧ x.block.grid = b.grid ∧ x.block.bid = b.bid ∧ x.block.core = b.core ∧ x.block.wids = b.wids ∧
          (s.saveReady blk b → b.budgeted → x.base = s.imageBase b.ctx blk ∧
            (∀ f ∈ ([(0, 4, b.bid), (4, 2, b.grid), (6, 1, b.core), (8, 1, b.wids.length), (12, 4, b.stage), (24, 4, b.pbase), (28, 4, b.psize)] : List (Nat × Nat × Nat)),
              u.readNum (x.base + f.1) f.2.1 = f.2.2 % 2 ^ (8 * f.2.1)) ∧
            (∀ v w, (v, w) ∈ s.warps → w.blk = blk →
              let at_ := x.base + 0x1000 + 0x2000 * w.index
              (∃ z, (v, z) ∈ x.warps ∧ z.still = ({ w with halted := w.halted || b.halted } : Warp).still ∧ z.pcs = w.pcs ∧ z.pin = w.pin ∧ z.parks = w.parks ∧ z.loops = w.loops ∧ z.lclk = w.lclk) ∧
              ImageRegs u x.base b w.index w ∧ (∀ l, l < 64 → u.readNum (at_ + 8 * l) 8 = laneWord w.live w.parks w.pcs l % 2 ^ 64) ∧
              (∀ f, w.frame = some f → ∀ l, l < 64 → u.readNum (at_ + 0x200 + 8 * l) 8 = laneWord w.live f.parks f.pcs l % 2 ^ 64) ∧
              u.readNum (at_ + 0x720) 8 = w.live.toNat ∧ u.readNum (at_ + 0x728) 8 = w.pin.toNat ∧ u.readNum (at_ + 0x738) 8 = w.lclk.toNat) ∧
            (((s.core b.core).spad.map (·.1)).Nodup → ∀ o, o < b.psize → u.readByte (x.base + b.sections.spd + o) = Map.get 0 (s.core b.core).spad (b.pbase + o)))) ∧
      (¬ due ∨ ¬ ready → Completes s (.blockSave blk) fun u => u = s)) ∧
    (∀ grid bid x, s.images.find? (fun x => x.block.grid = grid && x.block.bid = bid && s.mayReturn x && s.ownRoom x && !s.barred x.block.core grid bid) = some x → s.imageError x = false → s.coreError x.block.ctx x.block.core = false →
      x.block.rerun ≠ 3 → recField x.block.record 0xA0 4 ≤ x.block.itin.length →
      Completes s (.blockRestore grid bid) fun u => u.block? x.key = some { x.block with slice := false, victim := false, since := s.clock.time } ∧
        (∀ y ∈ u.images, y.key ≠ x.key) ∧ (∀ e ∈ x.warps, (u.warp? e.1).isSome = true) ∧
        (128 ≤ x.block.core ∨ (s.core x.block.core).lastCtx = some ((s.ctx x.block.ctx).gen * 64 + x.block.ctx) → x.block.budgeted → (x.warps.map (·.1)).Nodup →
          (∀ v w, (v, w) ∈ x.warps → w.undisturbed → let z := u.warpD v
            ImageRegs s x.base x.block w.index z ∧ z.live = w.live ∧ z.parks = w.parks ∧ z.pin = w.pin ∧ z.loops = w.loops ∧ z.frame = w.frame ∧
            (∀ l, l < x.block.width → inSet w.live l = true → z.pc l = BitVec.ofNat 54 (s.readNum (x.base + 0x1000 + 0x2000 * w.index + 8 * l) 8)) ∧
            z.lclk = BitVec.ofNat 64 (s.readNum (x.base + 0x1000 + 0x2000 * w.index + 0x738) 8)) ∧
          (Memory.wf s.mem = true → ∀ o, o < x.block.psize → Map.get 0 (u.core x.block.core).spad (x.block.pbase + o) = s.readByte (x.base + x.block.sections.spd + o)))) ∧
    (∀ core wid r w, (s.core core).readmit = wid :: r → s.warp? wid = some w →
      let b := s.block w.blk
      let fits : Prop := s.usedRegs core + b.width * budgetOf b.record w.index * 4 ≤ 2 ^ 20
      (fits → s.platform.errors = [] → Completes s (.warpReadmission core) fun u => (b.budgeted → ImageRegs s (s.imageBase b.ctx w.blk) b w.index (u.warpD wid)) ∧ (u.warpD wid).offcore = none ∧ (u.warpD wid).blk = w.blk ∧ (u.core core).readmit = r ∧
        (∀ v, v ≠ wid → u.warp? v = s.warp? v) ∧ u.mem = s.mem) ∧
      (¬ fits → Completes s (.warpReadmission core) fun u => u = s)) ∧
    (s.clock.time < s.sliceAt + 1250 → Completes s .timeSlice fun u => u = s) ∧
    ((s.blocks.map (·.1)).Nodup → s.sliceAt + 1250 ≤ s.clock.time → Completes s .timeSlice fun u => u.sliceAt = s.clock.time ∧
      { u with blocks := s.blocks, sliceAt := s.sliceAt, slicing := s.slicing } = s ∧ ∀ k, u.block? k = s.block? k ∨
      ∃ b, s.block? k = some b ∧ u.block? k = some { b with slice := true } ∧ b.ended = false ∧ b.kind ≠ .stream ∧ (s.ctx b.ctx).slice ≠ 0 ∧
        min (s.ctx b.ctx).slice 1000000 * 1250 ≤ s.clock.time - b.since)

/-! ## Engines around a core -/

/-- R177, R184 to R187: the next itinerary copy of a block issues once its stage has come: a copy into plain bytes is in flight in every granule that
it fills, its pads zero; a tile's copy asks for its tile, in D-mode with the clock of its stage (R376), and issues once it has it. A granule of the oldest copy lands with the bytes at its
source. That no later copy of the block lands before it is the model's (assumption 43), and so is the end of the context's window for a .die source (assumption 61), which the place of the source leaves out. -/
def Obligations.ItineraryCopies : Prop :=
  ∀ (s : State) (blk : Nat) (b : Block), s.block? blk = some b →
    let quiet : Prop := (∀ x ∈ s.ctxs, x.2.watches = []) ∧ s.parkedOps = [] ∧ b.ended = false ∧ ∀ k, b.waiters.get [] k = []
    (∀ stage e r, b.itinOff = false → b.itinWait = none → b.nextCopy = some (stage, e, r) →
      let n := b.itinEntry e
      let kind := fieldAt n 0x2C 1
      let dst := fieldAt n 0x28 4
      let gs := (entryGranules n).map fun g => (b.pbase + dst) / 64 + g
      let wide := fieldAt n 0x34 2 + fieldAt n 0x1E 2 + fieldAt n 0x36 2
      let part := fieldAt n 0x2D 1 * 8 + (if fieldAt n 0x2F 1 = 0xFF then 4 else fieldAt n 0x2F 1)
      let starts := fun (base : Nat) => Completes s (.itineraryCopyIssue blk) fun u => u.mem = s.mem ∧ u.warps = s.warps ∧
        (∃ x, (u.block blk).copies = b.copies ++ [x] ∧ x.entry = e ∧ x.rep = r ∧ x.base = base ∧ x.left = entryGranules n) ∧ (u.block blk).last = some (stage, e, r)
      let clear := fun (base : Nat) => ∀ g ∈ entryGranules n, (s.core b.core).inflight.get 0 ((b.pbase + base) / 64 + g) < 15
      (∀ pool t, b.alloc = some (pool, t) → b.waiting = true → clear (b.tileOffset pool t + dst) → starts (b.tileOffset pool t + dst)) ∧
      (b.waiting = false → b.stage < stage → Completes s (.itineraryCopyIssue blk) fun u => u = s) ∧
      (b.waiting = false → stage ≤ b.stage → kind = 0 → (∀ g ∈ gs, (s.core b.core).inflight.get 0 g < 15) → Completes s (.itineraryCopyIssue blk) fun u => u.mem = s.mem ∧ u.warps = s.warps ∧
        (∃ x, (u.block blk).copies = b.copies ++ [x] ∧ x.entry = e ∧ x.rep = r ∧ x.base = dst ∧ x.left = entryGranules n) ∧ (u.block blk).last = some (stage, e, r) ∧
        (∀ g, (u.core b.core).inflight.get 0 g = (s.core b.core).inflight.get 0 g + gs.count g) ∧
        (∀ k o, k < (fieldAt n 0x30 2 + fieldAt n 0x1C 2 + fieldAt n 0x32 2) * wide → k ∉ entryGranules n → o < 64 →
          Map.get 0 (u.core b.core).spad (b.pbase + dst + 64 * k + o) = 0)) ∧
      (b.waiting = false → stage ≤ b.stage → kind = 0 → (∃ g ∈ gs, 15 ≤ (s.core b.core).inflight.get 0 g) → Completes s (.itineraryCopyIssue blk) fun u => u = s) ∧
      (b.waiting = false → stage ≤ b.stage → kind ≠ 0 → s.floorHolds b (b.stageClock stage :: (b.waiters.get [] part).map (·.clock)) → Completes s (.itineraryCopyIssue blk) fun u =>
        u.mem = s.mem ∧ u.warps = s.warps ∧ u.cores = s.cores ∧ (u.block blk).waiting = true ∧ (u.block blk).free = b.free ∧
        ∃ x, JoinedByKey (b.waiters.get [] part) ((u.block blk).waiters.get [] part) x ∧ x.clock = b.stageClock stage ∧ x.who = .copy e r ∧ x.reads = fieldAt n 0x2E 1) ∧
      (∀ y q, b.waiting = false → stage ≤ b.stage → kind ≠ 0 → fieldAt n 0x2D 1 < 8 → fieldAt n 0x2F 1 ≤ 3 ∨ fieldAt n 0x2F 1 = 0xFF → (s.ctx b.ctx).dmode = false →
        b.free.get [] part = y :: q → b.waiters.get [] part = [] → clear (b.tileOffset (fieldAt n 0x2D 1) y + dst) → starts (b.tileOffset (fieldAt n 0x2D 1) y + dst)) ∧
      (b.waiting = false → stage ≤ b.stage → kind ≠ 0 → (s.ctx b.ctx).dmode = false → b.free.get [] part = [] → Completes s (.itineraryCopyIssue blk) fun u => u.mem = s.mem ∧ u.warps = s.warps ∧
        u.cores = s.cores ∧ (u.block blk).waiting = true ∧ ∃ x, (u.block blk).waiters.get [] part = b.waiters.get [] part ++ [x] ∧ x.who = .copy e r ∧ x.reads = fieldAt n 0x2E 1)) ∧
    (b.itinOff = true ∨ ((b.waiting = true ∨ b.itinWait.isSome = true) ∧ b.alloc = none) ∨ b.nextCopy = none → Completes s (.itineraryCopyIssue blk) fun u => u = s) ∧
    (∀ copy granule c later l chunks, b.copies = c :: later → c.id = copy → granule ∈ c.left → c.mig = [] → s.plainMem → quiet →
      s.copyPlace b (b.itinEntry c.entry) c (b.copySource (b.itinEntry c.entry) c.rep granule) = some (.inl (l, chunks)) → (∀ pa, l = .glb pa → inAperture pa = false) →
      (∀ o ws, l ≠ .spad o ws) → Completes s (.itineraryCopyLanding blk copy granule) fun u =>
        let g := (b.pbase + c.base) / 64 + granule
        u.mem = s.mem ∧ RegsSame s u ∧ (∀ i, i < 64 → Map.get 0 (u.core b.core).spad (64 * g + i) = BitVec.ofNat 8 (s.bytesAt 64 (some l) / 256 ^ i)) ∧
        (∀ o, (o < 64 * g ∨ 64 * g + 64 ≤ o) → Map.get 0 (u.core b.core).spad o = Map.get 0 (s.core b.core).spad o) ∧
        (∀ h, (u.core b.core).inflight.get 0 h = (s.core b.core).inflight.get 0 h - if h = g then 1 else 0) ∧
        (u.block blk).copies.filter (fun x => x.id ≠ copy) = b.copies.filter (fun x => x.id ≠ copy) ∧ (∀ x ∈ (u.block blk).copies, x.id = copy → granule ∉ x.left) ∧
        ((∀ x ∈ b.copies, x.id = copy → x = c) → (∀ y ∈ c.left, y = granule) → ∀ x ∈ (u.block blk).copies, x.id ≠ copy)) ∧
    (∀ copy granule, (∀ c later, b.copies = c :: later → c.id ≠ copy ∨ granule ∉ c.left) → Completes s (.itineraryCopyLanding blk copy granule) fun u => u = s)

/-- R237 to R239, R318: the oldest ACP copy of a warp lands: each piece's bytes stand at its destination, its granules have one copy less, the barrier
object expects one completion less, and the copy leaves its queue. The oldest write request of a format window is performed: the packed codes and
the scale of its sector change; a window that is off drops it; a sector that is read is decoded into the caches. -/
def Obligations.CopyLanding : Prop :=
  ∀ (s : State),
    (∀ wid key x, s.oldestAcp wid = some (key, x) → s.plainMem → (∀ c ∈ s.ctxs, c.2.watches = []) → s.parkedOps = [] → (s.block? key).isSome = true → (s.block key).ended = false →
      (∀ k, (s.block key).waiters.get [] k = []) → (∀ p ∈ x.pieces, x.die = false → inAperture p.1 = false) →
      x.srcs.length = x.pieces.length →
      let b := s.block key
      let apart := fun (o n : Nat) => ∀ p ∈ x.pieces, o + n ≤ p.2 ∨ p.2 + x.size ≤ o
      Completes s (.acpCopyLanding wid) fun u => u.mem = s.mem ∧ RegsSame s u ∧ (u.block key).acp = b.acp.filter (fun y => y.id != x.id) ∧
        (∀ pre p post, x.pieces = pre ++ p :: post → (∀ q ∈ post, p.2 + x.size ≤ q.2 ∨ q.2 + x.size ≤ p.2) → (∀ o, x.object = some o → o + 8 ≤ p.2 ∨ p.2 + x.size ≤ o) → ∀ i, i < x.size →
          Map.get 0 (u.core b.core).spad (p.2 + i) = BitVec.ofNat 8 (s.bytesAt x.size (some (if x.die then .die p.1 else .glb p.1)) / 256 ^ i)) ∧
        (∀ o, apart o 1 → (∀ m, x.object = some m → o < m ∨ m + 8 ≤ o) → Map.get 0 (u.core b.core).spad o = Map.get 0 (s.core b.core).spad o) ∧
        (∀ g, (u.core b.core).inflight.get 0 g = (s.core b.core).inflight.get 0 g - x.granules.count g) ∧
        (∀ o, x.object = some o → apart o 8 → u.barObj b.core o = barTest { s.barObj b.core o with due := ((s.barObj b.core o).due + 2 ^ 26 - 1) % 2 ^ 26 })) ∧
    (∀ wid, s.oldestAcp wid = none → Completes s (.acpCopyLanding wid) fun u => u = s) ∧
    (∀ window r, s.aliasQ.find? (fun r => r.window = window) = some r → Completes s (.aliasSectorWrite window) fun u =>
      u.aliasQ = s.aliasQ.erase r ∧ RegsSame s u ∧ (∀ c, (u.core c).spad = (s.core c).spad ∧ (u.core c).acc = (s.core c).acc ∧ (u.core c).mq = (s.core c).mq) ∧
      (∀ w, s.windows.find window = some w → w.on = false → u.mem = s.mem) ∧
      (∀ w, s.windows.find window = some w → w.on = true → ({ s with aliasQ := [], platform := {} } : State).plainMem →
        let n := blockBytes w.elem
        let x := encodeWindow w.elem w.scale (bf16Vals (if r.mask = BitVec.allOnes 64 then r.data else mergeMask r.mask 0 (s.sectorBytes w r.sector) r.data))
        let at_ := w.packed + r.sector * n
        (w.scales + r.sector < at_ ∨ at_ + n ≤ w.scales + r.sector) →
          (∀ i, i < n → u.readByte (at_ + i) = BitVec.ofNat 8 (x.1 / 256 ^ i)) ∧ u.readByte (w.scales + r.sector) = BitVec.ofNat 8 x.2 ∧
          ∀ a, (a < at_ ∨ at_ + n ≤ a) → a ≠ w.scales + r.sector → u.readByte a = s.readByte a)) ∧
    (∀ window, (∀ r ∈ s.aliasQ, r.window ≠ window) → Completes s (.aliasSectorWrite window) fun u => u = s) ∧
    (∀ window sector,
      (∀ w, s.windows.find window = some w → w.on = true → sector < w.size * 1024 → s.aliasQ = [] → Completes s (.aliasSectorRead window sector) fun u =>
        (window, sector) ∈ u.sectors ∧ (∀ x ∈ s.sectors, x ∈ u.sectors) ∧ { u with sectors := s.sectors } = s) ∧
      (s.windows.find window = none → Completes s (.aliasSectorRead window sector) fun u => u = s))

/-- R375 to R377, R178, R231: the first ordered operation of a performing point among those whose own published floor is above their clock is performed, for
all its lanes there in ascending e, while every granule of its issue is present, and nothing is performed otherwise: each place takes its new value,
and an ATOM's old values join its members' windows. At a core's pool unit the head of a waiter queue is given the head of its free list once the floor is above its clock: a TALLOC's and an
ADRAIN's handle are their members' results, an ADRAIN's entry joins the matrix queue, and an itinerary copy issues. The published floor of a D-mode grid is the least of the clocks of its warps, engine work,
operations that wait for granules and waiting positions. What a held collective and a completed entry hold of it is the model's (assumption 62). -/
def Obligations.OrderedOperations : Prop :=
  ∀ (s : State),
    (∀ point o, (∀ c, point ≠ .pool c) → firstOrdered ((s.firstsAt point).filter fun o => s.floorAbove (s.block o.blk) o.clock) = some o →
      let n := o.op.width
      let mine := fun (x : Ordered) => x.op.id = o.op.id && x.point = point
      let here := s.ordered.filter fun x => mine x
      let place := fun (x : Ordered) => some x.acc.loc
      let plain : Prop := s.plainMem ∧ (∀ c ∈ s.ctxs, c.2.watches = []) ∧ (s.block o.op.blk).kind ≠ .shadow ∧ s.opPresent o.op = true ∧ (∀ x ∈ here, x.op = o.op) ∧
        (∀ x ∈ here, (∃ pa, x.acc.loc = .glb pa ∧ inAperture pa = false) ∨ (∃ d, x.acc.loc = .die d) ∨
          ∃ c w, x.acc.loc = .spad c (wordsFrom w n) ∧ ∀ k ∈ wordsFrom w n, k / 8 * 8 ∉ (s.core c).marks) ∧
        ∀ x ∈ here, ∀ y ∈ here, x.acc.loc = y.acc.loc ∨ Apart n (place x) (place y)
      let fold := fun (f : LaneAcc → Nat → Nat) (ls : List Ordered) (x : Ordered) => (ls.filter fun y => y.acc.loc = x.acc.loc).foldl (fun v y => f y.acc v) (s.bytesAt n (place x))
      let done := fun (u : State) (f : LaneAcc → Nat → Nat) => u.ordered = (s.ordered.filter fun x => !mine x) ∧ RegsSame s u ∧ Untouched s u n (here.map place) ∧
        ∀ x ∈ here, u.bytesAt n (place x) = fold f here x % 2 ^ (8 * n)
      (s.opPresent o.op = false → Completes s (.orderedOperationPerform point) fun u => u = s) ∧
      (plain →
        (∀ code, o.op.kind = .mred code → code ≠ 7 → n = 4 → Completes s (.orderedOperationPerform point) fun u =>
          done u fun a old => (mredValue code a.lane o.op.pc (BitVec.ofNat 32 old) (a.data.getD 0 0)).toNat) ∧
        (∀ code, o.op.kind = .atom code → (n = 4 ∨ n = 8) → (code = 4 → ∀ x ∈ here, ∃ pa, x.acc.loc = .glb pa) → Completes s (.orderedOperationPerform point) fun u =>
          let f := fun (a : LaneAcc) (old : Nat) => atomValue code a.lane o.op.pc old (wordsNum a.data) (wordsNum a.cmp) % 2 ^ (8 * n)
          done u f ∧ ∀ m ∈ o.op.wins, ∀ y ∈ (s.warpD m.1).windows, y.id = m.2 → ∃ z ∈ (u.warpD m.1).windows, z.id = m.2 ∧
            (5 ≤ code → n = 8 → here = [o] → z.ready = true ∧ .scal o.op.dst (BitVec.ofNat 64 (fold f [] o)) ∈ z.writes) ∧
            (code < 5 → n = 4 → ∀ pre x post, here = pre ++ x :: post → x.acc.wid = m.1 → .vec o.op.dst [(x.acc.lane, BitVec.ofNat 32 (fold f pre x))] ∈ z.writes)))) ∧
    (∀ point, (∀ c, point ≠ .pool c) → (∀ o ∈ s.firstsAt point, s.floorAbove (s.block o.blk) o.clock = false) → Completes s (.orderedOperationPerform point) fun u => u = s) ∧
    (∀ core, (∀ e ∈ s.blocks, e.2.core = core → ∀ q ∈ e.2.waiters, let b := s.block e.1
        b.waiters.get [] q.1 = [] ∨ b.free.get [] q.1 = [] ∨ ∀ z ∈ (b.waiters.get [] q.1).head?, s.floorAbove b z.clock = false) → Completes s (.orderedOperationPerform (.pool core)) fun u => u = s) ∧
    (∀ core blk b part q qs x xs, s.block? blk = some b → b.core = core → (s.blocks.map (·.1)).Nodup → (b.waiters.map (·.1)).Nodup → (s.ctx b.ctx).dmode = true → b.alone = false →
      b.waiters.get [] part = q :: qs → b.free.get [] part = x :: xs → s.floorAbove b q.clock = true → (∀ y ∈ qs.head?, xs ≠ [] → s.floorAbove b y.clock = false) → s.poolIdle core blk part →
      let pool := part / 8
      let h := b.handleNow pool x
      let c := s.core core
      let given := fun (u : State) => RegsSame s u ∧ u.mem = s.mem ∧ (u.block blk).waiters.get [] part = qs ∧ (u.block blk).free.get [] part = xs ∧
        (u.block blk).tile (tileKey pool x) = { b.tile (tileKey pool x) with count := q.reads, pend := 0, free := false, byEntry := false }
      let goesOn := fun (u : State) (dst : Nat) (ms : List (Nat × Nat)) => (∀ v w, u.warp? v = some w → ∀ p ∈ w.parks, p.woken = none → p.place ≠ .talloc q.id) ∧
        ∀ m ∈ ms, ∀ y ∈ (s.warpD m.1).windows, y.id = m.2 → ∃ z ∈ (u.warpD m.1).windows, z.id = m.2 ∧ z.ready = true ∧ .scal dst (BitVec.ofNat 64 h) ∈ z.writes
      (∀ p dst ms, q.who = .talloc p dst ms → Completes s (.orderedOperationPerform (.pool core)) fun u => given u ∧ goesOn u dst ms) ∧
      (∀ p e, q.who = .adrain p e → Completes s (.orderedOperationPerform (.pool core)) fun u => given u ∧ goesOn u e.dst e.wins ∧
        let y := { e with a := b.tileOffset pool x, wins := [] }
        (c.mq.length < 16 → c.mwait = [] → (u.core core).mq = c.mq ++ [y]) ∧
        (16 ≤ c.mq.length ∨ c.mwait ≠ [] → (u.core core).mq = c.mq ∧ ∃ n, (u.core core).mwait = c.mwait ++ [{ y with ticket := n }])) ∧
      (∀ e r stage, q.who = .copy e r → b.nextCopy = some (stage, e, r) → b.itinOff = false →
        let n := b.itinEntry e
        let base := b.tileOffset pool x + fieldAt n 0x28 4
        (∀ g ∈ entryGranules n, c.inflight.get 0 ((b.pbase + base) / 64 + g) < 15) → Completes s (.orderedOperationPerform (.pool core)) fun u => given u ∧
          (u.block blk).handles = b.handles ++ [BitVec.ofNat 32 h] ∧ ∃ y, (u.block blk).copies = b.copies ++ [y] ∧ y.entry = e ∧ y.rep = r ∧ y.base = base ∧ y.left = entryGranules n)) ∧
    Completes s .floorPublication fun u => { u with ctxs := s.ctxs } = s ∧ ∀ ctx c, s.ctxs.find ctx = some c →
      (c.dmode = false → u.ctxs.find ctx = some c) ∧
      (c.dmode = true → ((s.floorGrids ctx).map (·.1)).Nodup → ∀ g ∈ s.floorGrids ctx, ∃ f, (u.ctx ctx).floors.find g.1 = some f ∧
        let clocks := s.warpClocks ctx g.1 ++ s.engineClocks ctx g.1 ++ s.orderedClocks ctx g.1 ++ if g.2.stream then [] else s.positionClocks ctx g.1 g.2.record
        (f = none ↔ clocks = []) ∧ ∀ x, f = some x → x ∈ clocks ∧ ∀ y ∈ clocks, x.toNat ≤ y.toNat)

/-- R315, R338, R383, R386, R411, R434: the oldest record of a queue is written into its ring once there is room, waits for a header on a migrating page, and is
lost with its queue in ERROR and PORTER status 7 in the block that placed or posted where the header cannot be used; a block whose digest differs is seated again alone; a shadow run is seated, or ends inconclusive where its context
cannot run, which is the model's (assumption 45); a cluster stop that reaches a core halts every warp there. -/
def Obligations.EngineEvents : Prop :=
  ∀ (s : State),
    (∀ job j, s.jobs.find? (fun j => j.id = job) = some j →
      let first : Prop := (s.jobs.find? fun x => x.queue = j.queue && x.inc = j.inc).map (·.id) = some job
      (¬ first ∨ j.mig.isSome = true → Completes s (.engineRingClaim job) fun u => u = s) ∧
      (∀ r v, first → j.mig = none → s.readRing j.ctx j.header = .ok r v → 6 ≤ r.lgs →
        (∀ w, (∀ va ∈ [r.header, r.slot r.tail], v.translateEngine r.ctx va .write ≠ .migrating) → (∀ i, i < r.ncons → r.tail + 1 ≤ r.cursors.getD i 0 + 2 ^ r.lgn) → (v.claim r 1).bind (fun x => x.fillSlot r r.tail j.record) = some w →
          Completes s (.engineRingClaim job) fun u => u.mem = w.mem ∧ u.jobs = s.jobs.filter (fun x => x.id != job) ∧ RegsSame s u) ∧
        ((∃ i, i < r.ncons ∧ r.cursors.getD i 0 + 2 ^ r.lgn < r.tail + 1) → Completes s (.engineRingClaim job) fun u => u = v ∧ u.jobs = s.jobs)) ∧
      (first → j.mig = none → s.readRing j.ctx j.header = .fault .migrating → Completes s (.engineRingClaim job) fun u => { u with jobs := s.jobs } = s ∧
        u.jobs = s.jobs.map fun x => if x.id = job then { x with mig := some (BitVec.ofNat 54 j.header.toNat) } else x) ∧
      (∀ q, first → j.mig = none → (s.readRing j.ctx j.header = .invalid ∨ s.readRing j.ctx j.header = .error ∨ s.readRing j.ctx j.header = .fault .pageFault ∨
          s.readRing j.ctx j.header = .fault .permission ∨ ∃ r v, s.readRing j.ctx j.header = .ok r v ∧ r.lgs < 6) →
        j.queue = some q → (s.queue q).inc = j.inc → (s.queue q).st = .ready ∨ (s.queue q).st = .error → Completes s (.engineRingClaim job) fun u =>
        (u.queue q).st = .error ∧ RegsSame s u ∧ ((s.queue q).cmds = [] → u.mem = s.mem ∧ u.jobs = s.jobs.filter fun x => x.id != job) ∧
        ((s.queue q).cmds = [] → ∀ k b, j.blk = some k → s.block? k = some b → b.ended = false → (u.block k).held = b.held ++ [{ code := Code.porter, info := 7 + 256 * q }]))) ∧
    (∀ blk o g t, s.block? blk = some o → s.hytur.tables.grids.find o.grid = some g →
      let idle : Prop := o.rerun = 1 ∧ (∀ e ∈ s.blocks, e.2.ctx = o.ctx → e.2.rerun ≠ 2) ∧ s.engineBusy o.ctx = false ∧ (s.ctx o.ctx).suspended = false ∧ (s.core o.core).readmit = []
      (idle → s.coreError (g.ctxRow % 64) o.core = false → s.seat o.grid o.bid g o.core .rerun 0 (fun b => { b with rerunOf := blk, pos := o.pos }) = some t → Completes s (.serialisedReexecution blk) fun u =>
        (u.block blk).rerun = 2 ∧ ∃ key b, u.block? key = some b ∧ b.kind = .rerun ∧ b.rerunOf = blk ∧ b.grid = o.grid ∧ b.bid = o.bid ∧ b.core = o.core) ∧
      (¬ idle → Completes s (.serialisedReexecution blk) fun u => u = s)) ∧
    (∀ grid bid x g, s.shadows.find? (fun x => x.grid = grid && x.bid = bid) = some x → s.hytur.tables.grids.find grid = some g →
      let ctx := g.ctxRow % 64
      let usable : Prop := ∃ c, s.ctxs.find ctx = some c ∧ c.gen = g.ctxRow / 64 ∧ c.usable = true
      (∀ c t, usable → s.coreError ctx c = false → s.ctxRuns g.ctxRow = true → (List.range 128).find? (fun c => (s.core c).readmit = [] && !s.savedAhead ctx c && !s.barred c grid bid && s.waitsFit c (.shadow x g)) = some c →
        ({ s with shadows := s.shadows.erase x }).seat grid bid g c .shadow 0 (fun b => { b with observed := x.observed, expected := x.expected, subject := x.subject, started := true }) = some t →
        Completes s (.shadowRun grid bid) fun u => u.shadows = s.shadows.erase x ∧ ∃ key b, u.block? key = some b ∧ b.kind = .shadow ∧ b.grid = grid ∧ b.bid = bid ∧ b.core = c ∧
          b.observed = x.observed ∧ b.expected = x.expected ∧ b.subject = x.subject ∧ b.started = true) ∧
      (¬ usable → s.isMember = true → s.hytur.fenced = false → s.originFull = false → Completes s (.shadowRun grid bid) fun u => u.shadows = s.shadows.erase x ∧ u.blocks = s.blocks ∧
        ∃ y, u.outbox = s.outbox ++ [.datagram y] ∧ msgType y.msg = 8 ∧ bodyField y.msg 0 1 = 3 ∧ bodyField y.msg 1 1 = 3)) ∧
    (∀ core ctx x, (s.ctxs.find ctx).isSome = true → (s.ctxs.map (·.1)).Nodup → (s.ctx ctx).stopping.find? (fun y => y.2.contains core) = some x → Completes s (.clusterStop core) fun u =>
      (∀ wid w, u.warp? wid = some w → coreOf wid = core → w.live ≠ 0 → w.halted = true) ∧
      (u.ctx ctx).stopping = ((s.ctx ctx).stopping.map fun y => if y = x then (y.1, y.2.filter fun c => c != core) else y).filter fun y => y.2 ≠ []) ∧
    (∀ core, (∀ e ∈ s.ctxs, ∀ x ∈ (s.ctx e.1).stopping, core ∉ x.2) → Completes s (.clusterStop core) fun u => u = s)

/-! ## Management, tracing and the platform -/

/-- R316, R322, R401, R404, R424: a management command whose fields keep its table is performed and answered 0; one that breaks it, or names a
context that is not open, or reaches a chip that is no member, is answered 1; behind another command, or while what it waits for is not done, it
waits without an answer. An answer is a 64-byte SEND on the well-known queue pair's own queue (R322). That the columns that the table gives as 0 have to be 0, that a length of 0 stands for 65,536, that the header of the time series
is physical, what an invalidation waits for, and that a resume without a halted target is done are the model's (assumption 34), and so is op 15 on a fenced chip and on one that is no member (assumption 29). -/
def Obligations.Management : Prop :=
  ∀ (s : State) (m : Msg),
    let op := fieldAt m.toNat 0 1
    let ctx := fieldAt m.toNat 1 1
    let va := fieldAt m.toNat 8 8
    let n := fieldAt m.toNat 0x10 8
    let entry := fieldAt m.toNat 4 1
    let bits := fieldAt m.toNat 0x12 1
    let zero := fun (l : List (Nat × Nat)) => ∀ f ∈ l, fieldAt m.toNat f.1 f.2 = 0
    let tail := zero [(0x10, 8), (0x20, 8)]
    let listed : Prop := 1 ≤ op ∧ op ≤ 15
    let c := s.ctx ctx
    let open_ : Prop := ∃ x, s.ctxs.find ctx = some x ∧ x.gen = fieldAt m.toNat 2 2
    let ring := fun (slot lgs : Nat) => ∃ r v, s.readRing slot (BitVec.ofNat 64 va) = .ok r v ∧ lgs ≤ r.lgs
    let booted : Prop := s.platform.boot ≠ .rom ∧ s.platform.boot ≠ .firmware
    let live : Prop := booted ∧ s.manage = [] ∧ s.isMember = true ∧ s.hytur.fenced = false
    let runs := fun (k : Nat) => live ∧ op = k ∧ open_
    let sends : Prop := (s.queue 257).st ≠ .error
    let answered := fun (u : State) (st : Nat) => ∃ l c, (u.queue 257).cmds = l ++ [c] ∧ c.kind = .send ∧ c.forward = true ∧ c.len = 64 ∧
      c.data = bytesOf 64 (BitVec.ofNat 512 (setField m.toNat 5 1 st)).toNat
    let done := fun (i : Instr) (P : State → Prop) => Completes s i fun u => u.manage = [] ∧ (sends → answered u 0) ∧ P u
    let refused := fun (i : Instr) => Completes s i fun u => u.manage = [] ∧ (sends → answered u 1 ∧ { u with manage := s.manage, queues := s.queues, fresh := s.fresh } = s)
    let waits := fun (i : Instr) => Completes s i fun u => u.manage = [m] ∧ u.outbox = s.outbox
    let all := [(Instr.invalidateRange m, 1), (.invalidateContext m, 2), (.windowOff m, 3), (.windowOn m, 4), (.injectDigest m, 5), (.claim m, 6), (.release m, 7), (.comparator m, 8),
      (.watchpoint m, 9), (.resume m, 10), (.step m, 11), (.sampling m, 12), (.timeSeries m, 13), (.setBudget m, 14), (.attestation m, 15)]
    let meets := fun (lo n : Nat) (t : Nat × Nat × Nat × Nat) => t.1 = ctx ∧ t.2.1 * 2 ^ pageBits t.2.2.1 < lo + n ∧ lo < (t.2.1 + 1) * 2 ^ pageBits t.2.2.1
    let drops := fun (i : Instr) (lo n : Nat) =>
      ((s.aliasDone.dropTranslations ctx lo n).rangeBusy ctx lo n = false → done i fun u => ∀ core, ∀ t ∈ (u.core core).tlb, ¬ meets lo n t) ∧
      ((s.aliasDone.dropTranslations ctx lo n).rangeBusy ctx lo n = true → waits i)
    (∀ x ∈ all, ((op ≠ x.2 ∧ listed) ∨ ¬ booted → Completes s x.1 fun u => u = s) ∧ (¬ listed → booted → s.manage = [] → refused x.1) ∧
      (op = x.2 ∨ ¬ listed → booted → s.manage ≠ [] → Completes s x.1 fun u => u = { s with manage := s.manage ++ [m] }) ∧
      (op = x.2 → x.2 ≠ 15 → booted → s.manage = [] → s.isMember = false ∨ s.hytur.fenced = true → refused x.1) ∧
      (live → op = x.2 → x.2 ≤ 12 → ¬ open_ → refused x.1)) ∧
    (runs 1 → (va % 65536 = 0 → n ≠ 0 → n % 65536 = 0 → drops (.invalidateRange m) va n) ∧ (va % 65536 ≠ 0 ∨ n = 0 ∨ n % 65536 ≠ 0 → refused (.invalidateRange m))) ∧
    (runs 2 → drops (.invalidateContext m) 0 (2 ^ 54)) ∧
    (runs 3 → (∀ i w, s.windowSlot ctx entry = some (i, w) → (∃ r ∈ s.aliasQ, r.window = i) → waits (.windowOff m)) ∧ (s.windowSlot ctx entry = none → refused (.windowOff m)) ∧
      (∀ i w, s.windowSlot ctx entry = some (i, w) → (∀ r ∈ s.aliasQ, r.window ≠ i) → done (.windowOff m) fun u =>
        u.windows.find i = some { w with on := false } ∧ (∀ x ∈ u.sectors, x.1 ≠ i) ∧ u.mem = s.mem)) ∧
    (runs 4 → (s.rereadWindow ctx entry = none → refused (.windowOn m)) ∧
      (∀ i x w, s.windowSlot ctx entry = some (i, x) → s.rereadWindow ctx entry = some w → entry < 16 → (∀ r ∈ s.aliasQ, r.window ≠ i) → done (.windowOn m) fun u =>
        u.windows.find i = some w ∧ (∀ x ∈ u.sectors, x.1 ≠ i) ∧ u.mem = s.mem)) ∧
    (runs 5 → (s.platform.config.inject = true → done (.injectDigest m) fun u => u.inject.get 0 ctx = BitVec.ofNat 64 va) ∧ (s.platform.config.inject = false → refused (.injectDigest m))) ∧
    (runs 6 → (c.claim = none → entry ≤ 2 → ring ctx 7 → tail → done (.claim m) fun u => (u.ctx ctx).claim = some { kind := entry, ring := BitVec.ofNat 64 va }) ∧
      (c.claim ≠ none ∨ 2 < entry ∨ ¬ ring ctx 7 ∨ ¬ tail → refused (.claim m))) ∧
    (runs 7 → (c.claim ≠ none → zero [(4, 1), (8, 8), (0x10, 8), (0x20, 8)] → done (.release m) fun u => (u.ctx ctx).claim = none ∧ ∀ wid w b, s.warp? wid = some w → s.block? w.blk = some b → b.ctx = ctx → b.halted = true →
        (u.warpD wid).halted = false ∧ (u.block w.blk).halted = false) ∧ (c.claim = none ∨ ¬ zero [(4, 1), (8, 8), (0x10, 8), (0x20, 8)] → refused (.release m))) ∧
    (runs 8 → (entry ≤ 7 → va % 4 = 0 → va < 2 ^ 54 → zero [(0x20, 8)] → done (.comparator m) fun u =>
        (u.ctx ctx).comps.find entry = if fieldAt m.toNat 0x10 1 % 2 = 1 then some { pc := BitVec.ofNat 54 va } else none) ∧
      (7 < entry ∨ va % 4 ≠ 0 ∨ 2 ^ 54 ≤ va ∨ ¬ zero [(0x20, 8)] → refused (.comparator m))) ∧
    (runs 9 → (watchOk m = true → done (.watchpoint m) fun u => (u.ctx ctx).watches.find entry = if bits / 8 % 2 = 0 then none else
        some { grid := fieldAt m.toNat 0x24 2, bid := fieldAt m.toNat 0x20 4, lo := va % 2 ^ 21, len := watchLen (fieldAt m.toNat 0x10 2), rd := bits % 2 = 1, wr := bits / 2 % 2 = 1, at_ := bits / 4 % 2 = 1 }) ∧ (watchOk m = false → refused (.watchpoint m))) ∧
    (runs 10 → c.claim = none ∨ ¬ zero [(4, 1), (8, 8), (0x10, 8)] → refused (.resume m)) ∧
    (runs 10 → c.claim ≠ none → zero [(4, 1), (8, 8), (0x10, 8)] → fieldAt m.toNat 0x20 8 / 2 ^ 63 = 0 → ∀ key b, s.block? key = some b → b.ended = false → b.ctx = ctx → b.halted = true → b.grid = fieldAt m.toNat 0x24 2 →
      b.bid = fieldAt m.toNat 0x20 4 → done (.resume m) fun u => (∃ x, u.block? key = some x ∧ x.halted = false ∧ x.swap = false) ∧
        ∀ wid w, s.warp? wid = some w → w.blk = key → (u.warpD wid).halted = false) ∧
    (runs 10 → c.claim ≠ none → zero [(4, 1), (8, 8), (0x10, 8)] → fieldAt m.toNat 0x20 8 / 2 ^ 63 = 1 → done (.resume m) fun u => ∀ key b, s.block? key = some b → b.ended = false → b.halted = true →
      b.core < 128 → b.core / 4 = fieldAt m.toNat 0x26 1 % 32 → ∃ x, u.block? key = some x ∧ x.halted = false ∧ x.swap = false) ∧
    (runs 10 → c.claim ≠ none → zero [(4, 1), (8, 8), (0x10, 8)] → fieldAt m.toNat 0x20 8 / 2 ^ 63 = 0 → (∀ e ∈ s.blocks, e.2.isTarget ctx m = false) → (∀ x ∈ s.images, x.block.isTarget ctx m = false) →
      done (.resume m) fun u => u.blocks = s.blocks ∧ u.images = s.images ∧ u.warps = s.warps) ∧
    (runs 11 → c.claim = none ∨ ¬ zero [(4, 1), (8, 8)] → refused (.step m)) ∧
    (runs 11 → c.claim ≠ none → zero [(4, 1), (8, 8)] → ∀ key b wid w p, s.stepTarget m = some (key, b) → b.wids[fieldAt m.toNat 0x10 1 % 32]? = some wid → s.warp? wid = some w → w.offcore = none → w.stepping = false → w.live ≠ 0 →
      s.nextPc wid = some p → Completes s (.step m) fun u => u = { s.updWarp wid (fun w => { w with stepping := true, pass := some p.1 }) with manage := [m] }) ∧
    (runs 12 → (entry = 0 ∨ (10 ≤ entry ∧ entry ≤ 24 ∧ ring ctx 7) → tail → done (.sampling m) fun u => (u.ctx ctx).sampling = { k := entry, ring := BitVec.ofNat 64 va, lastTick := s.clock.time }) ∧
      (¬ (entry = 0 ∨ (10 ≤ entry ∧ entry ≤ 24 ∧ ring ctx 7)) ∨ ¬ tail → refused (.sampling m))) ∧
    (live → op = 13 → ((entry = 0 ∨ (10 ≤ entry ∧ entry ≤ 24 ∧ ring physical 9)) → tail → done (.timeSeries m) fun u => u.series = { k := entry, ring := BitVec.ofNat 64 va, lastTick := s.clock.time }) ∧
      (¬ (entry = 0 ∨ (10 ≤ entry ∧ entry ≤ 24 ∧ ring physical 9)) ∨ ¬ tail → refused (.timeSeries m))) ∧
    (live → op = 14 → (1500 ≤ fieldAt m.toNat 8 2 → fieldAt m.toNat 8 2 ≤ 3000 → done (.setBudget m) fun u => u.platform.nextBudget = some (fieldAt m.toNat 8 2) ∧ u.platform.budget = s.platform.budget) ∧
      (fieldAt m.toNat 8 2 < 1500 ∨ 3000 < fieldAt m.toNat 8 2 → refused (.setBudget m))) ∧
    (booted → s.manage = [] → op = 15 → (s.platform.signed < 2 ^ 20 → n % 4096 = 0 → n + 8192 ≤ dramTop → done (.attestation m) fun u => u.platform.signed = s.platform.signed + 1 ∧
        u.mem = (s.storeGlb n (s.report8k m)).mem) ∧ (2 ^ 20 ≤ s.platform.signed ∨ n % 4096 ≠ 0 ∨ dramTop < n + 8192 → refused (.attestation m)))

/-- R417, R418, R424 to R432: sampling and the time series come at their ticks, and a latch clears every counter; a budget in range is in force
from the next grant period, whose grants serve context switches and trap warps first; a scrub corrects and counts the error that it meets, or counts it
again where it cannot be corrected (assumption 32); freeze stops the chip; the test access port shifts out its identity and the addressed words, and a
code that it does not list selects BYPASS; the ROM tries the flash image, or the one that WRITEs and a SEND to queue pair 0x30 bring, and firmware applies
its configuration; a step that fails holds the chip where it is. Where the answers of that queue pair go, and which address a byte of the image has, is
the model's (assumption 30), and so are the form of the demands that a grant serves (assumptions 31 and 33), the read-out's word order (assumption 33)
and what reset keeps (assumption 4). -/
def Obligations.PlatformEvents : Prop :=
  ∀ (s : State),
    let p := s.platform
    let only := fun (i : Instr) (f : Platform) => Completes s i fun u => u = { s with platform := f }
    let due := fun (x : Tracing) => x.k ≠ 0 ∧ x.lastTick < s.clock.time / 2 ^ x.k * 2 ^ x.k
    ((∀ e ∈ s.ctxs, ¬ due (s.ctx e.1).sampling) → Completes s .pcSample fun u => u = s) ∧
    (∀ ctx, (s.ctxs.find ctx).isSome = true → due (s.ctx ctx).sampling → Completes s .pcSample fun u => (u.ctx ctx).sampling.lastTick = s.clock.time ∧ RegsSame s u) ∧
    (due s.series → Completes s .counterLatch fun u => u.series = { s.series with lastTick := s.clock.time } ∧ RegsSame s u ∧
      (s.plainMem → (∀ c i, (u.core c).counters.get 0 i = 0 ∧ (u.core c).throttled = 0) ∧ ∀ i, u.dieCounters.get 0 i = 0) ∧ ∀ c, (u.core c).spad = (s.core c).spad) ∧
    (¬ due s.series → Completes s .counterLatch fun u => u = s) ∧
    (∀ w, only (.smbusBudgetWrite w) (if 1500 ≤ w ∧ w ≤ 3000 then { p with nextBudget := some w } else p)) ∧
    (∀ demand, (∃ t, p.grantAt = some t ∧ s.clock.time < t + 1250) → Completes s (.powerGrant demand) fun u => u = s) ∧
    (∀ demand, (∀ t, p.grantAt = some t → t + 1250 ≤ s.clock.time) → Completes s (.powerGrant demand) fun u =>
      u.platform.grants.map (·.2) = demand.take 396 ∧ u.platform.grantAt = some s.clock.time ∧ u.platform.nextBudget = none ∧ { u with platform := p } = s) ∧
    (∀ a b rest, (∀ t, p.grantAt = some t → t + 1250 ≤ s.clock.time) → rest.length ≤ 394 → Completes s (.powerGrant (a :: b :: rest)) fun u =>
      let budget := match p.nextBudget with | some x => x | none => p.budget
      let sum := rest.foldl (· + ·) 0
      let left := budget - min a budget - min b (budget - min a budget)
      u.platform.budget = budget ∧ u.platform.nextBudget = none ∧ u.platform.grants.length = rest.length + 2 ∧ u.platform.grants[0]? = some (min a budget, a) ∧
      u.platform.grants[1]? = some (min b (budget - min a budget), b) ∧ (∀ i d, rest[i]? = some d → u.platform.grants[i + 2]? = some (if sum ≤ left then d else left * d / sum, d)) ∧
      { u with platform := p } = s) ∧
    (∀ loc, let count := fun (m : Map Word) => if m.get 0 (unitOf loc) = BitVec.allOnes 32 then m else m.put 0 (unitOf loc) (m.get 0 (unitOf loc) + 1)
      (loc ∈ p.errors → only (.scrub loc) { p with uncorrected := count p.uncorrected }) ∧
      (loc ∉ p.errors → loc ∈ p.latent → p.latent.Nodup → only (.scrub loc) { p with corrected := count p.corrected, latent := p.latent.filter fun l => l ≠ loc }) ∧
      (loc ∉ p.errors → loc ∉ p.latent → only (.scrub loc) p)) ∧
    only .freezeN { p with frozen := true } ∧ only .freeze { p with frozen := true, jtagIr := 0x21 } ∧ (∀ v, only (.dumpaddr v) { p with dumpAddr := v, jtagIr := 0x22 }) ∧
    (∀ bit, Completes s (.bypass bit) fun u => u = { s with outbox := s.outbox ++ [.scanOut (if p.bypass then 1 else 0)], platform := { p with jtagIr := 0xFF, bypass := bit } }) ∧
    (Completes s .idcode fun u => u = { s with outbox := s.outbox ++ [.scanOut 0x04480A5B], platform := { p with jtagIr := 0x01 } }) ∧
    (Completes s .dumpdata fun u => { u with outbox := s.outbox, platform := p, fresh := s.fresh } = s ∧ (∃ w, u.outbox = s.outbox ++ [.scanOut w] ∧ ∀ x, s.dumpWord = some x → w = x) ∧
      u.platform.dumpAddr.toNat % 2 ^ 38 = (p.dumpAddr.toNat + 1) % 2 ^ 38 ∧ u.platform.dumpAddr.toNat / 2 ^ 38 = p.dumpAddr.toNat / 2 ^ 38) ∧
    (∀ pk : Packet,
      let takes : Prop := p.boot = .rom ∧ p.waits = true ∧ pk.intact = true ∧ pk.pkey = 0xFFFF ∧ pk.qpn = 0x30
      let x := s.queue 259
      let d := psnSub pk.psn.toNat x.epsn
      let answered := fun (u : State) (op psn code : Nat) => u.outbox = s.outbox ++
        [.packet 259 op { emptyPacket with src := pk.dst, dst := pk.src, qpn := 0x30, psn := BitVec.ofNat 24 psn, code := BitVec.ofNat 8 code }]
      let image := (List.range (match p.loading.getLast? with | some e => e.1 + 1 | none => 0)).map (p.loading.get 0)
      let inTurn : Prop := takes ∧ d = 0 ∧ pk.form = true
      let after := fun (u : State) => answered u 7 pk.psn.toNat 0 ∧ (u.queue 259).epsn = psnAdd x.epsn 1 ∧ { u with outbox := s.outbox, queues := s.queues, platform := p } = s
      (¬ takes → Completes s (.bootImageSend pk) fun u => u = s) ∧
      (inTurn → p.accepts image = true → Completes s (.bootImageSend pk) fun u => after u ∧
        u.platform = { p with boot := .firmware, loaded := image, version := Config.imageVersion image, waits := false, loading := [], alertLow := false }) ∧
      (inTurn → p.accepts image = false → Completes s (.bootImageSend pk) fun u => after u ∧ u.platform = { p with waits := true, loading := [], alertLow := true }) ∧
      (inTurn → pk.first = true → Completes s (.rdmaWrite pk) fun u => after u ∧ (∀ i, i < pk.data.length → u.platform.loading.get 0 (pk.addr.toNat + i) = pk.data.getD i 0) ∧
        (∀ a, (a < pk.addr.toNat ∨ pk.addr.toNat + pk.data.length ≤ a) → u.platform.loading.get 0 a = p.loading.get 0 a) ∧ { u.platform with loading := p.loading } = p) ∧
      (∀ i ∈ [Instr.bootImageSend pk, .rdmaWrite pk], takes → (d ≠ 0 → d < 2 ^ 23 → Completes s i fun u => u.platform = p ∧ (x.naked ≠ some x.epsn → answered u 9 x.epsn 0x60)) ∧
        (pk.form = false → d = 0 ∨ 2 ^ 23 ≤ d → Completes s i fun u => u.platform = p ∧ answered u 9 pk.psn.toNat 0x61) ∧
        (pk.form = true → 2 ^ 23 ≤ d → Completes s i fun u => u.platform = p ∧ answered u 7 (psnSub x.epsn 1) 0))) ∧
    (∀ image, p.accepts image = true ↔ Config.imageVerifies image = true ∧ p.fuses.toNat ≤ Config.imageVersion image) ∧
    (p.held = false → p.waits = false →
      (p.boot = .rom ∨ p.boot = .firmware → s.bringUp false = { s with platform := { p with held := true, alertLow := true } }) ∧
      (p.boot = .rom → s.bringUp true = { s with platform := if p.accepts p.image then
        { p with boot := .firmware, loaded := p.image, version := Config.imageVersion p.image, waits := false, loading := [], alertLow := false }
        else { p with waits := true, loading := [], alertLow := true } }) ∧
      (p.boot = .firmware → (∃ n, (s.bringUp true).platform = { p with boot := .locking, config := configOf p.loaded, key := some (p.key.getD n) }) ∧
        ∀ k, k < 3 → ((s.bringUp true).queue (256 + k)).st = .ready ∧ ((s.bringUp true).queue (256 + k)).rqpn = (configOf p.loaded).hostQpns.getD k 0 ∧
          ((s.bringUp true).queue (256 + k)).spsn = 0 ∧ ((s.bringUp true).queue (256 + k)).epsn = 0)) ∧
    (p.held = true ∨ p.waits = true → ∀ ok, s.bringUp ok = s) ∧
    (∀ code, code ∉ [0x01#8, 0x21, 0x22, 0x23] → (s.scanIr code).platform = { p with jtagIr := 0xFF, bypass := false }) ∧
    (∀ code, code ∈ [0x01#8, 0x21, 0x22, 0x23] → (s.scanIr code).platform = { p with jtagIr := code, frozen := p.frozen || code = 0x21 }) ∧
    (Completes s .resetN fun u => { u with fresh := State.reset.fresh, agenda := State.reset.agenda, outbox := State.reset.outbox, platform := State.reset.platform } = State.reset ∧
      u.cycle = 0 ∧ u.warps = [] ∧ u.blocks = [] ∧ u.ctxs = [] ∧ u.cores = [] ∧ u.queues = [] ∧ u.hytur = {} ∧ u.platform.frozen = false ∧
      u.platform = { State.reset.platform with fuses := p.fuses, image := p.image, signed := p.signed, key := p.key } ∧ u.platform.boot = .rom)

/-! ## The pod -/

/-- R279, R282, R284 to R289, R322, R389, R392, R395, R400, R427: what the host submits is stamped, numbered, kept and sent, or refused, and waits while the
origin queue is full; a lantern every 1,250 ticks; a lantern or an event heard for the first time, in a datagram whose headers are right, raises its
origin's horizon where nothing is missing before it and goes on to the pod; a gap of 4 µs is asked for and a request answered, and so are the events of a lost
chip below its cut; the event with the smallest key is applied once every member's horizon has passed it; a chip whose digest most of the view
disputes fences itself. The model's are the layout of a retransmit request (assumption 24), when all of a lost chip's events are held and who answers for
them (assumption 64), the gap's time that begins again after asking (28), that a fenced chip goes on delivering (29), one outbox entry for a message
without its tree (50), a host's submission that waits for room (47), and the answer's number (26). -/
def Obligations.OrderService : Prop :=
  ∀ (s : State),
    let h := s.hytur
    let now := s.clock.time
    let booted : Prop := s.platform.boot ≠ .rom ∧ s.platform.boot ≠ .firmware
    let joins : Prop := h.join = .replaying ∨ h.join = .readySent
    let same := fun (i : Instr) => Completes s i fun u => u = s
    let holds := fun (c cut : Nat) => cut ≤ (s.peer c).horizon ∨ ∃ n, (s.peer c).endAt = some n ∧ oseqBefore (h.heldUpTo c) n = false
    (∀ m,
      let kind := bodyField m 0 1
      let type := msgType m
      let e : Ev := { msg := mkMsg (max now h.minStamp) (msgCtx m) type h.nextOseq s.chip (bodyField m 0 40) }
      let ok : Prop := s.isMember = true ∧ h.fenced = false ∧ msgField m 8 8 / 2 ^ 62 = 0 ∧ msgField m 0x38 4 = 0 ∧
        ((type = 1 ∧ (kind = 1 ∨ kind = 3 ∨ kind = 4 ∨ kind = 5)) ∨ type = 4 ∨ type = 9 ∨ type = 10) ∧
        ((type = 1 ∧ kind = 3) ∨ (h.tables.ctx (h.tables.ctxRowOf (msgCtx m))).st = .opened ∨ ∃ x ∈ h.undelivered, msgType x.msg = 1 ∧ bodyField x.msg 0 1 = 3 ∧ msgCtx x.msg = msgCtx m)
      let answered := fun (u : State) (x : Msg) => s.answersHost u 0 x
      (¬ booted → same (.hostSubmission m)) ∧
      (booted → s.submits = [] → ok → s.originFull = false → Completes s (.hostSubmission m) fun u => answered u e.msg ∧ u.outbox = s.outbox ++ [.datagram e] ∧
        u.hytur = { h with minStamp := max now h.minStamp + 1, queued := h.queued + 1, nextOseq := (h.nextOseq + 1) % 2 ^ 38, undelivered := h.undelivered ++ [e] }) ∧
      (booted → s.submits = [] → ok → s.originFull = true → Completes s (.hostSubmission m) fun u => u = { s with submits := [m] }) ∧
      (booted → s.submits = [] → ¬ ok → Completes s (.hostSubmission m) fun u => answered u (BitVec.ofNat 512 (setField m.toNat 0x38 1 1)) ∧ u.outbox = s.outbox ∧ u.hytur = h)) ∧
    (∀ d : Datagram, datagramOk d = true ↔ d.head.port < 16 ∧ d.head.hop = 255 ∧ d.head.dport = 47211 ∧ d.head.sum = true ∧ d.head.linkLocal = true ∧ msgOk d.msg = true) ∧
    (let due : Prop := s.isMember = true ∧ s.schedError = false ∧ h.lastLantern + 1250 ≤ now
     (¬ due → same .lanternEmit) ∧
     (due → Completes s .lanternEmit fun u => u = { s.countDie 0 33 with
        outbox := s.outbox ++ [.lantern (mkMsg now 0 0 ((h.nextOseq + 2 ^ 38 - 1) % 2 ^ 38) s.chip (mkBody [(0, 8, h.tables.sd.toNat), (8, 8, h.tables.position), (0x10, 8, h.delivered)]))]
        hytur := { h with lastLantern := now } })) ∧
    (∀ d : Datagram,
      let m := d.msg
      let o := msgOrigin m
      let p := s.peer o
      let new : Prop := datagramOk d = true ∧ msgType m = 0 ∧ o ≠ s.chip ∧ msgStamp m ∉ p.lanterns
      let agree := fun (c : Nat) => if c = o then
          (match h.history.find? fun x => x.1 = bodyField m 8 8 with | some x => some (decide (x.2 = BitVec.ofNat 64 (bodyField m 0 8)), msgStamp m) | none => p.agree)
        else (s.peer c).agree
      let against := (h.tables.view.filter fun c => c != s.chip && (agree c).any fun (a : Bool × Nat) => !a.1 && now < a.2 + 125000).length
      let outvoted : Prop := h.tables.view.length < 2 * against
      let hears := Completes s (.lantern d)
      let learnt := fun (u : State) => (u.peer o).lanterns = msgStamp m :: p.lanterns ∧ (u.peer o).lastHeard = now ∧ (u.peer o).agree = agree o ∧ u.hytur.suspects.find o = none ∧
        (u.peer o).horizon = (if oseqBefore (msgOseq m) (h.heldUpTo o) = true then max p.horizon (msgStamp m) else p.horizon) ∧ u.hytur.tables = h.tables
      (¬ new → same (.lantern d)) ∧
      (new → ¬ joins → s.isMember = false ∨ h.fenced = true → hears fun u => u.outbox = s.outbox ∧ learnt u) ∧
      (new → ¬ joins → s.isMember = true → h.fenced = false →
        (¬ outvoted → hears fun u => u.outbox = s.outbox ++ [.lantern m] ∧ { u with outbox := s.outbox, hytur := h } = s ∧ learnt u) ∧
        (outvoted → hears fun u => u.hytur.fenced = true ∧ u.blocks = [] ∧ u.warps = [])) ∧
      (new → joins → outvoted → hears fun u => u.hytur.join = .none ∧ u.hytur.fenced = true ∧ u.hytur.reason = 4 ∧ u.blocks = [] ∧ u.warps = [] ∧
        u.outbox = s.outbox ++ [.message (mkMsg now 0 0x27 0 s.chip (mkBody [(0, 2, s.chip), (2, 1, 2)])) none (some h.sponsor)]) ∧
      (new → h.join = .replaying → o = h.sponsor → ¬ outvoted → bodyField m 8 8 ≤ h.tables.position + 64 → hears fun u => u.hytur.join = .readySent ∧ learnt u ∧
        u.outbox = s.outbox ++ [.message (mkMsg now 0 0x26 0 s.chip (mkBody [(0, 8, h.tables.position)])) none (some h.sponsor)])) ∧
    (∀ (dg : Datagram) att,
      let m := dg.msg
      let o := msgOrigin m
      let e : Ev := { msg := m, att := att }
      let got := Completes s (.hyturEventMessage dg att)
      let taken : Prop := headOk dg.head = true ∧ evOk m att = true
      let leaves : Prop := Effect.out s.chip ∈ (h.tables.apply e).2
      let here : Prop := taken ∧ ¬ joins ∧ s.isMember = true ∧ o ≠ s.chip ∧ msgType m ≠ 6 ∧ s.cutOff m = false
      let had : Prop := msgType m ≠ 6 ∧ oseqBefore (msgOseq m) (h.tables.chips.get ({} : ChipRow) o).oseq = true
      (¬ taken → got fun u => u = s) ∧
      (taken → joins → had → got fun u => u = s) ∧
      (taken → joins → ¬ had → ¬ leaves → ¬ (msgType m = 7 ∧ bodyField m 0 1 = 2 ∧ bodyField m 2 2 = s.chip) → got fun u =>
        u.hytur.tables = (h.tables.apply e).1 ∧ u.hytur.delivered = msgStamp m ∧ u.hytur.joinAt = now) ∧
      (taken → joins → ¬ had → leaves → got fun u => u.hytur.tables = (h.tables.apply e).1 ∧ u.hytur.fenced = true ∧ u.hytur.fenceAt = now ∧ u.hytur.join = .none ∧ u.blocks = [] ∧ u.warps = []) ∧
      (¬ joins → (s.isMember = false ∨ o = s.chip ∨ msgType m = 6 ∨ s.cutOff m = true) → got fun u => u = s) ∧
      (here → s.hasEvent m = true → got fun u => u.outbox = s.outbox ∧ u.hytur.undelivered = h.undelivered ∧ (u.peer o).lastHeard = now) ∧
      (here → s.hasEvent m = false → got fun u =>
        u.hytur.undelivered = h.undelivered ++ [e] ∧ u.outbox = (if h.fenced then s.outbox else s.outbox ++ [.datagram e]) ∧ { u with outbox := s.outbox, hytur := h } = s ∧
        (u.peer o).horizon = (if oseqBefore (msgOseq m) (Hytur.heldUpTo { h with undelivered := h.undelivered ++ [e] } o) = true then max (s.peer o).horizon (msgStamp m) else (s.peer o).horizon))) ∧
    (∀ o, let gap := (s.peer o).gapSince
      let a := (s.peer o).answerer
      let answerer := if a ∈ h.tables.view then a else match h.tables.view.filter (fun x => x != s.chip && x != o) with | x :: _ => x | [] => a
      let lost : Prop := s.isMember = true ∧ ∃ cut t, h.cuts.find o = some cut ∧ (s.peer o).asked = some t ∧ ¬ holds o cut ∧ t + 5000 ≤ now
      (∀ cut, lost → h.cuts.find o = some cut → Completes s (.retransmitGapTimeout o) fun u => (u.peer o).asked = some now ∧ u.hytur.undelivered = h.undelivered ∧
        u.outbox = s.outbox ++ [.request (mkMsg now 0 0x10 0 s.chip (mkBody [(0, 2, o), (2, 2, answerer), (8, 8, h.heldUpTo o), (0x10, 8, 2 ^ 38 - 2), (0x18, 8, cut)]))]) ∧
      (¬ lost → gap = none → same (.retransmitGapTimeout o)) ∧
      (∀ t l, ¬ lost → gap = some (t, l) →
        let due : Prop := s.isMember = true ∧ t + 5000 ≤ now
        (¬ due → same (.retransmitGapTimeout o)) ∧
        (due → Completes s (.retransmitGapTimeout o) fun u => (u.peer o).gapSince = some (now, l) ∧ u.hytur.undelivered = h.undelivered ∧
          u.outbox = s.outbox ++ [.request (mkMsg now 0 0x10 0 s.chip (mkBody [(0, 2, o), (2, 2, 0xFFFF), (8, 8, h.heldUpTo o), (0x10, 8, l), (0x18, 8, 0)]))]))) ∧
    (∀ dg : Datagram,
      let m := dg.msg
      let o := bodyField m 0 2
      let cut := bodyField m 0x18 8
      let first := bodyField m 8 8
      let n := (bodyField m 0x10 8 + 2 ^ 38 - first) % 2 ^ 38 + 1
      let asked := (h.tail ++ h.undelivered).filter fun e => msgOrigin e.msg = bodyField m 0 2 && (msgOseq e.msg + 2 ^ 38 - first) % 2 ^ 38 < n
      let found := asked.filterMap s.withRecord
      let kept : Prop := datagramOk dg = true ∧ msgType m = 0x10 ∧ s.isMember = true
      let ends : Prop := bodyField m 2 2 = 0xFFFE
      let mine : Prop := cut ≠ 0 ∧ bodyField m 2 2 = s.chip ∧ cut ≤ (s.peer o).horizon
      let tell := fun (msg : Msg) (att : Option Attach) => Out.message msg att (some (msgOrigin m))
      (¬ kept → same (.retransmitRequest dg)) ∧
      (kept → ends → Completes s (.retransmitRequest dg) fun u => u.outbox = s.outbox ∧ u.hytur.undelivered = h.undelivered ∧
        ((h.cuts.find o).isSome = true → (u.peer o).endAt = some (bodyField m 8 8)) ∧ (h.cuts.find o = none → (u.peer o).endAt = (s.peer o).endAt)) ∧
      (kept → ¬ ends → mine → Completes s (.retransmitRequest dg) fun u => { u with outbox := s.outbox, hytur := h } = s ∧ u.outbox = s.outbox ++ ((found.filter fun e => msgStamp e.msg < cut).map fun e => tell e.msg e.att) ++
        [tell (mkMsg now 0 0x10 0 s.chip (mkBody [(0, 2, o), (2, 2, 0xFFFE), (8, 8, h.endOf o cut)])) none]) ∧
      (kept → ¬ ends → ¬ mine → Completes s (.retransmitRequest dg) fun u => u.outbox = s.outbox ++ found.map Out.datagram ++ (if found.length < n ∧ h.fenced = false then [.request m] else []) ∧
        { u with outbox := s.outbox, hytur := h } = s ∧ u.hytur.undelivered = h.undelivered ∧ u.hytur.tables = h.tables ∧
        (msgOrigin m = s.chip → u.hytur = h) ∧ (msgOrigin m ≠ s.chip → (u.peer (msgOrigin m)).lastHeard = now ∧ u.hytur.suspects.find (msgOrigin m) = none))) ∧
    (s.isMember = false ∨ h.undelivered = [] → same .eventDelivery) ∧
    (∀ e ∈ h.undelivered, (∀ y ∈ h.undelivered, y = e ∨ keyBefore (evKey e) (evKey y) = true) → s.isMember = true →
      let below := fun (c : Nat) => if c = s.chip then msgStamp e.msg < now else msgStamp e.msg < (s.peer c).horizon ∨ ∃ x, h.cuts.find c = some x ∧ holds c x
      let d := h.tables.apply e
      ((∃ c ∈ h.tables.view, ¬ below c) → same .eventDelivery) ∧
      ((∀ c ∈ h.tables.view, below c) → s.schedError = true → Completes s .eventDelivery fun u => u.hytur.fenced = true) ∧
      ((∀ c ∈ h.tables.view, below c) → s.schedError = false → s.images = [] →
        (h.fenced = true ∨ (s.blocks = [] ∧ s.spent = [] ∧ d.2 = [] ∧ ∀ r ∈ d.1.blocks, r.chip ≠ s.chip)) → Completes s .eventDelivery fun u =>
          u.hytur.tables = d.1 ∧ u.hytur.undelivered = h.undelivered.erase e ∧ u.hytur.delivered = msgStamp e.msg ∧ u.mem = s.mem ∧
          (h.history.length ≤ 1023 → u.hytur.history = h.history ++ [(d.1.position, d.1.sd)])))

/-- R277, R278, R393 to R400: a member silent for 50 µs is suspected and a roll called; a CALL is answered, a majority of answers decides, the
first DECIDE of a roll call is confirmed, and a decision that most of the view confirms cuts the lost chip off; sponsoring, joining and founding;
the pod clock's lock, and what its ports say. Which rows a snapshot's bytes hold is a free value (assumption 23). The model's are the choice of a
sponsor (assumption 25), when a DECIDE can be applied (28), the time of a further CALL and the chip that is asked for a lost chip's events (64), the
founding chip's 10 ms from the lock on (30), the ports' roles and their Announces (70), and the measured offset as an input (51). -/
def Obligations.RollCall : Prop :=
  ∀ (s : State),
    let h := s.hytur
    let now := s.clock.time
    let view := h.tables.view
    let calls : Prop := s.isMember = true ∧ h.fenced = false
    let sent := fun (t : Nat) (d : Datagram) => datagramOk d = true ∧ msgType d.msg = t ∧ s.isMember = true ∧ msgOrigin d.msg ≠ s.chip ∧ msgOrigin d.msg ∈ view
    let sayTo := fun (t : Nat) (body : List (Nat × Nat × Nat)) (att : Option Attach) (dest : Option Nat) => Out.message (mkMsg now 0 t 0 s.chip (mkBody body)) att dest
    let say := fun (t : Nat) (body : List (Nat × Nat × Nat)) (att : Option Attach) => sayTo t body att none
    let same := fun (i : Instr) => Completes s i fun u => u = s
    let told := fun (i : Instr) (l : List Out) (g : Hytur) => Completes s i fun u => u = { s with outbox := s.outbox ++ l, hytur := g }
    let orders := fun (i : Instr) (g : Hytur) (body : List (Nat × Nat × Nat)) =>
      let e : Ev := { msg := mkMsg (max now h.minStamp) 0 7 h.nextOseq s.chip (mkBody body) }
      s.originFull = false → told i [.datagram e] { g with minStamp := max now h.minStamp + 1, queued := h.queued + 1, nextOseq := (h.nextOseq + 1) % 2 ^ 38, undelivered := h.undelivered ++ [e] }
    let horizons := fun (l : List Nat) => l.map fun c => if c = s.chip then now else (s.peer c).horizon
    let called := fun (l : List Nat) (u : State) => u.outbox = s.outbox ++ [say 0x20 [(0, 4, h.r), (4, 1, l.length)] (some (attachSuspects l))] ∧
      u.hytur.call = some { r := h.r, at_ := now, suspects := l, answers := [(s.chip, horizons l)] }
    let fences := fun (i : Instr) => Completes s i fun u => u.hytur.fenced = true ∧ u.blocks = [] ∧ u.warps = []
    let most := fun (n : Nat) => view.length < 2 * n
    (∀ c,
      let silent : Prop := calls ∧ c ≠ s.chip ∧ c ∈ view ∧ h.suspects.find c = none ∧ h.cuts.find c = none ∧ (s.peer c).lastHeard + 62500 ≤ now
      (¬ silent → same (.suspicion c)) ∧
      (silent → h.call ≠ none → told (.suspicion c) [] { h with suspects := h.suspects.set c now }) ∧
      (silent → h.call = none → Completes s (.suspicion c) fun u => called (((h.suspects.set c now).map (·.1)).take 64) u ∧ u.hytur.suspects.find c = some now)) ∧
    (∀ (dg : Datagram) att,
      let m := dg.msg
      let c := msgOrigin m
      let r := bodyField m 0 4
      let l := (List.range (bodyField m 4 1)).map fun i => recField att (2 * i) 2
      (¬ sent 0x20 dg → same (.callMessage dg att)) ∧
      (sent 0x20 dg → Completes s (.callMessage dg att) fun u =>
        (∃ rest, u.outbox = s.outbox ++ (if h.fenced then [] else [say 0x21 [(0, 4, r), (4, 2, c)] (some (attachWords (horizons l)))]) ++ rest ∧ (h.decisions = [] → rest = [])) ∧
        (r, c, l, now) ∈ u.hytur.calls ∧ u.hytur.suspects.find c = none ∧
        (h.decisions = [] → u.hytur.call = match h.call with | some x => if x.r = r ∧ c < s.chip then none else some x | none => none)) ∧
      (¬ sent 0x21 dg → same (.answer dg att)) ∧
      (sent 0x21 dg → Completes s (.answer dg att) fun u => u.outbox = s.outbox ∧ u.hytur.suspects.find c = none ∧
        (r, bodyField m 4 2, c, (List.range 64).map fun i => recField att (8 * i) 8) ∈ u.hytur.answers ∧ u.hytur.call = h.call.map fun x =>
        if x.r = r ∧ bodyField m 4 2 = s.chip ∧ x.decided = false then { x with answers := x.answers.set c ((List.range x.suspects.length).map fun i => recField att (8 * i) 8) } else x) ∧
      (¬ sent 0x22 dg → same (.decide dg att)) ∧
      (sent 0x22 dg →
        let ws := (List.range 64).map fun i => recField att (8 * i) 8
        let good : Prop := h.r ≤ r ∧ BitVec.ofNat 64 (bodyField m 0x10 8) = decisionDigest ws (bodyField m 8 8)
        let named := match h.calls.find? (fun x => x.1 = r && x.2.1 = c) with | some x => some x.2.2.1 | none => none
        (good → Completes s (.decide dg att) fun u =>
          ({ r := r, caller := c, cut := bodyField m 8 8, digest := BitVec.ofNat 64 (bodyField m 0x10 8), words := ws, suspects := named } : Decision) ∈ u.hytur.decisions ∧
          (h.fenced = false → r ∈ u.hytur.confirmed ∧ (r ∉ h.confirmed → ∃ rest, u.outbox = s.outbox ++ say 0x23 [(0, 4, r), (4, 2, c), (8, 8, bodyField m 0x10 8)] none :: rest))) ∧
        (¬ good → Completes s (.decide dg att) fun u => u.outbox = s.outbox ∧ u.hytur.decisions = h.decisions ∧ u.hytur.suspects.find c = none))) ∧
    ((h.call = none → same .decideTimeout) ∧ ∀ c, h.call = some c →
      let cs := c.cuts
      let top := cs.foldl (fun (n : Nat) x => max n x.2) 0
      let ws := decideWords cs
      let d : Decision := { r := c.r, caller := s.chip, cut := top - 1, digest := decisionDigest ws (top - 1), words := ws, suspects := some c.suspects }
      let due : Prop := calls ∧ c.decided = false ∧ c.at_ + 25000 ≤ now
      (∀ i x, c.suspects[i]? = some x → ∃ n, cs[i]? = some (x, n) ∧ ((c.answers.find x).isSome = true → n = 0) ∧
        (c.answers.find x = none → (∀ a ∈ c.answers, a.2.getD i 0 ≤ n) ∧ (n = 0 ∨ ∃ a ∈ c.answers, a.2.getD i 0 = n))) ∧
      (¬ due → same .decideTimeout) ∧
      (due → ¬ most c.answers.length ∨ top = 0 → told .decideTimeout [] { h with call := some { c with decided := true } }) ∧
      (due → most c.answers.length → top ≠ 0 → Completes s .decideTimeout fun u => d ∈ u.hytur.decisions ∧
        ∃ rest, u.outbox = s.outbox ++ say 0x22 [(0, 4, d.r), (8, 8, d.cut), (0x10, 8, d.digest.toNat)] (some (attachWords ws)) :: rest)) ∧
    (∀ dg : Datagram,
      let m := dg.msg
      let x := (bodyField m 0 4, BitVec.ofNat 64 (bodyField m 8 8), msgOrigin m)
      let all := if x ∈ h.confirms then h.confirms else h.confirms ++ [x]
      (¬ sent 0x23 dg → same (.confirm dg)) ∧
      (sent 0x23 dg → Completes s (.confirm dg) fun u => x ∈ u.hytur.confirms ∧ (h.decisions = [] → u.outbox = s.outbox ∧ u.hytur.r = h.r)) ∧
      (sent 0x23 dg → ∀ d, h.decisions = [d] →
        let settled : Prop := d.r = h.r ∧ most (all.filter fun c => c.1 = d.r && c.2.1 = d.digest && view.contains c.2.2).length
        (¬ settled ∨ d.suspects = none → Completes s (.confirm dg) fun u => u.outbox = s.outbox ∧ u.hytur.r = h.r ∧ u.hytur.cuts = h.cuts) ∧
        (∀ l i c, settled → d.suspects = some l → l[i]? = some c → d.words.getD i 0 ≠ 0 → (∀ j, j < l.length → j ≠ i → d.words.getD j 0 = 0) →
          let cut := d.words.getD i 0
          let lacks : Prop := (if c = s.chip then now else (s.peer c).horizon) < cut
          let reporter := match h.answers.find? fun y => y.1 = d.r && y.2.1 = d.caller && y.2.2.2.getD i 0 = cut with | some y => y.2.2.1 | none => d.caller
          let answerer := if reporter ∈ view then reporter else match view.filter (fun x => x != s.chip && x != c) with | x :: _ => x | [] => reporter
          Completes s (.confirm dg) fun u => u.hytur.r = h.r + 1 ∧ u.hytur.call = none ∧ u.hytur.cuts.find c = some cut ∧
            u.hytur.undelivered = (h.undelivered.filter fun e => !(msgOrigin e.msg = c && cut ≤ msgStamp e.msg)) ++ [lossEvent d (c, cut)] ∧
            (lacks → (u.peer c).asked = some now ∧
              u.outbox = s.outbox ++ [.request (mkMsg now 0 0x10 0 s.chip (mkBody [(0, 2, c), (2, 2, answerer), (8, 8, h.heldUpTo c), (0x10, 8, 2 ^ 38 - 2), (0x18, 8, cut)]))]) ∧
            (¬ lacks → u.outbox = s.outbox)))) ∧
    (h.suspects = [] → same .rollCallRetry ∧ same .rollCallFence) ∧
    (∀ t, (∃ x ∈ h.suspects, x.2 = t) → (∀ x ∈ h.suspects, t ≤ x.2) →
      let again : Prop := calls ∧ t + 125000 ≤ now ∧ ∀ x ∈ h.calls, x.1 = h.r → x.2.1 ≤ s.chip → h.suspects.find x.2.1 = none → x.2.2.2 + 125000 ≤ now
      (again → Completes s .rollCallRetry fun u => called ((h.suspects.map (·.1)).take 64) u) ∧ (¬ again → same .rollCallRetry) ∧
      (calls → t + 1250000 ≤ now → fences .rollCallFence) ∧ (¬ calls ∨ now < t + 1250000 → same .rollCallFence)) ∧
    (∀ dg : Datagram,
      let m := dg.msg
      let j := bodyField m 0 2
      let asks : Prop := datagramOk dg = true ∧ msgType m = 0x24 ∧ calls ∧ h.tables.chipSt j ≠ .member
      let readies : Prop := datagramOk dg = true ∧ msgType m = 0x26 ∧ calls ∧ (h.sponsoring.find (msgOrigin m)).isSome = true
      let abandons : Prop := datagramOk dg = true ∧ msgType m = 0x27
      let shown : Prop := datagramOk dg = true ∧ msgType m = 0x25
      (asks → orders (.ask dg) h [(0, 1, 1), (2, 2, j), (4, 2, s.chip)]) ∧ (¬ asks → same (.ask dg)) ∧
      (readies → orders (.ready dg) { h with sponsoring := h.sponsoring.set (msgOrigin m) none } [(0, 1, 2), (2, 2, msgOrigin m), (4, 2, s.chip), (8, 8, (h.tables.chips.get ({} : ChipRow) (msgOrigin m)).oseq)]) ∧ (¬ readies → same (.ready dg)) ∧
      (abandons → h.join ≠ .none → j = h.sponsor → told (.abandon dg) [] { h with join := .none }) ∧
      (abandons → ¬ (h.join ≠ .none ∧ j = h.sponsor) → (h.sponsoring.find j).isSome = true → told (.abandon dg) [] { h with sponsoring := h.sponsoring.del j, snapshots := h.snapshots.del j }) ∧
      (¬ abandons ∨ (¬ (h.join ≠ .none ∧ j = h.sponsor) ∧ h.sponsoring.find j = none) → same (.abandon dg)) ∧
      (shown → h.join = .asked → Completes s (.snapshot dg) fun u => u.hytur.join = .replaying ∧ u.hytur.sponsor = bodyField m 0x18 2 ∧ u.hytur.undelivered = [] ∧ u.hytur.joinAt = now ∧
        u.hytur.tables = snapshotTables (fun t => Config.snapshotRows t (Map.range s.mem snapshotBase 0xC000000000)) (BitVec.ofNat 64 (bodyField m 8 8)) (bodyField m 0 8) ∧ { u with hytur := h } = s) ∧
      (shown → h.join ≠ .asked → h.join ≠ .none → bodyField m 0x18 2 ≠ h.sponsor → told (.snapshot dg) [sayTo 0x27 [(0, 2, s.chip), (2, 1, 3)] none (some (bodyField m 0x18 2))] h) ∧
      (¬ shown ∨ h.join = .none ∨ (h.join ≠ .asked ∧ bodyField m 0x18 2 = h.sponsor) → same (.snapshot dg))) ∧
    (∀ j, let u := s.sendSnapshot j
      u.hytur.sponsoring.find j = some (some 0) ∧ (u.queue (512 + j)).st = .ready ∧ (u.queue (512 + j)).rqpn = 0x20 ∧ (u.queue (512 + j)).spsn = 0 ∧
        ∃ c, (u.queue (512 + j)).cmds = [c] ∧ c.kind = .put none ∧ c.forward = true ∧ c.remote = BitVec.ofNat 64 (j * 2 ^ 54 + snapshotBase) ∧ c.len = h.tables.snapshotBytes ∧
          c.data = (List.range h.tables.snapshotBytes).map (Config.snapshotByte (h.tables.snapshotRows h.r))) ∧
    (let late : Prop := h.join ≠ .none ∧ h.joinAt + 12500000 ≤ now
     (late → told .joinerTimeout [sayTo 0x27 [(0, 2, s.chip), (2, 1, 3)] none (some h.sponsor)] { h with tried := h.sponsor :: h.tried, join := .none }) ∧ (¬ late → same .joinerTimeout)) ∧
    (let may : Prop := s.platform.boot = .joining ∧ s.clock.locked = true ∧ h.join = .none ∧ (h.fenceAt = 0 ∨ h.fenceAt + 1250000 ≤ now) ∧
        (s.platform.config.founding = false ∨ h.fenceAt ≠ 0 ∨ ∃ e ∈ h.peers, ∃ t ∈ e.2.lanterns, s.clock.lockedAt ≤ t)
     let best := fun (c : Nat) => c ∈ s.neighbours ∧ c ≠ s.chip ∧ c ∈ view ∧ c ∉ h.tried
     (∀ c, may → best c → (∀ d, best d → c ≤ d) → Completes s .rejoinAsk fun u => { u with outbox := s.outbox, hytur := h, queues := s.queues } = s ∧
        u.outbox = s.outbox ++ [sayTo 0x24 [(0, 2, s.chip), (2, 1, h.reason)] none (some c)] ∧ u.hytur = { h with join := .asked, sponsor := c, joinAt := now } ∧
        (u.queue (512 + c)).st = .ready ∧ (u.queue (512 + c)).spsn = 0 ∧ (u.queue (512 + c)).epsn = 0 ∧ ∀ q, q ≠ 512 + c → u.queue q = s.queue q) ∧
     (¬ may ∨ (∀ d ∈ s.neighbours, d = s.chip) → same .rejoinAsk)) ∧
    (let may : Prop := s.platform.config.founding = true ∧ s.platform.boot = .joining ∧ s.clock.locked = true ∧ h.join = .none ∧ s.clock.lockedAt + 12500000 ≤ now ∧
        ∀ e ∈ h.peers, ∀ t ∈ e.2.lanterns, t < s.clock.lockedAt
     (may → s.queues = [] → s.aliasQ = [] → Completes s .founding fun u => u.platform.boot = .member ∧ u.hytur.tables = { chips := [(s.chip, { st := .member, oseq := 0 })] } ∧ u.isMember = true ∧
        u.hytur.fenced = false ∧ u.hytur.nextOseq = 0 ∧ u.ctxs = [] ∧ u.hytur.undelivered = []) ∧
     (¬ may → same .founding)) ∧
    (let free : Prop := s.clock.locked = false ∧ s.clock.since + 1250000 ≤ now
     (free → calls → fences .clockUnlockFence) ∧ (¬ free ∨ ¬ calls → same .clockUnlockFence)) ∧
    (∀ port d o, s.platform.boot = .rom ∨ s.platform.boot = .firmware ∨ 16 < port → same (.ptpMessage (.announce port d)) ∧ same (.ptpMessage (.offset port o)) ∧ same (.ptpMessage (.pdelayReq port))) ∧
    (∀ port, port < 16 → s.platform.boot ≠ .rom → s.platform.boot ≠ .firmware → Completes s (.ptpMessage (.pdelayReq port)) fun u =>
      u = { s with outbox := s.outbox ++ [.ptp port .pdelayResp, .ptp port .pdelayRespFollowUp] }) ∧
    (∀ port d, port ≤ 16 → s.platform.boot ≠ .rom → s.platform.boot ≠ .firmware → Completes s (.ptpMessage (.announce port d)) fun u =>
      u = { s with clock := { s.clock with masters := s.clock.masters.set port d } }) ∧
    (∀ port (o : Int),
      let near := if -50 ≤ o ∧ o ≤ 50 then s.clock.good + 1 else 0
      let locked : Bool := if o < -100 ∨ 100 < o then false else if s.clock.locked = true then true else decide (16 ≤ near)
      let took := fun (u : State) => u.clock.offset = o ∧ u.clock.good = near ∧ u.clock.locked = locked
      let slave : Prop := port ≤ 16 ∧ s.ptpRole port = .slave
      (¬ slave → same (.ptpMessage (.offset port o))) ∧
      (slave → s.platform.boot = .joining ∨ s.platform.boot = .member → Completes s (.ptpMessage (.offset port o)) fun u => took u ∧ u.clock.time = now ∧ { u with clock := s.clock } = s) ∧
      (slave → s.platform.boot = .locking → Completes s (.ptpMessage (.offset port o)) fun u => took u ∧ u.clock.time = ((now : Int) - o * 5 / 4).toNat ∧
        u.platform = { s.platform with boot := if locked then .joining else .locking } ∧ { u with clock := s.clock, platform := s.platform } = s)) ∧
    (∀ p d, s.clock.masters = [(p, d)] → s.ptpAnnounced = if listBefore (ptpRank d) (ptpRank s.ptpSelf) = true then { d with steps := d.steps + 1 } else s.ptpSelf) ∧
    (s.clock.masters = [] → s.ptpAnnounced = s.ptpSelf) ∧
    (s.clock.masters = [] → ∀ port, s.ptpRole port = if port < 16 then .master else .disabled) ∧
    (s.ptpRole 16 = .slave ∨ s.ptpRole 16 = .disabled) ∧
    (∀ p d, s.clock.masters = [(p, d)] → (s.ptpRole p = .slave ↔ listBefore (ptpRank d) (ptpRank s.ptpSelf) = true)) ∧
    (∀ port,
      let due : Prop := s.platform.boot ≠ .rom ∧ s.platform.boot ≠ .firmware ∧ port < 17 ∧ ∀ t, s.clock.syncAt.find port = some t → t + 9765625 ≤ now
      let announces : Prop := s.ptpRole port = .master ∧ ∀ t, s.clock.announceAt.find port = some t → t + 2500000000 ≤ now
      let syncs := if s.ptpRole port = .master then [Out.ptp port .sync, .ptp port .followUp] else []
      let tells := fun (u : State) (l : List Out) => u.outbox = s.outbox ++ l ∧ u.clock.syncAt = s.clock.syncAt.set port now ∧ { u with outbox := s.outbox, clock := s.clock } = s ∧
        u.clock.time = now ∧ u.clock.locked = s.clock.locked
      (due → port < 16 → announces → Completes s (.ptpSyncInterval port) fun u => tells u (.ptp port (.announce s.ptpAnnounced) :: syncs ++ [.ptp port .pdelayReq]) ∧ u.clock.announceAt = s.clock.announceAt.set port now) ∧
      (due → port < 16 → ¬ announces → Completes s (.ptpSyncInterval port) fun u => tells u (syncs ++ [.ptp port .pdelayReq]) ∧ u.clock.announceAt = s.clock.announceAt) ∧
      (due → port = 16 → Completes s (.ptpSyncInterval port) fun u => tells u (if s.ptpRole 16 = .slave then [.ptp 16 .delayReq] else [])) ∧
      (¬ due → same (.ptpSyncInterval port)))

/-! ## The porter on the wire -/

/-- R322 to R325, R328, R339: a control command that keeps R324 binds, unbinds or resets its queue and is answered 0 with the queue's QPN, any
other is answered 1; a bind within 1 ms of its queue's unbind waits, and so do the commands behind it; the queues of a port whose buckets hold their
next packet's bytes send in turn, an answer before a command; their timers retransmit, resend, acknowledge what no unwritten record holds, and let the rate
recover. The model's are the numbers of packet kinds and answers (assumption 26), the payload that a bucket is charged (41), ECT of data packets alone and
the headers as fields (66), answers that are held back (68), and the one PSN that a READ takes (27). -/
def Obligations.PorterQueues : Prop :=
  ∀ (s : State),
    let now := s.clock.time
    let same := fun (i : Instr) => Completes s i fun u => u = s
    let booted : Prop := s.platform.boot ≠ .rom ∧ s.platform.boot ≠ .firmware
    (∀ m,
      let op := fieldAt m.toNat 0 1
      let q := fieldAt m.toNat 1 1
      let x := s.queue q
      let open_ : Prop := ∃ c, s.ctxs.find (fieldAt m.toNat 2 1) = some c ∧ c.gen = fieldAt m.toNat 4 2
      let port := fieldAt m.toNat 3 1
      let ok : Prop := open_ ∧
        ((op = 1 ∧ x.st = .unbound ∧ port ≤ 16 ∧ fieldAt m.toNat 8 4 < 2 ^ 24 ∧ fieldAt m.toNat 0xC 4 < 2 ^ 24 ∧ fieldAt m.toNat 0x10 4 < 2 ^ 24 ∧
            (port = 16 ∨ (fieldAt m.toNat 6 2 < 1024 ∧ fieldAt m.toNat 0x20 16 = 0))) ∨
          (op = 2 ∧ x.st ≠ .unbound) ∨ (op = 3 ∧ x.st = .error))
      let early : Prop := op = 1 ∧ ∃ t, x.unboundAt = some t ∧ now < t + 1250000
      let answered := fun (u : State) (status inc : Nat) => s.answersHost u 2 (BitVec.ofNat 512 (setField (setField m.toNat 0x38 1 status) 0x3C 4 (inc * 256 + q)))
      let rest := fun (u : State) => u.binds = [] ∧ ((s.queue 258).st ≠ .error → { u with binds := s.binds, queues := s.queues, fresh := s.fresh } = s) ∧ ∀ p, p ≠ q → p ≠ 258 → u.queue p = s.queue p
      let inc := if x.inc = 65535 then 1 else x.inc + 1
      let acts := fun (i : Instr) =>
        (¬ ok → Completes s i fun u => answered u 1 x.inc ∧ rest u ∧ u.queue q = x) ∧
        (ok → op = 1 → ¬ early → Completes s i fun u => answered u 0 inc ∧ rest u ∧ let y := u.queue q
          y.st = .ready ∧ y.inc = inc ∧ y.slot = fieldAt m.toNat 2 1 ∧ y.gen = fieldAt m.toNat 4 2 ∧ y.port = port ∧ y.chip = fieldAt m.toNat 6 2 % 1024 ∧ y.rqpn = fieldAt m.toNat 8 4 ∧
          y.spsn = fieldAt m.toNat 0xC 4 ∧ y.epsn = fieldAt m.toNat 0x10 4 ∧ y.rkey = BitVec.ofNat 32 (fieldAt m.toNat 0x14 4) ∧ y.ring = BitVec.ofNat 64 (fieldAt m.toNat 0x18 8) ∧
          y.gid = BitVec.ofNat 128 (fieldAt m.toNat 0x20 16) ∧ y.count = 0 ∧ y.cseq = 0 ∧ y.posts = 0 ∧ y.cmds = []) ∧
        (ok → op = 2 → Completes s i fun u => (u.queue q).st = .unbound ∧ (u.queue q).unboundAt = some now ∧ (u.queue q).inc = x.inc ∧ (∀ r ∈ u.posted, r.queue ≠ q) ∧ answered u 0 x.inc ∧ u.binds = []) ∧
        (ok → op = 3 → Completes s i fun u => answered u 0 x.inc ∧ rest u ∧ u.queue q = { x with st := .ready, times := [], retries := 0, resend := none })
      (¬ booted → ∀ i ∈ [Instr.bind m, .unbind m, .reset m], same i) ∧
      (booted → s.binds = [] → (∀ i ∈ [Instr.bind m, .unbind m, .reset m], acts i) ∧ same .bindDelay) ∧
      (s.binds = [m] → acts .bindDelay) ∧
      (booted → s.binds = [] → ok → early → ∀ i ∈ [Instr.bind m, .unbind m, .reset m], Completes s i fun u => u = { s with binds := [m] }) ∧
      (∀ n r, s.binds = n :: r → s.bindWaits n = true → (booted → ∀ i ∈ [Instr.bind m, .unbind m, .reset m], Completes s i fun u => u = { s with binds := s.binds ++ [m] }) ∧ same .bindDelay)) ∧
    (∀ q,
      let x := s.queue q
      let room := min 40960000 (x.bucket + x.rate * (now - x.filledAt))
      let slower : Queue := { x with bucket := room, filledAt := now, alpha := x.alpha - x.alpha / 16, rate := min 1600000 (x.rate + 5000), periodAt := now }
      let ack : Packet := { emptyPacket with qpn := BitVec.ofNat 24 x.rqpn, psn := BitVec.ofNat 24 (psnSub ((s.heldFrom q).getD x.epsn) 1), echo := BitVec.ofNat 6 (min 63 x.ce) }
      let wire := s.wireOf q
      let turn : Prop := s.portTurn q = true
      let away := fun (r : Nat) => (r + 2047 - s.served.get 2047 x.port) % 2048
      let able : Prop := x.st = .ready ∧ x.resend = none ∧ s.recordWaits q = false
      let goBack := fun (u : State) => (u.queue q).spsn = psnSub x.spsn x.times.length ∧ (u.queue q).times = [] ∧
        (u.queue q).cmds = x.cmds.map (fun c => { c with sent := c.acked, got := if c.packets ≤ c.acked then c.got else 0, chunk := none }) ∧ u.mem = s.mem ∧ u.outbox = s.outbox
      (turn ↔ s.admitted q = true ∧ ∀ e ∈ s.queues, e.2.port = x.port → s.admitted e.1 = true → away q ≤ away e.1) ∧
      (s.admitted q = true ↔ ∃ n, s.nextSize q = some n ∧ n * 10000 ≤ room) ∧
      (∀ e, s.nextAnswer q = some e → e ∈ x.unsent ∧ s.nextSize q = some (packetSize e.1 e.2)) ∧
      (s.nextAnswer q = none → (nextToSend x.cmds = none ∨ ¬ able → s.nextSize q = none) ∧
        (∀ c, nextToSend x.cmds = some c → able → s.nextSize q = if c.mig = none then some c.nextSize else none)) ∧
      (¬ turn → same (.pacedPacketSend q)) ∧
      (∀ e, turn → s.nextAnswer q = some e → Completes s (.pacedPacketSend q) fun u => (∃ l, u.outbox = s.outbox ++ wire e :: l) ∧ u.mem = s.mem ∧ u.served.get 2047 x.port = q ∧
        (u.queue q).cmds = x.cmds ∧ (u.queue q).bucket = room - packetSize e.1 e.2 * 10000 ∧ (u.queue q).filledAt = now) ∧
      (∀ c op p k t, turn → s.nextAnswer q = none → nextToSend x.cmds = some c → s.payload x c = .ok op p k t →
        (Completes s (.pacedPacketSend q) fun u => u.mem = t.mem ∧ u.served.get 2047 x.port = q ∧
          u.outbox = t.outbox ++ [wire (op, { p with qpn := BitVec.ofNat 24 x.rqpn, psn := BitVec.ofNat 24 x.spsn })] ∧ (u.queue q).spsn = (x.spsn + 1) % 2 ^ 24 ∧
          (u.queue q).times = x.times ++ [now] ∧ (u.queue q).bucket = room - p.data.length * 10000 ∧ ∀ y ∈ (u.queue q).cmds, y.id = c.id → ∃ z ∈ x.cmds, z.id = c.id ∧ y.sent = z.sent + 1)) ∧
      (∀ c v, turn → s.nextAnswer q = none → nextToSend x.cmds = some c → s.payload x c = .mig v → Completes s (.pacedPacketSend q) fun u => u.outbox = s.outbox ∧ u.mem = s.mem ∧
        ∀ y ∈ (u.queue q).cmds, y.id = c.id → y.mig = some (BitVec.ofNat 54 v)) ∧
      (∀ c code v, turn → s.nextAnswer q = none → nextToSend x.cmds = some c → s.payload x c = .bad code v → Completes s (.pacedPacketSend q) fun u =>
        (u.queue q).st = .error ∧ (u.queue q).cmds = [] ∧ (code ≠ Code.machineCheck → u.outbox = s.outbox)) ∧
      (∀ c, let base : Packet := { emptyPacket with addr := if x.port = 16 then c.remote else BitVec.ofNat 64 (va54 c.remote), rkey := x.rkey, len := c.len }
        (c.kind = .get → s.payload x c = .ok 2 base none s) ∧
        (∀ v w, c.kind = .patom false v w → s.payload x c = .ok 3 { base with swapAdd := v } none s) ∧
        (∀ v w, c.kind = .patom true v w → s.payload x c = .ok 4 { base with compare := v, swapAdd := w } none s) ∧
        (c.kind = .put none → c.forward = true → s.payload x c =
          .ok 1 { base with data := (c.data.drop (4096 * c.sent)).take (min 4096 (c.len - 4096 * c.sent)), first := c.sent = 0, last := c.sent + 1 = c.packets } none s) ∧
        (∀ tag, c.kind = .put (some tag) → c.forward = true → s.payload x c = .ok 5 { base with addr := 0, data := bytesOf 4 tag.toNat ++ bytesOf 4 0 ++ c.data.take c.len } none s) ∧
        (∀ a n, c.kind = .put none → c.forward = false → s.plainMem → min 4096 (c.len - 4096 * c.sent) = n → inAperture a = false →
          s.rangeOf x.slot .read c (va54 c.local_ + 4096 * c.sent) n = .ok [(a, n)] → ∃ p k t, s.payload x c = .ok 1 p k t ∧ t.mem = s.mem ∧
            p = { base with data := (List.range n).map fun i => s.readByte (a + i), first := c.sent = 0, last := c.sent + 1 = c.packets })) ∧
      (let due : Prop := x.st = .ready ∧ (∃ t r, x.times = t :: r ∧ t + 40000 ≤ now) ∧ ∀ c ∈ x.cmds, c.mig = none
       (¬ due → same (.retransmitTimeout q)) ∧
       (due → x.retries < 7 → Completes s (.retransmitTimeout q) fun u => goBack u ∧ (u.queue q).retries = x.retries + 1) ∧
       (due → 7 ≤ x.retries → (∃ c ∈ x.cmds, c.acked < c.packets) → Completes s (.retransmitTimeout q) fun u => (u.queue q).st = .error)) ∧
      (x.resend = none → same (.rnrResend q)) ∧
      (∀ t, x.resend = some t → (now < t → same (.rnrResend q)) ∧
        (t ≤ now → Completes s (.rnrResend q) fun u => u = { s with queues := s.queues.set q { x with resend := none } })) ∧
      (x.st = .unbound ∨ now < x.periodAt + 68750 → same (.congestionPeriod q)) ∧
      (x.st ≠ .unbound → x.periodAt + 68750 ≤ now → Completes s (.congestionPeriod q) fun u => u = { s with queues := s.queues.set q slower }) ∧
      (x.ackDue = none → same (.ackCoalescing q)) ∧
      (x.ackDue ≠ none → Completes s (.ackCoalescing q) fun u => s.answersOn u q (7, ack) ∧ { u with outbox := s.outbox, queues := s.queues } = s ∧
        (u.queue q).ackDue = none ∧ (u.queue q).ce = 0 ∧ (u.queue q).cmds = x.cmds ∧ ∀ p, p ≠ q → u.queue p = s.queue p))

/-- R321, R322, R325, R328 to R331, R339, R399: packets that name no bound queue's incarnation are dropped, but that queue pair 1 refuses; a request in
sequence with an open R_Key is performed and answered, one out of sequence is refused with its expected PSN once, a duplicate WRITE is acknowledged, a
READ answered again, an atomic answered from what was kept; a joiner's queue pair 0x20 takes the snapshot's WRITEs; a tagged SEND that nothing awaits is not
ready; a SEND of the host endpoint to a well-known queue pair is performed and answered; an acknowledge completes what it covers; a refusal ends its
command, and CNP is dropped. The model's are the numbers of the packets' kinds (assumption 26), the one PSN of a READ (27), the PSN after an access NAK (40), a
block off-core that no landing can reach (44), frames and ECT as fields and the NAK to queue pair 1 (66), an access NAK's fault and address (67), answers
held back (68), and a SEND of several packets (69). -/
def Obligations.PorterPackets : Prop :=
  ∀ (s : State) (p : Packet),
    let now := s.clock.time
    let n := p.qpn.toNat
    let q := n % 256
    let x := s.queue q
    let hits : Prop := p.intact = true ∧ p.pkey = 0xFFFF ∧ 256 ≤ n ∧ x.st ≠ .unbound ∧ n / 256 = x.inc
    let key := p.rkey.toNat
    let own := (BitVec.ofNat 32 (x.gen * 64 + x.slot)).toNat
    let d := psnSub p.psn.toNat x.epsn
    let t := s.heardPacket q p
    let y := t.queue q
    let echo := BitVec.ofNat 6 (min 63 (if p.ce then x.ce + 1 else x.ce))
    let va := va54 p.addr
    let requests := [(Instr.rdmaWrite p, key), (.rdmaReadRequest p, key), (.atomicFetchAndAdd p, key), (.atomicCompareAndSwap p, key), (.taggedSend p, own)]
    let chipGid := fun (c : Nat) => s.platform.config.podPrefix ++ BitVec.ofNat 64 c
    let frame : Prop := p.intact = true ∧ p.pkey = 0xFFFF
    let booted : Prop := s.platform.boot ≠ .rom ∧ s.platform.boot ≠ .firmware
    let reply := fun (op : Nat) (f : Packet → Packet) => (op, f { emptyPacket with qpn := BitVec.ofNat 24 x.rqpn, psn := p.psn })
    let nak := fun (code : Nat) (data : List Byte) => reply 9 fun z => { z with code := BitVec.ofNat 8 code, data := data, echo := echo }
    let rnr := reply 10 fun z => { z with echo := echo }
    let old8 := fun (old : DWord) => reply 8 fun z => { z with data := bytesOf 8 old.toNat, echo := echo }
    let answered := fun (i : Instr) (o : Nat × Packet) => Completes s i fun u => s.answersOn u q o ∧ u.mem = s.mem ∧ (u.queue q).epsn = x.epsn
    let asks := [Instr.rdmaWrite p, .rdmaReadRequest p, .atomicFetchAndAdd p, .atomicCompareAndSwap p, .taggedSend p]
    let tells := [Instr.readResponse p, .acknowledge p, .atomicAcknowledge p, .nak p, .rnrNak p]
    (¬ frame → ∀ i ∈ asks ++ tells, Completes s i fun u => u = s) ∧
    (¬ hits → 256 ≤ n → ∀ i ∈ asks ++ tells, Completes s i fun u => u = s) ∧
    ((s.queue 2047).st = .unbound → n < 256 → n ∉ [1, 0x10, 0x11, 0x12, 0x20, 0x30] → ∀ i ∈ asks ++ tells, Completes s i fun u => u = s) ∧
    ((s.queue 2047).st = .unbound → n = 1 → (∀ i ∈ tells, Completes s i fun u => u = s) ∧ (¬ booted → ∀ i ∈ asks, Completes s i fun u => u = s) ∧
      (frame → booted → ∀ i ∈ asks, Completes s i fun u =>
        u = { s with outbox := s.outbox ++ [.packet 1 9 { emptyPacket with src := p.dst, dst := p.src, qpn := 1, psn := p.psn, code := 0x61 }] })) ∧
    (∀ c, c < 1024 → frame → n = 0x20 → p.src = chipGid c → p.dst = chipGid s.chip → (s.queue (512 + c)).st ≠ .unbound → p.form = true → psnSub p.psn.toNat (s.queue (512 + c)).epsn = 0 →
      (s.hytur.join = .asked → p.first = true → snapshotBase ≤ va → va + p.data.length ≤ 0xC000000000 → s.plainMem → Completes s (.rdmaWrite p) fun u =>
        (u.queue (512 + c)).epsn = psnAdd (s.queue (512 + c)).epsn 1 ∧ (∀ i, i < p.data.length → u.readByte (va + i) = p.data.getD i 0) ∧ ∀ pa, (pa < va ∨ va + p.data.length ≤ pa) → u.readByte pa = s.readByte pa) ∧
      (s.hytur.join ≠ .asked → Completes s (.rdmaWrite p) fun u => u.mem = s.mem ∧ (u.queue (512 + c)).epsn = (s.queue (512 + c)).epsn) ∧
      (∀ i ∈ [Instr.rdmaReadRequest p, .atomicFetchAndAdd p, .atomicCompareAndSwap p, .taggedSend p], Completes s i fun u => u.mem = s.mem ∧ (u.queue (512 + c)).epsn = (s.queue (512 + c)).epsn)) ∧
    (Completes s (.cnp p) fun u => u = s) ∧
    (hits →
      (d ≠ 0 → d < 2 ^ 23 → ∀ i ∈ requests, Completes s i.1 fun u => u.mem = s.mem ∧ (u.queue q).epsn = x.epsn ∧ (u.queue q).naked = some x.epsn ∧
        (x.naked = some x.epsn → u.outbox = s.outbox) ∧
        (x.naked ≠ some x.epsn → s.answersOn u q (9, { emptyPacket with qpn := BitVec.ofNat 24 x.rqpn, psn := BitVec.ofNat 24 x.epsn, code := 0x60, echo := echo }))) ∧
      (d = 0 ∨ 2 ^ 23 ≤ d → ∀ i ∈ requests, p.form = false ∨ s.openGen (i.2 % 64) (i.2 / 64) = false → answered i.1 (nak 0x61 [])) ∧
      (p.form = true → s.openGen (key % 64) (key / 64) = true →
        let ctx := key % 64
        let at_ := if p.first then va else x.writing.getD va
        let atomics := [(Instr.atomicFetchAndAdd p, fun (old : DWord) => old + p.swapAdd), (.atomicCompareAndSwap p, fun old => if old = p.compare then p.swapAdd else old)]
        let failed := fun (c v : Nat) => nak 0x62 (bytesOf 1 c ++ bytesOf 8 v)
        (2 ^ 23 ≤ d → Completes s (.rdmaWrite p) fun u => u.mem = s.mem ∧ u.outbox = s.outbox ∧ (u.queue q).epsn = x.epsn ∧ (u.queue q).ackDue = some now) ∧
        (d = 0 → ∀ l, t.range ctx .write at_ p.data.length = .ok l → Completes s (.rdmaWrite p) fun u => u.mem = (t.writePieces l p.data).mem ∧ (u.queue q).epsn = psnAdd x.epsn 1 ∧
          (u.queue q).ackDue ≠ none ∧ (u.queue q).writing = (if p.last then none else some (at_ + p.data.length)) ∧
          (∀ a, l = [(a, p.data.length)] → inAperture a = false → s.plainMem → (∀ i, i < p.data.length → u.readByte (a + i) = p.data.getD i 0) ∧
            ∀ pa, (pa < a ∨ a + p.data.length ≤ pa) → u.readByte pa = s.readByte pa)) ∧
        (d = 0 → ∀ v, t.range ctx .write at_ p.data.length = .mig v → answered (.rdmaWrite p) rnr) ∧
        (d = 0 → ∀ c v, c ≠ 0 → t.range ctx .write at_ p.data.length = .bad c v → answered (.rdmaWrite p) (failed c v)) ∧
        (d = 0 ∨ 2 ^ 23 ≤ d → ∀ a, t.range ctx .read va p.len = .ok [(a, p.len)] → p.len ≤ 4096 → inAperture a = false → s.plainMem → Completes s (.rdmaReadRequest p) fun u =>
          u.mem = s.mem ∧ s.answersOn u q (reply 6 fun z => { z with data := (List.range p.len).map fun i => s.readByte (a + i) }) ∧
          (u.queue q).epsn = if d = 0 then psnAdd x.epsn 1 else x.epsn) ∧
        (d = 0 ∨ 2 ^ 23 ≤ d → ∀ c v, c ≠ 0 → t.range ctx .read va p.len = .bad c v → answered (.rdmaReadRequest p) (failed c v)) ∧
        (d = 0 ∨ 2 ^ 23 ≤ d → ∀ v, t.range ctx .read va p.len = .mig v → answered (.rdmaReadRequest p) rnr) ∧
        (∀ f ∈ atomics,
          (d = 0 → va % 8 ≠ 0 → answered f.1 (nak 0x61 [])) ∧
          (d = 0 → va % 8 = 0 → t.translateEngine ctx va .atom = .migrating → answered f.1 rnr) ∧
          (d = 0 → va % 8 = 0 → t.translateEngine ctx va .atom = .pageFault → answered f.1 (failed Code.pageFault va)) ∧
          (d = 0 → va % 8 = 0 → t.translateEngine ctx va .atom = .permission → answered f.1 (failed Code.permission va)) ∧
          (d = 0 → va % 8 = 0 → ∀ pa, t.translateEngine ctx va .atom = .ok pa → inAperture pa = true → answered f.1 (failed Code.formatAtomic va)) ∧
          (d = 0 → va % 8 = 0 → ∀ pa, t.translateEngine ctx va .atom = .ok pa → inAperture pa = false → s.plainMem → Completes s f.1 fun u =>
            let old := BitVec.ofNat 64 (s.readNum pa 8)
            u.readNum pa 8 = (f.2 old).toNat ∧ (∀ a, (a < pa ∨ pa + 8 ≤ a) → u.readByte a = s.readByte a) ∧ (u.queue q).epsn = psnAdd x.epsn 1 ∧ (p.psn.toNat, old) ∈ (u.queue q).replay ∧
            s.answersOn u q (old8 old)) ∧
          (2 ^ 23 ≤ d → (∀ e, x.replay.find? (fun e => e.1 = p.psn.toNat) = some e → answered f.1 (old8 e.2)) ∧
            ((∀ e ∈ x.replay, e.1 ≠ p.psn.toNat) → Completes s f.1 fun u => u.outbox = s.outbox ∧ u.mem = s.mem)))) ∧
      (p.form = true → s.openGen (own % 64) (own / 64) = true →
        let whole := (if p.first then [] else x.sending) ++ p.data
        let tag := BitVec.ofNat 32 (numOf (whole.take 4))
        let data := whole.drop 8
        let ends : Prop := d = 0 ∧ p.last = true
        let awaits := fun (r : Posted) => r.queue = q && r.inc = x.inc && r.tag = tag && r.armed
        (d = 0 → p.last = false → Completes s (.taggedSend p) fun u => (u.queue q).sending = whole ∧ (u.queue q).epsn = psnAdd x.epsn 1 ∧ (u.queue q).ackDue ≠ none ∧
          u.posted = s.posted ∧ u.outbox = s.outbox ∧ u.mem = s.mem) ∧
        (ends → whole.length < 8 → answered (.taggedSend p) (nak 0x61 [])) ∧
        (ends → 8 ≤ whole.length → s.posted.find? awaits = none → answered (.taggedSend p) rnr) ∧
        (ends → 8 ≤ whole.length → ∀ r, s.posted.find? awaits = some r → r.flag 0 = true → s.canLand r = false → answered (.taggedSend p) rnr) ∧
        (ends → 8 ≤ whole.length → x.ackDue = none → ∀ r, s.posted.find? awaits = some r → r.flag 1 = false → r.flag 2 = false → r.flag 3 = false →
          data.length ≤ fieldAt r.body.toNat 0x10 4 →
          let took := fun (u : State) => u.posted = s.posted.erase r ∧ (u.queue q).epsn = psnAdd x.epsn 1 ∧ (u.queue q).count = x.count + 1 ∧ (u.queue q).ackDue = some now ∧ u.mem = s.mem
          (r.flag 0 = false → Completes s (.taggedSend p) fun u => took u ∧ u.cores = s.cores) ∧
          (∀ key b pool tile gen, r.flag 0 = true → s.canLand r = true → r.blk = some key → s.block? key = some b → b.handle? (BitVec.ofNat 64 (fieldAt r.body.toNat 8 4)) = some (pool, tile, gen) →
            (b.tile (tileKey pool tile)).free = false → (b.tile (tileKey pool tile)).gen = gen → (∀ c ∈ s.ctxs, c.2.watches = []) → Completes s (.taggedSend p) fun u => took u ∧
              let o := b.pbase + b.tileOffset pool tile + fieldAt r.body.toNat 0xC 4
              (∀ i, i < data.length → Map.get 0 (u.core b.core).spad (o + i) = data.getD i 0) ∧
              ∀ i, (i < o ∨ o + data.length ≤ i) → Map.get 0 (u.core b.core).spad i = Map.get 0 (s.core b.core).spad i)) ∧
        (2 ^ 23 ≤ d → Completes s (.taggedSend p) fun u => u.mem = s.mem ∧ u.posted = s.posted ∧ (u.queue q).ackDue = some now))) ∧
    (hits →
      let first : Prop := x.times ≠ [] ∧ p.psn.toNat = x.oldest
      let fresh : Prop := ∀ r, x.reacted = some r → r + 5000 ≤ now
      let a := x.alpha + (65536 - x.alpha) / 16
      (∀ c r m, x.cmds = c :: r → (∃ v, c.kind = .put v) → m = psnSub (psnAdd p.psn.toNat 1) x.oldest →
        (x.times.length < m → p.echo = 0 → Completes s (.acknowledge p) fun u => u = t) ∧
        (0 < m → m ≤ x.times.length → c.acked + m ≤ c.sent → Completes s (.acknowledge p) fun u =>
          (u.queue q).cmds = { c with acked := c.acked + m } :: r ∧ (u.queue q).times = x.times.drop m ∧ (u.queue q).retries = 0 ∧ { u with queues := t.queues } = t ∧
          (∀ k, k ≠ q → u.queue k = s.queue k) ∧
          (p.echo = 0 → u = { t with queues := t.queues.set q { y with cmds := { c with acked := c.acked + m } :: r, times := x.times.drop m, retries := 0 } }))) ∧
      (p.echo ≠ 0 → fresh → Completes s (.acknowledge p) fun u => (u.queue q).alpha = a ∧ (u.queue q).rate = max 100 (x.rate - x.rate * a / 131072) ∧ (u.queue q).reacted = some now ∧
        (u.queue q).bucket = min 40960000 (x.bucket + x.rate * (now - x.filledAt)) ∧ (u.queue q).filledAt = now) ∧
      (∀ c v w b, first → x.oldestCmd = some c → c.kind = .patom b v w → Completes s (.atomicAcknowledge p) fun u => (u.queue q).times = x.times.drop 1 ∧ (u.queue q).retries = 0 ∧
        ∀ z ∈ (u.queue q).cmds, z.id = c.id → z.acked = 1 ∧ z.data = p.data.take 8) ∧
      (∀ c a, first → x.oldestCmd = some c → c.kind = .get → c.mig = none → p.first = true → p.last = true → p.data.length = c.len → s.plainMem → inAperture a = false →
        s.rangeOf x.slot .write c (va54 c.local_) c.len = .ok [(a, c.len)] → Completes s (.readResponse p) fun u => (u.queue q).times = x.times.drop 1 ∧
          (∀ z ∈ (u.queue q).cmds, z.id = c.id → z.acked = 1) ∧ (∀ i, i < c.len → u.readByte (a + i) = p.data.getD i 0) ∧ ∀ pa, (pa < a ∨ a + c.len ≤ pa) → u.readByte pa = s.readByte pa) ∧
      (first → p.code = 0x60 → x.retries < 7 → Completes s (.nak p) fun u => (u.queue q).spsn = x.oldest ∧ (u.queue q).times = [] ∧ (u.queue q).retries = x.retries + 1 ∧
        (u.queue q).cmds = x.cmds.map fun c => { c with sent := c.acked, got := if c.packets ≤ c.acked then c.got else 0, chunk := none }) ∧
      (∀ c r, x.cmds = c :: r → c.kind = .get → c.acked < c.sent → psnSub p.psn.toNat x.oldest < x.times.length → p.psn.toNat ≠ x.oldest → x.retries < 7 → Completes s (.nak p) fun u =>
        (u.queue q).spsn = x.oldest ∧ (u.queue q).times = [] ∧ (u.queue q).retries = x.retries + 1 ∧ (u.queue q).st = x.st) ∧
      (x.times.length < psnSub p.psn.toNat x.oldest → p.echo = 0 → (∀ i ∈ [Instr.nak p, .rnrNak p], Completes s i fun u => u = t)) ∧
      (first → p.code ≠ 0x60 → (∃ c ∈ x.cmds, c.acked < c.packets) → Completes s (.nak p) fun u => (u.queue q).st = .error ∧ (u.queue q).spsn = x.oldest ∧ (u.queue q).cmds = []) ∧
      (first → Completes s (.rnrNak p) fun u => (u.queue q).spsn = x.oldest ∧ (u.queue q).times = [] ∧ (u.queue q).resend = some (now + 12500) ∧ u.mem = s.mem)) ∧
    (∀ k, wellKnownOf p = some k →
      let z := s.queue (256 + k)
      let here : Prop := frame ∧ p.dst = s.platform.config.portGid ∧ p.src = s.platform.config.hostGid ∧ z.st ≠ .unbound
      let e := psnSub p.psn.toNat z.epsn
      let told := fun (u : State) (op psn code : Nat) => s.answersOn u (256 + k) (op, { emptyPacket with qpn := BitVec.ofNat 24 z.rqpn, psn := BitVec.ofNat 24 psn, code := BitVec.ofNat 8 code, echo := BitVec.ofNat 6 (min 63 (if p.ce then z.ce + 1 else z.ce)) })
      let upTo := fun (psn : Nat) => psnSub ((s.heldFrom (256 + k)).getD psn) 1
      let acked := fun (v : State) => told v 7 (upTo (psnAdd z.epsn 1)) 0 ∧ (v.queue (256 + k)).epsn = psnAdd z.epsn 1 ∧ (v.queue (256 + k)).st = z.st ∧ (v.queue (256 + k)).cmds = z.cmds ∧
        { v with outbox := s.outbox, queues := s.queues, dieCounters := s.dieCounters } = s
      let m := BitVec.ofNat 512 (numOf p.data)
      let ops := [(1, Instr.invalidateRange m), (2, .invalidateContext m), (3, .windowOff m), (4, .windowOn m), (5, .injectDigest m), (6, .claim m), (7, .release m), (8, .comparator m),
        (9, .watchpoint m), (10, .resume m), (11, .step m), (12, .sampling m), (13, .timeSeries m), (14, .setBudget m), (15, .attestation m)]
      (¬ here → Completes s (.taggedSend p) fun u => u = s) ∧
      (here → e ≠ 0 → e < 2 ^ 23 → Completes s (.taggedSend p) fun u => (z.naked = some z.epsn → u.outbox = s.outbox) ∧ (z.naked ≠ some z.epsn → told u 9 z.epsn 0x60) ∧ (u.queue (256 + k)).epsn = z.epsn) ∧
      (here → e = 0 ∨ 2 ^ 23 ≤ e → p.form = false → Completes s (.taggedSend p) fun u => told u 9 p.psn.toNat 0x61 ∧ (u.queue (256 + k)).epsn = z.epsn) ∧
      (here → 2 ^ 23 ≤ e → p.form = true → Completes s (.taggedSend p) fun u => told u 7 (upTo z.epsn) 0 ∧ (u.queue (256 + k)).epsn = z.epsn) ∧
      (here → e = 0 → p.form = true → ∃ v, acked v ∧ (p.last = false → exec (.taggedSend p) s = .next v) ∧
        (p.last = true → p.first = false ∨ p.data.length ≠ 64 → Completes s (.taggedSend p) fun u => v.answersHost u k (BitVec.ofNat 512 (setField 0 (if k = 1 then 5 else 0x38) 1 1)) ∧
          u.outbox = v.outbox ∧ u.mem = s.mem) ∧
        (p.last = true → p.first = true → p.data.length = 64 → (k = 0 → exec (.taggedSend p) s = exec (.hostSubmission m) v) ∧ (k = 2 → exec (.taggedSend p) s = exec (.bind m) v) ∧
          (k = 1 → ∀ o ∈ ops, fieldAt m.toNat 0 1 = o.1 → exec (.taggedSend p) s = exec o.2 v))))

/-! ## Encodings, steps and reset -/

/-- R18 to R23, R46: decoding and encoding agree: bytes decode to an instruction and its length exactly where they begin with the encoding of a
fetched, well-formed instruction, at any values of its fields. -/
def Obligations.RoundTrip : Prop :=
  ∀ (bytes : List Byte) (i : Instr) (n : Nat),
    decode bytes = .ok (i, n) ↔ i.fetched = true ∧ i.wf = true ∧ n = (encode i).length ∧ ∃ rest, bytes = encode i ++ rest

/-- R18 to R36, R46, R91: words of every class, written out field by field from R19, R20 and R21 (literal, modifier, lookahead, selector, C, B, A, dst, class, minor,
scope, length), decode to what they stand for; words of each of R46's patterns are no instruction. -/
def Obligations.SpecWords : Prop :=
  (∀ x ∈ ([
      (64, 0b000000_0000_0000_000000000_000000010_000000001_000000011_0000_000000_00_01, .iadd { scope := .lane, sel := 0, look := 0, modi := 0, dst := 3, a := 1, b := 2, c := 0, lit := none }),
      (96, 0b11111111111111111111111111111111_000000_0000_0010_000000000_000000000_000000001_000000011_0000_000000_01_10, .iadd { scope := .warp, sel := 2, look := 0, modi := 0, dst := 3, a := 1, b := 0, c := 0, lit := some 0xFFFFFFFF }),
      (32, 0b000111_000110_000101_0000_000000_00_00, .iaddF32 { scope := .lane, dst := 5, a := 6, b := 7 }),
      (64, 0b000000_0000_0000_000000000_000000111_000001000_000001001_0001_000000_11_01, .and { scope := .block, sel := 0, look := 0, modi := 0, dst := 9, a := 8, b := 7, c := 0, lit := none }),
      (64, 0b000000_0000_0100_000000011_000000010_000000001_000001010_0010_000011_10_01, .ffma { scope := .set, sel := 4, look := 0, modi := 0, dst := 10, a := 1, b := 2, c := 3, lit := none }),
      (64, 0b000000_0101_0000_000000000_000000000_000000111_000000100_0011_000000_00_01, .frcp { scope := .lane, sel := 0, look := 5, modi := 0, dst := 4, a := 7, b := 0, c := 0, lit := none }),
      (64, 0b101010_0000_0000_000000000_000000110_000000101_000000100_0010_000000_00_01, .fadd { scope := .lane, sel := 0, look := 0, modi := 42, dst := 4, a := 5, b := 6, c := 0, lit := none }),
      (64, 0b000000_0000_0000_000000000_000000000_000001000_000000100_0100_000000_00_01, .cvt { scope := .lane, sel := 0, look := 0, modi := 0, dst := 4, a := 8, b := 0, c := 0, lit := none }),
      (64, 0b000000_0000_1100_000000000_000000000_000000001_000000010_0101_000000_00_01, .kand { scope := .lane, sel := 12, look := 0, modi := 0, dst := 2, a := 1, b := 0, c := 0, lit := none }),
      (96, 0b00010010001101000101011001111000_000000_0000_0000_000000000_000000000_000000000_011111111_0110_000001_00_10, .movi { scope := .lane, sel := 0, look := 0, modi := 0, dst := 255, a := 0, b := 0, c := 0, lit := some 0x12345678 }),
      (96, 0b11111111111111111111111111111110_000000_0000_0000_000000000_000000000_000000011_000000000_0111_000000_00_10, .bra { scope := .lane, sel := 0, look := 0, modi := 0, dst := 0, a := 3, b := 0, c := 0, lit := some 0xFFFFFFFE }),
      (32, 0b000000_000000_000000_0111_001001_00_00, .nopF32),
      (64, 0b000000_1111_0000_000000000_000000000_000000100_000010000_1000_000000_00_01, .ld { scope := .lane, sel := 0, look := 15, modi := 0, dst := 16, a := 4, b := 0, c := 0, lit := none }),
      (64, 0b000000_0000_0000_000000000_000000000_000000101_000000000_1001_000001_01_01, .stage { scope := .warp, sel := 0, look := 0, modi := 0, dst := 0, a := 5, b := 0, c := 0, lit := none }),
      (64, 0b000000_0000_0000_000000000_000010100_000000110_000000000_1010_000001_00_01, .mred { scope := .lane, sel := 0, look := 0, modi := 0, dst := 0, a := 6, b := 20, c := 0, lit := none }),
      (64, 0b000000_0000_0000_000000000_011111111_000000010_000011110_1011_000000_11_01, .talloc { scope := .block, sel := 0, look := 0, modi := 0, dst := 30, a := 2, b := 255, c := 0, lit := none }),
      (64, 0b000000_0000_0000_001111111_000000011_000000010_000000001_1100_000000_11_01, .mma { scope := .block, sel := 0, look := 0, modi := 0, dst := 1, a := 2, b := 3, c := 127, lit := none }),
      (64, 0b000000_0000_0000_000001001_011111111_000000111_000000000_1101_000100_01_01, .pcount { scope := .warp, sel := 0, look := 0, modi := 0, dst := 0, a := 7, b := 255, c := 9, lit := none }),
      (64, 0b000000_0000_0000_000000000_000000000_000000000_000000110_1110_000100_00_01, .time { scope := .lane, sel := 0, look := 0, modi := 0, dst := 6, a := 0, b := 0, c := 0, lit := none })] : List (Nat × Nat × Instr)), decodeTableWord x.1 x.2.1 = some x.2.2) ∧
  ∀ x ∈ ([
      (64, 0b000000_0000_0000_000000000_000000010_000000001_000000011_0000_000000_00_11),
      (64, 0b000000_0000_0000_000000000_000000000_000000000_000000000_0000_001100_00_01),
      (64, 0b000000_0000_0000_000000000_000000000_000000000_000000000_1111_000000_00_01),
      (64, 0b000000_0000_0000_000000000_000000011_000000010_000000001_0101_000111_00_01),
      (64, 0b000000_0000_1110_000000000_000000010_000000001_000000011_0000_000000_00_01),
      (64, 0b000000_0001_0000_000000000_000000010_000000001_000000011_0000_000000_00_01),
      (64, 0b110000_0000_0000_000000000_000000010_000000001_000000011_0010_000000_00_01),
      (32, 0b000111_000110_000101_0000_000011_00_00),
      (96, 0b00000000000000000000000000000000_000000_0000_0000_000000000_000000000_000000001_000000011_0000_000111_00_10),
      (64, 0b000000_0000_0000_000000001_000000010_000000001_000000011_0000_000000_00_01),
      (96, 0b00000000000000000000000000000111_000000_0000_0000_000000000_000000010_000000001_000000011_0000_000000_00_10),
      (64, 0b000000_0000_0000_000000000_000000000_000000001_000001100_0101_000000_00_01),
      (64, 0b000000_0000_0000_000000000_100000000_000000010_000011110_1011_000000_11_01),
      (64, 0b000000_0000_0000_000000000_000000000_000000101_000010000_1000_000000_00_01),
      (64, 0b000000_0000_0000_000000000_000000000_111111111_000000001_0110_000100_00_01),
      (64, 0b000000_0000_0000_000000000_000000000_000000000_011111111_0110_000001_00_01),
      (96, 0b00000000000000000000000000000001_000000_0000_0000_000000000_000000000_000000001_000000000_0111_000001_00_10),
      (32, 0b000000_000000_000000_0111_001001_01_00)] : List (Nat × Nat)), decodeTableWord x.1 x.2 = none

/-- R21, R47, R82, R84, R147: an instruction at lane scope issues where its warp stands: the lanes that the selector picks take part, unless a register lies beyond
the warp's budget, V2S names a lane beyond W, or a transfer stands at the end of one of its loops. One that no lane takes part in changes no register and no byte. -/
def Obligations.LaneScopeIssues : Prop :=
  ∀ (s : State) (i : Instr) (op : Op) (e : Enc) (len wid : Nat) (w : Warp) (pc : Addr54),
    let b := s.block w.blk
    let lanes := w.selected b.width
    let part := if e.sel = 0 then lanes else if e.sel = 13 then lowest b.width lanes else lanes &&& w.kget (e.sel.toNat - 1)
    (i.view = .long op e ∧ len = encLen e) ∨ (∃ f, i.view = .short op f ∧ e = f.toEnc false ∧ len = 4 ∧ wid < 4096) →
    s.cur = some wid → s.warp? wid = some w → s.nextPc wid = some (pc, false) → e.scope = .lane → b.onControl = false → (op = .v2s → e.b.toNat < b.width) →
    badReg (budgetOf b.record w.index) b.xcount (fieldUses op e) = none → (transfers op = true → ∀ x ∈ w.loops, x.stop ≠ pc) → w.windows = [] → s.platform.errors = [] →
    (part ≠ 0 → ∃ t, IssuesAs s i { wid := wid, blk := w.blk, W := b.width, op := op, e := e, pc := pc, len := len, dmode := s.dmode b, parts := [{ wid := wid, rank := 0, lanes := part, sel := lanes, clock := w.lclk, pass := decide (w.pass = some pc) }] } t ∧
      t.mem = s.mem ∧ (t.warpD wid).lclk = w.lclk + 1) ∧
    (part = 0 → Completes s i fun u => RegsSame s u ∧ u.mem = s.mem)

/-- R18, R46, R47: a step on a warp's turn, where the warp may issue and no fault and no comparator waits for it, runs exactly the instruction that
the bytes at its PC decode to; bytes that are no instruction, and a fetch that fails, run their events. A step on an event runs
the event; time passes, a stored word is upset, a code enters the test access port, SMBus reads an error counter or a temperature, a snoop filter evicts a line, or a
step of bring-up ends, as the turn says. What follows every turn comes after it. -/
def Obligations.StepRunsDecoded : Prop :=
  ∀ (s : State) (r : List Turn), s.platform.frozen = false →
    let s0 := { s with agenda := r }
    let stepped := fun (o : Host.Outcome State Fault Refusal) => step s = mapNext State.afterTurn o
    (∀ (wid : Nat) (w : Warp) (pc : Addr54) (ready : Bool), s.agenda = .issue wid :: r → s0.faultDue wid = false → s0.canIssue wid = true → s0.warp? wid = some w →
      s0.nextPc wid = some (pc, ready) → (ready = true ∨ w.frame.isSome = true ∨ w.pass = some pc ∨ s0.comparatorAt (s0.block w.blk).ctx pc = none) → w.stepping = false →
      let ctx := (s.block w.blk).ctx
      let runs := fun (i : Instr) (t : State) => stepped (mapNext (fun u =>
        let v := { u with cur := none }
        if v.issues = s.issues then v else v.noHang ctx) (exec i { t with cur := some wid }))
      (∀ bytes t, s0.fetch (coreOf wid) ctx pc = .ok bytes t →
        (∀ i n, decode bytes = .ok (i, n) → runs i t) ∧ (∀ x, decode bytes = .error x → runs .illegalInstruction t)) ∧
      (∀ a, s0.fetch (coreOf wid) ctx pc = .fault a → runs (.instrFetch a) s0) ∧
      (∀ a, s0.fetch (coreOf wid) ctx pc = .wait a → stepped (.next { s0.updWarp wid (fun w => { w with migrating := some a }) with cur := none }))) ∧
    (∀ wid, s.agenda = .issue wid :: r → s0.faultDue wid = false → s0.canIssue wid = false → stepped (.next s0)) ∧
    (∀ i, s.agenda = .event i :: r → i.fetched = false → stepped (exec i s0)) ∧
    (∀ cycles ticks, s.agenda = .tick cycles ticks :: r → stepped (.next (s0.pass cycles ticks))) ∧
    (∀ loc corrected, s.agenda = .upset loc corrected :: r → stepped (.next (s0.upset loc corrected))) ∧
    (∀ code, s.agenda = .scanIr code :: r → stepped (.next (s0.scanIr code))) ∧
    (∀ unit uncorrected, s.agenda = .smbusCounter unit uncorrected :: r → stepped (.next { s0 with outbox := s.outbox ++ [.smbus (if uncorrected then s.platform.uncorrected.get 0 unit else s.platform.corrected.get 0 unit).toNat] })) ∧
    (∀ die, s.agenda = .smbusTemperature die :: r → stepped (.next { s0 with outbox := s.outbox ++ [.smbus (Config.temperature s.fresh die)], fresh := s.fresh + 1 })) ∧
    (∀ line, s.agenda = .filterEvict line :: r → stepped (.next (s0.filterEvict line))) ∧
    (∀ ok, s.agenda = .bringUp ok :: r → stepped (.next (s0.bringUp ok)))

/-- R420, R421, R432: every step answers a next state, whatever the state; and a frozen chip stays frozen, nothing of it changing but what the test access port
touches and sends, until its package is reset. -/
def Obligations.StepsGoOn : Prop :=
  ∀ (s : State), ∃ u, step s = .next u ∧ (s.platform.frozen = true →
    ((∀ r, s.agenda ≠ .event .resetN :: r) → u.platform.frozen = true ∧ { u with platform := s.platform, outbox := s.outbox, agenda := s.agenda, fresh := s.fresh } = s) ∧
    ((∃ r, s.agenda = .event .resetN :: r) → u.platform.frozen = false))

/-- R308 and assumption 2: from every state whose memory is listed in its one canonical form (addresses strictly rising, no entry equal to what
an unlisted address reads as), every step leaves it in that form, so that equal memories stay equal data. -/
def Obligations.MemoryStaysCanonical : Prop :=
  ∀ (s t : State), Memory.wf s.mem = true → step s = .next t → Memory.wf t.mem = true

/-- R7, R11, R297, R323, R393, R424, R432: right after reset: cycle 0, the chip in ROM and not frozen, no context open, nothing resident, every queue unbound with
incarnation 0, every command counter 0, roll call 0, and a budget of 3,000 W; memory lists nothing (assumption 2). -/
def Obligations.ResetState : Prop :=
  let s := State.reset
  s.cycle = 0 ∧ s.platform.boot = .rom ∧ s.platform.frozen = false ∧ s.ctxs = [] ∧ s.blocks = [] ∧ s.warps = [] ∧ s.images = [] ∧
    (∀ q, (s.queue q).st = .unbound ∧ (s.queue q).inc = 0) ∧ (∀ c, (s.controls.get ({} : Control) c).commands = 0) ∧ s.hytur.r = 0 ∧ s.isMember = false ∧
    s.platform.budget = 3000 ∧ (∀ c i, (s.core c).counters.get 0 i = 0) ∧ (∀ i, s.dieCounters.get 0 i = 0) ∧ Memory.wf s.mem = true ∧ ∀ pa, s.readByte pa = memDefault
end

