-- ==== Sys2Proof/Laws/Maps.lean ====
section
/-!
SUPPORT. Laws of sparse maps: what a read after a write gives, for any list, and the canonical form (keys strictly rising).
-/

namespace Sys2Proof

variable {α : Type}

@[simp] theorem Map.find_nil (k : Nat) : Map.find ([] : Map α) k = none := rfl

theorem Map.find_cons (e : Nat × α) (m : Map α) (k : Nat) : Map.find (e :: m) k = if e.1 = k then some e.2 else Map.find m k := rfl

/-- A read of the key just written. -/
@[simp] theorem Map.find_set_self (m : Map α) (k : Nat) (v : α) : (m.set k v).find k = some v := by
  induction m with
  | nil => simp [Map.set, Map.find]
  | cons e r ih =>
    simp only [Map.set]
    split
    · simp [Map.find]
    · split
      · simp [Map.find]
      · simp [Map.find, *]

/-- A read of another key. -/
theorem Map.find_set_ne (m : Map α) (k j : Nat) (v : α) (h : j ≠ k) : (m.set k v).find j = m.find j := by
  have h' : ¬ k = j := fun e => h e.symm
  induction m with
  | nil => simp [Map.set, Map.find, h']
  | cons e r ih =>
    simp only [Map.set]
    split
    · simp_all [Map.find]
    · split
      · simp [Map.find, h']
      · simp [Map.find, ih]

/-- A read of the key just removed. -/
@[simp] theorem Map.find_del_self (m : Map α) (k : Nat) : (m.del k).find k = none := by
  induction m with
  | nil => rfl
  | cons e r ih =>
    by_cases h : e.1 = k
    · simpa [Map.del, h] using ih
    · simpa [Map.del, h, Map.find] using ih

/-- A removal leaves every other key alone. -/
theorem Map.find_del_ne (m : Map α) (k j : Nat) (h : j ≠ k) : (m.del k).find j = m.find j := by
  induction m with
  | nil => rfl
  | cons e r ih =>
    by_cases h1 : e.1 = k
    · have h2 : ¬ e.1 = j := fun x => h (x.symm.trans h1)
      simpa [Map.del, h1, Map.find, h2, show ¬ k = j from fun x => h x.symm] using ih
    · simp only [Map.del, List.filter_cons, bne_iff_ne, ne_eq, h1, not_false_eq_true, if_true, Map.find_cons]
      simp only [Map.del] at ih
      rw [ih]

/-- The value just put. -/
@[simp] theorem Map.get_put_self [DecidableEq α] (d : α) (m : Map α) (k : Nat) (v : α) : (m.put d k v).get d k = v := by
  by_cases h : v = d
  · simp [Map.put, Map.get, h]
  · simp [Map.put, Map.get, h]

/-- A put leaves every other key alone. -/
theorem Map.get_put_ne [DecidableEq α] (d : α) (m : Map α) (k j : Nat) (v : α) (h : j ≠ k) : (m.put d k v).get d j = m.get d j := by
  unfold Map.put Map.get
  split
  · rw [Map.find_del_ne m k j h]
  · rw [Map.find_set_ne m k j v h]

@[simp] theorem Map.get_set_self (d : α) (m : Map α) (k : Nat) (v : α) : (m.set k v).get d k = v := by simp [Map.get]

theorem Map.get_set_ne (d : α) (m : Map α) (k j : Nat) (v : α) (h : j ≠ k) : (m.set k v).get d j = m.get d j := by
  simp [Map.get, Map.find_set_ne m k j v h]

/-! ## The canonical form -/

/-- A read after a write. -/
theorem Map.find_set (m : Map α) (k j : Nat) (v : α) : (m.set k v).find j = if j = k then some v else m.find j := by
  split
  · subst_vars; simp
  · exact Map.find_set_ne m k j v ‹_›

/-- A read after a write, where an unlisted key reads as d. -/
theorem Map.get_set (d : α) (m : Map α) (k j : Nat) (v : α) : (m.set k v).get d j = if j = k then v else m.get d j := by
  split
  · subst_vars; simp
  · exact Map.get_set_ne d m k j v ‹_›

/-- A read after a write that keeps the map without default entries. -/
theorem Map.get_put [DecidableEq α] (d : α) (m : Map α) (k j : Nat) (v : α) : (m.put d k v).get d j = if j = k then v else m.get d j := by
  split
  · subst_vars; simp
  · exact Map.get_put_ne d m k j v ‹_›

/-- A read after a change of one key. -/
theorem Map.find_modify (m : Map α) (k j : Nat) (f : α → α) : (m.modify k f).find j = if j = k then (m.find k).map f else m.find j := by
  unfold Map.modify
  cases h : m.find k with
  | none => split <;> simp_all
  | some v => simp [Map.find_set]

theorem Map.rising_cons (b : Option Nat) (e : Nat × α) (m : Map α) :
    Map.rising b (e :: m) = ((match b with | none => true | some x => decide (x < e.1)) && Map.rising (some e.1) m) := by
  cases b <;> simp [Map.rising]

/-- A bound may be lowered. -/
theorem Map.rising_weaken (m : Map α) (a b : Nat) (h : a ≤ b) (hm : Map.rising (some b) m = true) : Map.rising (some a) m = true := by
  cases m with
  | nil => rfl
  | cons e r =>
    simp only [Map.rising_cons, Bool.and_eq_true, decide_eq_true_eq] at hm ⊢
    exact ⟨by omega, hm.2⟩

/-- A removal keeps the form. -/
theorem Map.rising_filter (p : Nat × α → Bool) (m : Map α) (b : Option Nat) (h : Map.rising b m = true) : Map.rising b (m.filter p) = true := by
  induction m generalizing b with
  | nil => simp [Map.rising]
  | cons e r ih =>
    rw [Map.rising_cons, Bool.and_eq_true] at h
    by_cases hp : p e
    · rw [List.filter_cons_of_pos hp, Map.rising_cons, Bool.and_eq_true]
      exact ⟨h.1, ih _ h.2⟩
    · rw [List.filter_cons_of_neg hp]
      cases b with
      | none =>
        cases hr : r.filter p with
        | nil => simp [Map.rising]
        | cons f q =>
          have := ih _ h.2
          rw [hr, Map.rising_cons, Bool.and_eq_true] at this
          rw [Map.rising_cons]; simpa using this.2
      | some x =>
        have hx : x < e.1 := by simpa using h.1
        exact Map.rising_weaken _ x e.1 (Nat.le_of_lt hx) (ih _ h.2)

/-- A write keeps the form. -/
theorem Map.rising_set (m : Map α) (k : Nat) (v : α) (b : Option Nat) (h : Map.rising b m = true)
    (hb : ∀ x, b = some x → x < k) : Map.rising b (m.set k v) = true := by
  induction m generalizing b with
  | nil => cases b with
    | none => simp [Map.set, Map.rising]
    | some x => simp [Map.set, Map.rising, hb x rfl]
  | cons e r ih =>
    rw [Map.rising_cons, Bool.and_eq_true] at h
    simp only [Map.set]
    have hb' : ∀ c : Option Nat, (∀ x, c = some x → x < k) → (match c with | none => true | some x => decide (x < (k, v).1)) = true := by
      intro c hc; cases c with
      | none => rfl
      | some x => simpa using hc x rfl
    split
    · rename_i hk
      rw [Map.rising_cons, Bool.and_eq_true]
      exact ⟨hb' b hb, hk ▸ h.2⟩
    · split
      · rename_i hk
        rw [Map.rising_cons, Bool.and_eq_true, Map.rising_cons, Bool.and_eq_true]
        exact ⟨hb' b hb, by simpa using hk, h.2⟩
      · rename_i h1 h2
        rw [Map.rising_cons, Bool.and_eq_true]
        refine ⟨h.1, ih _ h.2 ?_⟩
        intro x hx; cases hx; omega

end Sys2Proof
end

