-- ==== Sys2Proof/Laws/State.lean ====
section
/-!
SUPPORT. What each base update of the state leaves: one lemma per field, and what it changes, read back.
-/

namespace Sys2Proof.Machine

/-! ### setWarp -/

@[simp] theorem State.setWarp_cycle (s : State) (n : Nat) (w : Warp) : (s.setWarp n w).cycle = s.cycle := rfl
@[simp] theorem State.setWarp_clock (s : State) (n : Nat) (w : Warp) : (s.setWarp n w).clock = s.clock := rfl
@[simp] theorem State.setWarp_mem (s : State) (n : Nat) (w : Warp) : (s.setWarp n w).mem = s.mem := rfl
@[simp] theorem State.setWarp_cores (s : State) (n : Nat) (w : Warp) : (s.setWarp n w).cores = s.cores := rfl
@[simp] theorem State.setWarp_controls (s : State) (n : Nat) (w : Warp) : (s.setWarp n w).controls = s.controls := rfl
@[simp] theorem State.setWarp_dieSpad (s : State) (n : Nat) (w : Warp) : (s.setWarp n w).dieSpad = s.dieSpad := rfl
@[simp] theorem State.setWarp_dieCounters (s : State) (n : Nat) (w : Warp) : (s.setWarp n w).dieCounters = s.dieCounters := rfl
@[simp] theorem State.setWarp_l2 (s : State) (n : Nat) (w : Warp) : (s.setWarp n w).l2 = s.l2 := rfl
@[simp] theorem State.setWarp_homes (s : State) (n : Nat) (w : Warp) : (s.setWarp n w).homes = s.homes := rfl
@[simp] theorem State.setWarp_aliasQ (s : State) (n : Nat) (w : Warp) : (s.setWarp n w).aliasQ = s.aliasQ := rfl
@[simp] theorem State.setWarp_sectors (s : State) (n : Nat) (w : Warp) : (s.setWarp n w).sectors = s.sectors := rfl
@[simp] theorem State.setWarp_blocks (s : State) (n : Nat) (w : Warp) : (s.setWarp n w).blocks = s.blocks := rfl
@[simp] theorem State.setWarp_images (s : State) (n : Nat) (w : Warp) : (s.setWarp n w).images = s.images := rfl
@[simp] theorem State.setWarp_shadows (s : State) (n : Nat) (w : Warp) : (s.setWarp n w).shadows = s.shadows := rfl
@[simp] theorem State.setWarp_spent (s : State) (n : Nat) (w : Warp) : (s.setWarp n w).spent = s.spent := rfl
@[simp] theorem State.setWarp_ctxs (s : State) (n : Nat) (w : Warp) : (s.setWarp n w).ctxs = s.ctxs := rfl
@[simp] theorem State.setWarp_inject (s : State) (n : Nat) (w : Warp) : (s.setWarp n w).inject = s.inject := rfl
@[simp] theorem State.setWarp_windows (s : State) (n : Nat) (w : Warp) : (s.setWarp n w).windows = s.windows := rfl
@[simp] theorem State.setWarp_ordered (s : State) (n : Nat) (w : Warp) : (s.setWarp n w).ordered = s.ordered := rfl
@[simp] theorem State.setWarp_ringClock (s : State) (n : Nat) (w : Warp) : (s.setWarp n w).ringClock = s.ringClock := rfl
@[simp] theorem State.setWarp_positions (s : State) (n : Nat) (w : Warp) : (s.setWarp n w).positions = s.positions := rfl
@[simp] theorem State.setWarp_late (s : State) (n : Nat) (w : Warp) : (s.setWarp n w).late = s.late := rfl
@[simp] theorem State.setWarp_hytur (s : State) (n : Nat) (w : Warp) : (s.setWarp n w).hytur = s.hytur := rfl
@[simp] theorem State.setWarp_queues (s : State) (n : Nat) (w : Warp) : (s.setWarp n w).queues = s.queues := rfl
@[simp] theorem State.setWarp_posted (s : State) (n : Nat) (w : Warp) : (s.setWarp n w).posted = s.posted := rfl
@[simp] theorem State.setWarp_jobs (s : State) (n : Nat) (w : Warp) : (s.setWarp n w).jobs = s.jobs := rfl
@[simp] theorem State.setWarp_binds (s : State) (n : Nat) (w : Warp) : (s.setWarp n w).binds = s.binds := rfl
@[simp] theorem State.setWarp_series (s : State) (n : Nat) (w : Warp) : (s.setWarp n w).series = s.series := rfl
@[simp] theorem State.setWarp_sliceAt (s : State) (n : Nat) (w : Warp) : (s.setWarp n w).sliceAt = s.sliceAt := rfl
@[simp] theorem State.setWarp_slicing (s : State) (n : Nat) (w : Warp) : (s.setWarp n w).slicing = s.slicing := rfl
@[simp] theorem State.setWarp_served (s : State) (n : Nat) (w : Warp) : (s.setWarp n w).served = s.served := rfl
@[simp] theorem State.setWarp_submits (s : State) (n : Nat) (w : Warp) : (s.setWarp n w).submits = s.submits := rfl
@[simp] theorem State.setWarp_manage (s : State) (n : Nat) (w : Warp) : (s.setWarp n w).manage = s.manage := rfl
@[simp] theorem State.setWarp_platform (s : State) (n : Nat) (w : Warp) : (s.setWarp n w).platform = s.platform := rfl
@[simp] theorem State.setWarp_agenda (s : State) (n : Nat) (w : Warp) : (s.setWarp n w).agenda = s.agenda := rfl
@[simp] theorem State.setWarp_cur (s : State) (n : Nat) (w : Warp) : (s.setWarp n w).cur = s.cur := rfl
@[simp] theorem State.setWarp_fresh (s : State) (n : Nat) (w : Warp) : (s.setWarp n w).fresh = s.fresh := rfl
@[simp] theorem State.setWarp_issues (s : State) (n : Nat) (w : Warp) : (s.setWarp n w).issues = s.issues := rfl
@[simp] theorem State.setWarp_outbox (s : State) (n : Nat) (w : Warp) : (s.setWarp n w).outbox = s.outbox := rfl

/-! ### updWarp -/

@[simp] theorem State.updWarp_cycle (s : State) (n : Nat) (f : Warp → Warp) : (s.updWarp n f).cycle = s.cycle := rfl
@[simp] theorem State.updWarp_clock (s : State) (n : Nat) (f : Warp → Warp) : (s.updWarp n f).clock = s.clock := rfl
@[simp] theorem State.updWarp_mem (s : State) (n : Nat) (f : Warp → Warp) : (s.updWarp n f).mem = s.mem := rfl
@[simp] theorem State.updWarp_cores (s : State) (n : Nat) (f : Warp → Warp) : (s.updWarp n f).cores = s.cores := rfl
@[simp] theorem State.updWarp_controls (s : State) (n : Nat) (f : Warp → Warp) : (s.updWarp n f).controls = s.controls := rfl
@[simp] theorem State.updWarp_dieSpad (s : State) (n : Nat) (f : Warp → Warp) : (s.updWarp n f).dieSpad = s.dieSpad := rfl
@[simp] theorem State.updWarp_dieCounters (s : State) (n : Nat) (f : Warp → Warp) : (s.updWarp n f).dieCounters = s.dieCounters := rfl
@[simp] theorem State.updWarp_l2 (s : State) (n : Nat) (f : Warp → Warp) : (s.updWarp n f).l2 = s.l2 := rfl
@[simp] theorem State.updWarp_homes (s : State) (n : Nat) (f : Warp → Warp) : (s.updWarp n f).homes = s.homes := rfl
@[simp] theorem State.updWarp_aliasQ (s : State) (n : Nat) (f : Warp → Warp) : (s.updWarp n f).aliasQ = s.aliasQ := rfl
@[simp] theorem State.updWarp_sectors (s : State) (n : Nat) (f : Warp → Warp) : (s.updWarp n f).sectors = s.sectors := rfl
@[simp] theorem State.updWarp_blocks (s : State) (n : Nat) (f : Warp → Warp) : (s.updWarp n f).blocks = s.blocks := rfl
@[simp] theorem State.updWarp_images (s : State) (n : Nat) (f : Warp → Warp) : (s.updWarp n f).images = s.images := rfl
@[simp] theorem State.updWarp_shadows (s : State) (n : Nat) (f : Warp → Warp) : (s.updWarp n f).shadows = s.shadows := rfl
@[simp] theorem State.updWarp_spent (s : State) (n : Nat) (f : Warp → Warp) : (s.updWarp n f).spent = s.spent := rfl
@[simp] theorem State.updWarp_ctxs (s : State) (n : Nat) (f : Warp → Warp) : (s.updWarp n f).ctxs = s.ctxs := rfl
@[simp] theorem State.updWarp_inject (s : State) (n : Nat) (f : Warp → Warp) : (s.updWarp n f).inject = s.inject := rfl
@[simp] theorem State.updWarp_windows (s : State) (n : Nat) (f : Warp → Warp) : (s.updWarp n f).windows = s.windows := rfl
@[simp] theorem State.updWarp_ordered (s : State) (n : Nat) (f : Warp → Warp) : (s.updWarp n f).ordered = s.ordered := rfl
@[simp] theorem State.updWarp_ringClock (s : State) (n : Nat) (f : Warp → Warp) : (s.updWarp n f).ringClock = s.ringClock := rfl
@[simp] theorem State.updWarp_positions (s : State) (n : Nat) (f : Warp → Warp) : (s.updWarp n f).positions = s.positions := rfl
@[simp] theorem State.updWarp_late (s : State) (n : Nat) (f : Warp → Warp) : (s.updWarp n f).late = s.late := rfl
@[simp] theorem State.updWarp_hytur (s : State) (n : Nat) (f : Warp → Warp) : (s.updWarp n f).hytur = s.hytur := rfl
@[simp] theorem State.updWarp_queues (s : State) (n : Nat) (f : Warp → Warp) : (s.updWarp n f).queues = s.queues := rfl
@[simp] theorem State.updWarp_posted (s : State) (n : Nat) (f : Warp → Warp) : (s.updWarp n f).posted = s.posted := rfl
@[simp] theorem State.updWarp_jobs (s : State) (n : Nat) (f : Warp → Warp) : (s.updWarp n f).jobs = s.jobs := rfl
@[simp] theorem State.updWarp_binds (s : State) (n : Nat) (f : Warp → Warp) : (s.updWarp n f).binds = s.binds := rfl
@[simp] theorem State.updWarp_series (s : State) (n : Nat) (f : Warp → Warp) : (s.updWarp n f).series = s.series := rfl
@[simp] theorem State.updWarp_sliceAt (s : State) (n : Nat) (f : Warp → Warp) : (s.updWarp n f).sliceAt = s.sliceAt := rfl
@[simp] theorem State.updWarp_slicing (s : State) (n : Nat) (f : Warp → Warp) : (s.updWarp n f).slicing = s.slicing := rfl
@[simp] theorem State.updWarp_served (s : State) (n : Nat) (f : Warp → Warp) : (s.updWarp n f).served = s.served := rfl
@[simp] theorem State.updWarp_submits (s : State) (n : Nat) (f : Warp → Warp) : (s.updWarp n f).submits = s.submits := rfl
@[simp] theorem State.updWarp_manage (s : State) (n : Nat) (f : Warp → Warp) : (s.updWarp n f).manage = s.manage := rfl
@[simp] theorem State.updWarp_platform (s : State) (n : Nat) (f : Warp → Warp) : (s.updWarp n f).platform = s.platform := rfl
@[simp] theorem State.updWarp_agenda (s : State) (n : Nat) (f : Warp → Warp) : (s.updWarp n f).agenda = s.agenda := rfl
@[simp] theorem State.updWarp_cur (s : State) (n : Nat) (f : Warp → Warp) : (s.updWarp n f).cur = s.cur := rfl
@[simp] theorem State.updWarp_fresh (s : State) (n : Nat) (f : Warp → Warp) : (s.updWarp n f).fresh = s.fresh := rfl
@[simp] theorem State.updWarp_issues (s : State) (n : Nat) (f : Warp → Warp) : (s.updWarp n f).issues = s.issues := rfl
@[simp] theorem State.updWarp_outbox (s : State) (n : Nat) (f : Warp → Warp) : (s.updWarp n f).outbox = s.outbox := rfl

/-! ### updBlock -/

@[simp] theorem State.updBlock_cycle (s : State) (n : Nat) (f : Block → Block) : (s.updBlock n f).cycle = s.cycle := rfl
@[simp] theorem State.updBlock_clock (s : State) (n : Nat) (f : Block → Block) : (s.updBlock n f).clock = s.clock := rfl
@[simp] theorem State.updBlock_mem (s : State) (n : Nat) (f : Block → Block) : (s.updBlock n f).mem = s.mem := rfl
@[simp] theorem State.updBlock_cores (s : State) (n : Nat) (f : Block → Block) : (s.updBlock n f).cores = s.cores := rfl
@[simp] theorem State.updBlock_controls (s : State) (n : Nat) (f : Block → Block) : (s.updBlock n f).controls = s.controls := rfl
@[simp] theorem State.updBlock_dieSpad (s : State) (n : Nat) (f : Block → Block) : (s.updBlock n f).dieSpad = s.dieSpad := rfl
@[simp] theorem State.updBlock_dieCounters (s : State) (n : Nat) (f : Block → Block) : (s.updBlock n f).dieCounters = s.dieCounters := rfl
@[simp] theorem State.updBlock_l2 (s : State) (n : Nat) (f : Block → Block) : (s.updBlock n f).l2 = s.l2 := rfl
@[simp] theorem State.updBlock_homes (s : State) (n : Nat) (f : Block → Block) : (s.updBlock n f).homes = s.homes := rfl
@[simp] theorem State.updBlock_aliasQ (s : State) (n : Nat) (f : Block → Block) : (s.updBlock n f).aliasQ = s.aliasQ := rfl
@[simp] theorem State.updBlock_sectors (s : State) (n : Nat) (f : Block → Block) : (s.updBlock n f).sectors = s.sectors := rfl
@[simp] theorem State.updBlock_warps (s : State) (n : Nat) (f : Block → Block) : (s.updBlock n f).warps = s.warps := rfl
@[simp] theorem State.updBlock_images (s : State) (n : Nat) (f : Block → Block) : (s.updBlock n f).images = s.images := rfl
@[simp] theorem State.updBlock_shadows (s : State) (n : Nat) (f : Block → Block) : (s.updBlock n f).shadows = s.shadows := rfl
@[simp] theorem State.updBlock_spent (s : State) (n : Nat) (f : Block → Block) : (s.updBlock n f).spent = s.spent := rfl
@[simp] theorem State.updBlock_ctxs (s : State) (n : Nat) (f : Block → Block) : (s.updBlock n f).ctxs = s.ctxs := rfl
@[simp] theorem State.updBlock_inject (s : State) (n : Nat) (f : Block → Block) : (s.updBlock n f).inject = s.inject := rfl
@[simp] theorem State.updBlock_windows (s : State) (n : Nat) (f : Block → Block) : (s.updBlock n f).windows = s.windows := rfl
@[simp] theorem State.updBlock_ordered (s : State) (n : Nat) (f : Block → Block) : (s.updBlock n f).ordered = s.ordered := rfl
@[simp] theorem State.updBlock_ringClock (s : State) (n : Nat) (f : Block → Block) : (s.updBlock n f).ringClock = s.ringClock := rfl
@[simp] theorem State.updBlock_positions (s : State) (n : Nat) (f : Block → Block) : (s.updBlock n f).positions = s.positions := rfl
@[simp] theorem State.updBlock_late (s : State) (n : Nat) (f : Block → Block) : (s.updBlock n f).late = s.late := rfl
@[simp] theorem State.updBlock_hytur (s : State) (n : Nat) (f : Block → Block) : (s.updBlock n f).hytur = s.hytur := rfl
@[simp] theorem State.updBlock_queues (s : State) (n : Nat) (f : Block → Block) : (s.updBlock n f).queues = s.queues := rfl
@[simp] theorem State.updBlock_posted (s : State) (n : Nat) (f : Block → Block) : (s.updBlock n f).posted = s.posted := rfl
@[simp] theorem State.updBlock_jobs (s : State) (n : Nat) (f : Block → Block) : (s.updBlock n f).jobs = s.jobs := rfl
@[simp] theorem State.updBlock_binds (s : State) (n : Nat) (f : Block → Block) : (s.updBlock n f).binds = s.binds := rfl
@[simp] theorem State.updBlock_series (s : State) (n : Nat) (f : Block → Block) : (s.updBlock n f).series = s.series := rfl
@[simp] theorem State.updBlock_sliceAt (s : State) (n : Nat) (f : Block → Block) : (s.updBlock n f).sliceAt = s.sliceAt := rfl
@[simp] theorem State.updBlock_slicing (s : State) (n : Nat) (f : Block → Block) : (s.updBlock n f).slicing = s.slicing := rfl
@[simp] theorem State.updBlock_served (s : State) (n : Nat) (f : Block → Block) : (s.updBlock n f).served = s.served := rfl
@[simp] theorem State.updBlock_submits (s : State) (n : Nat) (f : Block → Block) : (s.updBlock n f).submits = s.submits := rfl
@[simp] theorem State.updBlock_manage (s : State) (n : Nat) (f : Block → Block) : (s.updBlock n f).manage = s.manage := rfl
@[simp] theorem State.updBlock_platform (s : State) (n : Nat) (f : Block → Block) : (s.updBlock n f).platform = s.platform := rfl
@[simp] theorem State.updBlock_agenda (s : State) (n : Nat) (f : Block → Block) : (s.updBlock n f).agenda = s.agenda := rfl
@[simp] theorem State.updBlock_cur (s : State) (n : Nat) (f : Block → Block) : (s.updBlock n f).cur = s.cur := rfl
@[simp] theorem State.updBlock_fresh (s : State) (n : Nat) (f : Block → Block) : (s.updBlock n f).fresh = s.fresh := rfl
@[simp] theorem State.updBlock_issues (s : State) (n : Nat) (f : Block → Block) : (s.updBlock n f).issues = s.issues := rfl
@[simp] theorem State.updBlock_outbox (s : State) (n : Nat) (f : Block → Block) : (s.updBlock n f).outbox = s.outbox := rfl

/-! ### setCore -/

@[simp] theorem State.setCore_cycle (s : State) (n : Nat) (c : Core) : (s.setCore n c).cycle = s.cycle := rfl
@[simp] theorem State.setCore_clock (s : State) (n : Nat) (c : Core) : (s.setCore n c).clock = s.clock := rfl
@[simp] theorem State.setCore_mem (s : State) (n : Nat) (c : Core) : (s.setCore n c).mem = s.mem := rfl
@[simp] theorem State.setCore_controls (s : State) (n : Nat) (c : Core) : (s.setCore n c).controls = s.controls := rfl
@[simp] theorem State.setCore_dieSpad (s : State) (n : Nat) (c : Core) : (s.setCore n c).dieSpad = s.dieSpad := rfl
@[simp] theorem State.setCore_dieCounters (s : State) (n : Nat) (c : Core) : (s.setCore n c).dieCounters = s.dieCounters := rfl
@[simp] theorem State.setCore_l2 (s : State) (n : Nat) (c : Core) : (s.setCore n c).l2 = s.l2 := rfl
@[simp] theorem State.setCore_homes (s : State) (n : Nat) (c : Core) : (s.setCore n c).homes = s.homes := rfl
@[simp] theorem State.setCore_aliasQ (s : State) (n : Nat) (c : Core) : (s.setCore n c).aliasQ = s.aliasQ := rfl
@[simp] theorem State.setCore_sectors (s : State) (n : Nat) (c : Core) : (s.setCore n c).sectors = s.sectors := rfl
@[simp] theorem State.setCore_warps (s : State) (n : Nat) (c : Core) : (s.setCore n c).warps = s.warps := rfl
@[simp] theorem State.setCore_blocks (s : State) (n : Nat) (c : Core) : (s.setCore n c).blocks = s.blocks := rfl
@[simp] theorem State.setCore_images (s : State) (n : Nat) (c : Core) : (s.setCore n c).images = s.images := rfl
@[simp] theorem State.setCore_shadows (s : State) (n : Nat) (c : Core) : (s.setCore n c).shadows = s.shadows := rfl
@[simp] theorem State.setCore_spent (s : State) (n : Nat) (c : Core) : (s.setCore n c).spent = s.spent := rfl
@[simp] theorem State.setCore_ctxs (s : State) (n : Nat) (c : Core) : (s.setCore n c).ctxs = s.ctxs := rfl
@[simp] theorem State.setCore_inject (s : State) (n : Nat) (c : Core) : (s.setCore n c).inject = s.inject := rfl
@[simp] theorem State.setCore_windows (s : State) (n : Nat) (c : Core) : (s.setCore n c).windows = s.windows := rfl
@[simp] theorem State.setCore_ordered (s : State) (n : Nat) (c : Core) : (s.setCore n c).ordered = s.ordered := rfl
@[simp] theorem State.setCore_ringClock (s : State) (n : Nat) (c : Core) : (s.setCore n c).ringClock = s.ringClock := rfl
@[simp] theorem State.setCore_positions (s : State) (n : Nat) (c : Core) : (s.setCore n c).positions = s.positions := rfl
@[simp] theorem State.setCore_late (s : State) (n : Nat) (c : Core) : (s.setCore n c).late = s.late := rfl
@[simp] theorem State.setCore_hytur (s : State) (n : Nat) (c : Core) : (s.setCore n c).hytur = s.hytur := rfl
@[simp] theorem State.setCore_queues (s : State) (n : Nat) (c : Core) : (s.setCore n c).queues = s.queues := rfl
@[simp] theorem State.setCore_posted (s : State) (n : Nat) (c : Core) : (s.setCore n c).posted = s.posted := rfl
@[simp] theorem State.setCore_jobs (s : State) (n : Nat) (c : Core) : (s.setCore n c).jobs = s.jobs := rfl
@[simp] theorem State.setCore_binds (s : State) (n : Nat) (c : Core) : (s.setCore n c).binds = s.binds := rfl
@[simp] theorem State.setCore_series (s : State) (n : Nat) (c : Core) : (s.setCore n c).series = s.series := rfl
@[simp] theorem State.setCore_sliceAt (s : State) (n : Nat) (c : Core) : (s.setCore n c).sliceAt = s.sliceAt := rfl
@[simp] theorem State.setCore_slicing (s : State) (n : Nat) (c : Core) : (s.setCore n c).slicing = s.slicing := rfl
@[simp] theorem State.setCore_served (s : State) (n : Nat) (c : Core) : (s.setCore n c).served = s.served := rfl
@[simp] theorem State.setCore_submits (s : State) (n : Nat) (c : Core) : (s.setCore n c).submits = s.submits := rfl
@[simp] theorem State.setCore_manage (s : State) (n : Nat) (c : Core) : (s.setCore n c).manage = s.manage := rfl
@[simp] theorem State.setCore_platform (s : State) (n : Nat) (c : Core) : (s.setCore n c).platform = s.platform := rfl
@[simp] theorem State.setCore_agenda (s : State) (n : Nat) (c : Core) : (s.setCore n c).agenda = s.agenda := rfl
@[simp] theorem State.setCore_cur (s : State) (n : Nat) (c : Core) : (s.setCore n c).cur = s.cur := rfl
@[simp] theorem State.setCore_fresh (s : State) (n : Nat) (c : Core) : (s.setCore n c).fresh = s.fresh := rfl
@[simp] theorem State.setCore_issues (s : State) (n : Nat) (c : Core) : (s.setCore n c).issues = s.issues := rfl
@[simp] theorem State.setCore_outbox (s : State) (n : Nat) (c : Core) : (s.setCore n c).outbox = s.outbox := rfl

/-! ### updCore -/

@[simp] theorem State.updCore_cycle (s : State) (n : Nat) (f : Core → Core) : (s.updCore n f).cycle = s.cycle := rfl
@[simp] theorem State.updCore_clock (s : State) (n : Nat) (f : Core → Core) : (s.updCore n f).clock = s.clock := rfl
@[simp] theorem State.updCore_mem (s : State) (n : Nat) (f : Core → Core) : (s.updCore n f).mem = s.mem := rfl
@[simp] theorem State.updCore_controls (s : State) (n : Nat) (f : Core → Core) : (s.updCore n f).controls = s.controls := rfl
@[simp] theorem State.updCore_dieSpad (s : State) (n : Nat) (f : Core → Core) : (s.updCore n f).dieSpad = s.dieSpad := rfl
@[simp] theorem State.updCore_dieCounters (s : State) (n : Nat) (f : Core → Core) : (s.updCore n f).dieCounters = s.dieCounters := rfl
@[simp] theorem State.updCore_l2 (s : State) (n : Nat) (f : Core → Core) : (s.updCore n f).l2 = s.l2 := rfl
@[simp] theorem State.updCore_homes (s : State) (n : Nat) (f : Core → Core) : (s.updCore n f).homes = s.homes := rfl
@[simp] theorem State.updCore_aliasQ (s : State) (n : Nat) (f : Core → Core) : (s.updCore n f).aliasQ = s.aliasQ := rfl
@[simp] theorem State.updCore_sectors (s : State) (n : Nat) (f : Core → Core) : (s.updCore n f).sectors = s.sectors := rfl
@[simp] theorem State.updCore_warps (s : State) (n : Nat) (f : Core → Core) : (s.updCore n f).warps = s.warps := rfl
@[simp] theorem State.updCore_blocks (s : State) (n : Nat) (f : Core → Core) : (s.updCore n f).blocks = s.blocks := rfl
@[simp] theorem State.updCore_images (s : State) (n : Nat) (f : Core → Core) : (s.updCore n f).images = s.images := rfl
@[simp] theorem State.updCore_shadows (s : State) (n : Nat) (f : Core → Core) : (s.updCore n f).shadows = s.shadows := rfl
@[simp] theorem State.updCore_spent (s : State) (n : Nat) (f : Core → Core) : (s.updCore n f).spent = s.spent := rfl
@[simp] theorem State.updCore_ctxs (s : State) (n : Nat) (f : Core → Core) : (s.updCore n f).ctxs = s.ctxs := rfl
@[simp] theorem State.updCore_inject (s : State) (n : Nat) (f : Core → Core) : (s.updCore n f).inject = s.inject := rfl
@[simp] theorem State.updCore_windows (s : State) (n : Nat) (f : Core → Core) : (s.updCore n f).windows = s.windows := rfl
@[simp] theorem State.updCore_ordered (s : State) (n : Nat) (f : Core → Core) : (s.updCore n f).ordered = s.ordered := rfl
@[simp] theorem State.updCore_ringClock (s : State) (n : Nat) (f : Core → Core) : (s.updCore n f).ringClock = s.ringClock := rfl
@[simp] theorem State.updCore_positions (s : State) (n : Nat) (f : Core → Core) : (s.updCore n f).positions = s.positions := rfl
@[simp] theorem State.updCore_late (s : State) (n : Nat) (f : Core → Core) : (s.updCore n f).late = s.late := rfl
@[simp] theorem State.updCore_hytur (s : State) (n : Nat) (f : Core → Core) : (s.updCore n f).hytur = s.hytur := rfl
@[simp] theorem State.updCore_queues (s : State) (n : Nat) (f : Core → Core) : (s.updCore n f).queues = s.queues := rfl
@[simp] theorem State.updCore_posted (s : State) (n : Nat) (f : Core → Core) : (s.updCore n f).posted = s.posted := rfl
@[simp] theorem State.updCore_jobs (s : State) (n : Nat) (f : Core → Core) : (s.updCore n f).jobs = s.jobs := rfl
@[simp] theorem State.updCore_binds (s : State) (n : Nat) (f : Core → Core) : (s.updCore n f).binds = s.binds := rfl
@[simp] theorem State.updCore_series (s : State) (n : Nat) (f : Core → Core) : (s.updCore n f).series = s.series := rfl
@[simp] theorem State.updCore_sliceAt (s : State) (n : Nat) (f : Core → Core) : (s.updCore n f).sliceAt = s.sliceAt := rfl
@[simp] theorem State.updCore_slicing (s : State) (n : Nat) (f : Core → Core) : (s.updCore n f).slicing = s.slicing := rfl
@[simp] theorem State.updCore_served (s : State) (n : Nat) (f : Core → Core) : (s.updCore n f).served = s.served := rfl
@[simp] theorem State.updCore_submits (s : State) (n : Nat) (f : Core → Core) : (s.updCore n f).submits = s.submits := rfl
@[simp] theorem State.updCore_manage (s : State) (n : Nat) (f : Core → Core) : (s.updCore n f).manage = s.manage := rfl
@[simp] theorem State.updCore_platform (s : State) (n : Nat) (f : Core → Core) : (s.updCore n f).platform = s.platform := rfl
@[simp] theorem State.updCore_agenda (s : State) (n : Nat) (f : Core → Core) : (s.updCore n f).agenda = s.agenda := rfl
@[simp] theorem State.updCore_cur (s : State) (n : Nat) (f : Core → Core) : (s.updCore n f).cur = s.cur := rfl
@[simp] theorem State.updCore_fresh (s : State) (n : Nat) (f : Core → Core) : (s.updCore n f).fresh = s.fresh := rfl
@[simp] theorem State.updCore_issues (s : State) (n : Nat) (f : Core → Core) : (s.updCore n f).issues = s.issues := rfl
@[simp] theorem State.updCore_outbox (s : State) (n : Nat) (f : Core → Core) : (s.updCore n f).outbox = s.outbox := rfl

/-! ### countCore -/

@[simp] theorem State.countCore_cycle (s : State) (n i : Nat) : (s.countCore n i).cycle = s.cycle := rfl
@[simp] theorem State.countCore_clock (s : State) (n i : Nat) : (s.countCore n i).clock = s.clock := rfl
@[simp] theorem State.countCore_mem (s : State) (n i : Nat) : (s.countCore n i).mem = s.mem := rfl
@[simp] theorem State.countCore_controls (s : State) (n i : Nat) : (s.countCore n i).controls = s.controls := rfl
@[simp] theorem State.countCore_dieSpad (s : State) (n i : Nat) : (s.countCore n i).dieSpad = s.dieSpad := rfl
@[simp] theorem State.countCore_dieCounters (s : State) (n i : Nat) : (s.countCore n i).dieCounters = s.dieCounters := rfl
@[simp] theorem State.countCore_l2 (s : State) (n i : Nat) : (s.countCore n i).l2 = s.l2 := rfl
@[simp] theorem State.countCore_homes (s : State) (n i : Nat) : (s.countCore n i).homes = s.homes := rfl
@[simp] theorem State.countCore_aliasQ (s : State) (n i : Nat) : (s.countCore n i).aliasQ = s.aliasQ := rfl
@[simp] theorem State.countCore_sectors (s : State) (n i : Nat) : (s.countCore n i).sectors = s.sectors := rfl
@[simp] theorem State.countCore_warps (s : State) (n i : Nat) : (s.countCore n i).warps = s.warps := rfl
@[simp] theorem State.countCore_blocks (s : State) (n i : Nat) : (s.countCore n i).blocks = s.blocks := rfl
@[simp] theorem State.countCore_images (s : State) (n i : Nat) : (s.countCore n i).images = s.images := rfl
@[simp] theorem State.countCore_shadows (s : State) (n i : Nat) : (s.countCore n i).shadows = s.shadows := rfl
@[simp] theorem State.countCore_spent (s : State) (n i : Nat) : (s.countCore n i).spent = s.spent := rfl
@[simp] theorem State.countCore_ctxs (s : State) (n i : Nat) : (s.countCore n i).ctxs = s.ctxs := rfl
@[simp] theorem State.countCore_inject (s : State) (n i : Nat) : (s.countCore n i).inject = s.inject := rfl
@[simp] theorem State.countCore_windows (s : State) (n i : Nat) : (s.countCore n i).windows = s.windows := rfl
@[simp] theorem State.countCore_ordered (s : State) (n i : Nat) : (s.countCore n i).ordered = s.ordered := rfl
@[simp] theorem State.countCore_ringClock (s : State) (n i : Nat) : (s.countCore n i).ringClock = s.ringClock := rfl
@[simp] theorem State.countCore_positions (s : State) (n i : Nat) : (s.countCore n i).positions = s.positions := rfl
@[simp] theorem State.countCore_late (s : State) (n i : Nat) : (s.countCore n i).late = s.late := rfl
@[simp] theorem State.countCore_hytur (s : State) (n i : Nat) : (s.countCore n i).hytur = s.hytur := rfl
@[simp] theorem State.countCore_queues (s : State) (n i : Nat) : (s.countCore n i).queues = s.queues := rfl
@[simp] theorem State.countCore_posted (s : State) (n i : Nat) : (s.countCore n i).posted = s.posted := rfl
@[simp] theorem State.countCore_jobs (s : State) (n i : Nat) : (s.countCore n i).jobs = s.jobs := rfl
@[simp] theorem State.countCore_binds (s : State) (n i : Nat) : (s.countCore n i).binds = s.binds := rfl
@[simp] theorem State.countCore_series (s : State) (n i : Nat) : (s.countCore n i).series = s.series := rfl
@[simp] theorem State.countCore_sliceAt (s : State) (n i : Nat) : (s.countCore n i).sliceAt = s.sliceAt := rfl
@[simp] theorem State.countCore_slicing (s : State) (n i : Nat) : (s.countCore n i).slicing = s.slicing := rfl
@[simp] theorem State.countCore_served (s : State) (n i : Nat) : (s.countCore n i).served = s.served := rfl
@[simp] theorem State.countCore_submits (s : State) (n i : Nat) : (s.countCore n i).submits = s.submits := rfl
@[simp] theorem State.countCore_manage (s : State) (n i : Nat) : (s.countCore n i).manage = s.manage := rfl
@[simp] theorem State.countCore_platform (s : State) (n i : Nat) : (s.countCore n i).platform = s.platform := rfl
@[simp] theorem State.countCore_agenda (s : State) (n i : Nat) : (s.countCore n i).agenda = s.agenda := rfl
@[simp] theorem State.countCore_cur (s : State) (n i : Nat) : (s.countCore n i).cur = s.cur := rfl
@[simp] theorem State.countCore_fresh (s : State) (n i : Nat) : (s.countCore n i).fresh = s.fresh := rfl
@[simp] theorem State.countCore_issues (s : State) (n i : Nat) : (s.countCore n i).issues = s.issues := rfl
@[simp] theorem State.countCore_outbox (s : State) (n i : Nat) : (s.countCore n i).outbox = s.outbox := rfl

/-! ### addCore -/

@[simp] theorem State.addCore_cycle (s : State) (n i k : Nat) : (s.addCore n i k).cycle = s.cycle := rfl
@[simp] theorem State.addCore_clock (s : State) (n i k : Nat) : (s.addCore n i k).clock = s.clock := rfl
@[simp] theorem State.addCore_mem (s : State) (n i k : Nat) : (s.addCore n i k).mem = s.mem := rfl
@[simp] theorem State.addCore_controls (s : State) (n i k : Nat) : (s.addCore n i k).controls = s.controls := rfl
@[simp] theorem State.addCore_dieSpad (s : State) (n i k : Nat) : (s.addCore n i k).dieSpad = s.dieSpad := rfl
@[simp] theorem State.addCore_dieCounters (s : State) (n i k : Nat) : (s.addCore n i k).dieCounters = s.dieCounters := rfl
@[simp] theorem State.addCore_l2 (s : State) (n i k : Nat) : (s.addCore n i k).l2 = s.l2 := rfl
@[simp] theorem State.addCore_homes (s : State) (n i k : Nat) : (s.addCore n i k).homes = s.homes := rfl
@[simp] theorem State.addCore_aliasQ (s : State) (n i k : Nat) : (s.addCore n i k).aliasQ = s.aliasQ := rfl
@[simp] theorem State.addCore_sectors (s : State) (n i k : Nat) : (s.addCore n i k).sectors = s.sectors := rfl
@[simp] theorem State.addCore_warps (s : State) (n i k : Nat) : (s.addCore n i k).warps = s.warps := rfl
@[simp] theorem State.addCore_blocks (s : State) (n i k : Nat) : (s.addCore n i k).blocks = s.blocks := rfl
@[simp] theorem State.addCore_images (s : State) (n i k : Nat) : (s.addCore n i k).images = s.images := rfl
@[simp] theorem State.addCore_shadows (s : State) (n i k : Nat) : (s.addCore n i k).shadows = s.shadows := rfl
@[simp] theorem State.addCore_spent (s : State) (n i k : Nat) : (s.addCore n i k).spent = s.spent := rfl
@[simp] theorem State.addCore_ctxs (s : State) (n i k : Nat) : (s.addCore n i k).ctxs = s.ctxs := rfl
@[simp] theorem State.addCore_inject (s : State) (n i k : Nat) : (s.addCore n i k).inject = s.inject := rfl
@[simp] theorem State.addCore_windows (s : State) (n i k : Nat) : (s.addCore n i k).windows = s.windows := rfl
@[simp] theorem State.addCore_ordered (s : State) (n i k : Nat) : (s.addCore n i k).ordered = s.ordered := rfl
@[simp] theorem State.addCore_ringClock (s : State) (n i k : Nat) : (s.addCore n i k).ringClock = s.ringClock := rfl
@[simp] theorem State.addCore_positions (s : State) (n i k : Nat) : (s.addCore n i k).positions = s.positions := rfl
@[simp] theorem State.addCore_late (s : State) (n i k : Nat) : (s.addCore n i k).late = s.late := rfl
@[simp] theorem State.addCore_hytur (s : State) (n i k : Nat) : (s.addCore n i k).hytur = s.hytur := rfl
@[simp] theorem State.addCore_queues (s : State) (n i k : Nat) : (s.addCore n i k).queues = s.queues := rfl
@[simp] theorem State.addCore_posted (s : State) (n i k : Nat) : (s.addCore n i k).posted = s.posted := rfl
@[simp] theorem State.addCore_jobs (s : State) (n i k : Nat) : (s.addCore n i k).jobs = s.jobs := rfl
@[simp] theorem State.addCore_binds (s : State) (n i k : Nat) : (s.addCore n i k).binds = s.binds := rfl
@[simp] theorem State.addCore_series (s : State) (n i k : Nat) : (s.addCore n i k).series = s.series := rfl
@[simp] theorem State.addCore_sliceAt (s : State) (n i k : Nat) : (s.addCore n i k).sliceAt = s.sliceAt := rfl
@[simp] theorem State.addCore_slicing (s : State) (n i k : Nat) : (s.addCore n i k).slicing = s.slicing := rfl
@[simp] theorem State.addCore_served (s : State) (n i k : Nat) : (s.addCore n i k).served = s.served := rfl
@[simp] theorem State.addCore_submits (s : State) (n i k : Nat) : (s.addCore n i k).submits = s.submits := rfl
@[simp] theorem State.addCore_manage (s : State) (n i k : Nat) : (s.addCore n i k).manage = s.manage := rfl
@[simp] theorem State.addCore_platform (s : State) (n i k : Nat) : (s.addCore n i k).platform = s.platform := rfl
@[simp] theorem State.addCore_agenda (s : State) (n i k : Nat) : (s.addCore n i k).agenda = s.agenda := rfl
@[simp] theorem State.addCore_cur (s : State) (n i k : Nat) : (s.addCore n i k).cur = s.cur := rfl
@[simp] theorem State.addCore_fresh (s : State) (n i k : Nat) : (s.addCore n i k).fresh = s.fresh := rfl
@[simp] theorem State.addCore_issues (s : State) (n i k : Nat) : (s.addCore n i k).issues = s.issues := rfl
@[simp] theorem State.addCore_outbox (s : State) (n i k : Nat) : (s.addCore n i k).outbox = s.outbox := rfl

/-! ### countDie -/

@[simp] theorem State.countDie_cycle (s : State) (n i : Nat) : (s.countDie n i).cycle = s.cycle := rfl
@[simp] theorem State.countDie_clock (s : State) (n i : Nat) : (s.countDie n i).clock = s.clock := rfl
@[simp] theorem State.countDie_mem (s : State) (n i : Nat) : (s.countDie n i).mem = s.mem := rfl
@[simp] theorem State.countDie_cores (s : State) (n i : Nat) : (s.countDie n i).cores = s.cores := rfl
@[simp] theorem State.countDie_controls (s : State) (n i : Nat) : (s.countDie n i).controls = s.controls := rfl
@[simp] theorem State.countDie_dieSpad (s : State) (n i : Nat) : (s.countDie n i).dieSpad = s.dieSpad := rfl
@[simp] theorem State.countDie_l2 (s : State) (n i : Nat) : (s.countDie n i).l2 = s.l2 := rfl
@[simp] theorem State.countDie_homes (s : State) (n i : Nat) : (s.countDie n i).homes = s.homes := rfl
@[simp] theorem State.countDie_aliasQ (s : State) (n i : Nat) : (s.countDie n i).aliasQ = s.aliasQ := rfl
@[simp] theorem State.countDie_sectors (s : State) (n i : Nat) : (s.countDie n i).sectors = s.sectors := rfl
@[simp] theorem State.countDie_warps (s : State) (n i : Nat) : (s.countDie n i).warps = s.warps := rfl
@[simp] theorem State.countDie_blocks (s : State) (n i : Nat) : (s.countDie n i).blocks = s.blocks := rfl
@[simp] theorem State.countDie_images (s : State) (n i : Nat) : (s.countDie n i).images = s.images := rfl
@[simp] theorem State.countDie_shadows (s : State) (n i : Nat) : (s.countDie n i).shadows = s.shadows := rfl
@[simp] theorem State.countDie_spent (s : State) (n i : Nat) : (s.countDie n i).spent = s.spent := rfl
@[simp] theorem State.countDie_ctxs (s : State) (n i : Nat) : (s.countDie n i).ctxs = s.ctxs := rfl
@[simp] theorem State.countDie_inject (s : State) (n i : Nat) : (s.countDie n i).inject = s.inject := rfl
@[simp] theorem State.countDie_windows (s : State) (n i : Nat) : (s.countDie n i).windows = s.windows := rfl
@[simp] theorem State.countDie_ordered (s : State) (n i : Nat) : (s.countDie n i).ordered = s.ordered := rfl
@[simp] theorem State.countDie_ringClock (s : State) (n i : Nat) : (s.countDie n i).ringClock = s.ringClock := rfl
@[simp] theorem State.countDie_positions (s : State) (n i : Nat) : (s.countDie n i).positions = s.positions := rfl
@[simp] theorem State.countDie_late (s : State) (n i : Nat) : (s.countDie n i).late = s.late := rfl
@[simp] theorem State.countDie_hytur (s : State) (n i : Nat) : (s.countDie n i).hytur = s.hytur := rfl
@[simp] theorem State.countDie_queues (s : State) (n i : Nat) : (s.countDie n i).queues = s.queues := rfl
@[simp] theorem State.countDie_posted (s : State) (n i : Nat) : (s.countDie n i).posted = s.posted := rfl
@[simp] theorem State.countDie_jobs (s : State) (n i : Nat) : (s.countDie n i).jobs = s.jobs := rfl
@[simp] theorem State.countDie_binds (s : State) (n i : Nat) : (s.countDie n i).binds = s.binds := rfl
@[simp] theorem State.countDie_series (s : State) (n i : Nat) : (s.countDie n i).series = s.series := rfl
@[simp] theorem State.countDie_sliceAt (s : State) (n i : Nat) : (s.countDie n i).sliceAt = s.sliceAt := rfl
@[simp] theorem State.countDie_slicing (s : State) (n i : Nat) : (s.countDie n i).slicing = s.slicing := rfl
@[simp] theorem State.countDie_served (s : State) (n i : Nat) : (s.countDie n i).served = s.served := rfl
@[simp] theorem State.countDie_submits (s : State) (n i : Nat) : (s.countDie n i).submits = s.submits := rfl
@[simp] theorem State.countDie_manage (s : State) (n i : Nat) : (s.countDie n i).manage = s.manage := rfl
@[simp] theorem State.countDie_platform (s : State) (n i : Nat) : (s.countDie n i).platform = s.platform := rfl
@[simp] theorem State.countDie_agenda (s : State) (n i : Nat) : (s.countDie n i).agenda = s.agenda := rfl
@[simp] theorem State.countDie_cur (s : State) (n i : Nat) : (s.countDie n i).cur = s.cur := rfl
@[simp] theorem State.countDie_fresh (s : State) (n i : Nat) : (s.countDie n i).fresh = s.fresh := rfl
@[simp] theorem State.countDie_issues (s : State) (n i : Nat) : (s.countDie n i).issues = s.issues := rfl
@[simp] theorem State.countDie_outbox (s : State) (n i : Nat) : (s.countDie n i).outbox = s.outbox := rfl

@[simp] theorem State.addDie_cycle (s : State) (d i n : Nat) : (s.addDie d i n).cycle = s.cycle := rfl
@[simp] theorem State.addDie_clock (s : State) (d i n : Nat) : (s.addDie d i n).clock = s.clock := rfl
@[simp] theorem State.addDie_mem (s : State) (d i n : Nat) : (s.addDie d i n).mem = s.mem := rfl
@[simp] theorem State.addDie_cores (s : State) (d i n : Nat) : (s.addDie d i n).cores = s.cores := rfl
@[simp] theorem State.addDie_controls (s : State) (d i n : Nat) : (s.addDie d i n).controls = s.controls := rfl
@[simp] theorem State.addDie_dieSpad (s : State) (d i n : Nat) : (s.addDie d i n).dieSpad = s.dieSpad := rfl
@[simp] theorem State.addDie_l2 (s : State) (d i n : Nat) : (s.addDie d i n).l2 = s.l2 := rfl
@[simp] theorem State.addDie_homes (s : State) (d i n : Nat) : (s.addDie d i n).homes = s.homes := rfl
@[simp] theorem State.addDie_aliasQ (s : State) (d i n : Nat) : (s.addDie d i n).aliasQ = s.aliasQ := rfl
@[simp] theorem State.addDie_sectors (s : State) (d i n : Nat) : (s.addDie d i n).sectors = s.sectors := rfl
@[simp] theorem State.addDie_warps (s : State) (d i n : Nat) : (s.addDie d i n).warps = s.warps := rfl
@[simp] theorem State.addDie_blocks (s : State) (d i n : Nat) : (s.addDie d i n).blocks = s.blocks := rfl
@[simp] theorem State.addDie_images (s : State) (d i n : Nat) : (s.addDie d i n).images = s.images := rfl
@[simp] theorem State.addDie_shadows (s : State) (d i n : Nat) : (s.addDie d i n).shadows = s.shadows := rfl
@[simp] theorem State.addDie_spent (s : State) (d i n : Nat) : (s.addDie d i n).spent = s.spent := rfl
@[simp] theorem State.addDie_ctxs (s : State) (d i n : Nat) : (s.addDie d i n).ctxs = s.ctxs := rfl
@[simp] theorem State.addDie_inject (s : State) (d i n : Nat) : (s.addDie d i n).inject = s.inject := rfl
@[simp] theorem State.addDie_windows (s : State) (d i n : Nat) : (s.addDie d i n).windows = s.windows := rfl
@[simp] theorem State.addDie_ordered (s : State) (d i n : Nat) : (s.addDie d i n).ordered = s.ordered := rfl
@[simp] theorem State.addDie_ringClock (s : State) (d i n : Nat) : (s.addDie d i n).ringClock = s.ringClock := rfl
@[simp] theorem State.addDie_positions (s : State) (d i n : Nat) : (s.addDie d i n).positions = s.positions := rfl
@[simp] theorem State.addDie_late (s : State) (d i n : Nat) : (s.addDie d i n).late = s.late := rfl
@[simp] theorem State.addDie_hytur (s : State) (d i n : Nat) : (s.addDie d i n).hytur = s.hytur := rfl
@[simp] theorem State.addDie_queues (s : State) (d i n : Nat) : (s.addDie d i n).queues = s.queues := rfl
@[simp] theorem State.addDie_posted (s : State) (d i n : Nat) : (s.addDie d i n).posted = s.posted := rfl
@[simp] theorem State.addDie_jobs (s : State) (d i n : Nat) : (s.addDie d i n).jobs = s.jobs := rfl
@[simp] theorem State.addDie_binds (s : State) (d i n : Nat) : (s.addDie d i n).binds = s.binds := rfl
@[simp] theorem State.addDie_series (s : State) (d i n : Nat) : (s.addDie d i n).series = s.series := rfl
@[simp] theorem State.addDie_sliceAt (s : State) (d i n : Nat) : (s.addDie d i n).sliceAt = s.sliceAt := rfl
@[simp] theorem State.addDie_slicing (s : State) (d i n : Nat) : (s.addDie d i n).slicing = s.slicing := rfl
@[simp] theorem State.addDie_served (s : State) (d i n : Nat) : (s.addDie d i n).served = s.served := rfl
@[simp] theorem State.addDie_submits (s : State) (d i n : Nat) : (s.addDie d i n).submits = s.submits := rfl
@[simp] theorem State.addDie_manage (s : State) (d i n : Nat) : (s.addDie d i n).manage = s.manage := rfl
@[simp] theorem State.addDie_platform (s : State) (d i n : Nat) : (s.addDie d i n).platform = s.platform := rfl
@[simp] theorem State.addDie_agenda (s : State) (d i n : Nat) : (s.addDie d i n).agenda = s.agenda := rfl
@[simp] theorem State.addDie_cur (s : State) (d i n : Nat) : (s.addDie d i n).cur = s.cur := rfl
@[simp] theorem State.addDie_fresh (s : State) (d i n : Nat) : (s.addDie d i n).fresh = s.fresh := rfl
@[simp] theorem State.addDie_issues (s : State) (d i n : Nat) : (s.addDie d i n).issues = s.issues := rfl
@[simp] theorem State.addDie_outbox (s : State) (d i n : Nat) : (s.addDie d i n).outbox = s.outbox := rfl

/-! ### updHome -/

@[simp] theorem State.updHome_cycle (s : State) (n : Nat) (f : Home → Home) : (s.updHome n f).cycle = s.cycle := rfl
@[simp] theorem State.updHome_clock (s : State) (n : Nat) (f : Home → Home) : (s.updHome n f).clock = s.clock := rfl
@[simp] theorem State.updHome_mem (s : State) (n : Nat) (f : Home → Home) : (s.updHome n f).mem = s.mem := rfl
@[simp] theorem State.updHome_cores (s : State) (n : Nat) (f : Home → Home) : (s.updHome n f).cores = s.cores := rfl
@[simp] theorem State.updHome_controls (s : State) (n : Nat) (f : Home → Home) : (s.updHome n f).controls = s.controls := rfl
@[simp] theorem State.updHome_dieSpad (s : State) (n : Nat) (f : Home → Home) : (s.updHome n f).dieSpad = s.dieSpad := rfl
@[simp] theorem State.updHome_dieCounters (s : State) (n : Nat) (f : Home → Home) : (s.updHome n f).dieCounters = s.dieCounters := rfl
@[simp] theorem State.updHome_l2 (s : State) (n : Nat) (f : Home → Home) : (s.updHome n f).l2 = s.l2 := rfl
@[simp] theorem State.updHome_aliasQ (s : State) (n : Nat) (f : Home → Home) : (s.updHome n f).aliasQ = s.aliasQ := rfl
@[simp] theorem State.updHome_sectors (s : State) (n : Nat) (f : Home → Home) : (s.updHome n f).sectors = s.sectors := rfl
@[simp] theorem State.updHome_warps (s : State) (n : Nat) (f : Home → Home) : (s.updHome n f).warps = s.warps := rfl
@[simp] theorem State.updHome_blocks (s : State) (n : Nat) (f : Home → Home) : (s.updHome n f).blocks = s.blocks := rfl
@[simp] theorem State.updHome_images (s : State) (n : Nat) (f : Home → Home) : (s.updHome n f).images = s.images := rfl
@[simp] theorem State.updHome_shadows (s : State) (n : Nat) (f : Home → Home) : (s.updHome n f).shadows = s.shadows := rfl
@[simp] theorem State.updHome_spent (s : State) (n : Nat) (f : Home → Home) : (s.updHome n f).spent = s.spent := rfl
@[simp] theorem State.updHome_ctxs (s : State) (n : Nat) (f : Home → Home) : (s.updHome n f).ctxs = s.ctxs := rfl
@[simp] theorem State.updHome_inject (s : State) (n : Nat) (f : Home → Home) : (s.updHome n f).inject = s.inject := rfl
@[simp] theorem State.updHome_windows (s : State) (n : Nat) (f : Home → Home) : (s.updHome n f).windows = s.windows := rfl
@[simp] theorem State.updHome_ordered (s : State) (n : Nat) (f : Home → Home) : (s.updHome n f).ordered = s.ordered := rfl
@[simp] theorem State.updHome_ringClock (s : State) (n : Nat) (f : Home → Home) : (s.updHome n f).ringClock = s.ringClock := rfl
@[simp] theorem State.updHome_positions (s : State) (n : Nat) (f : Home → Home) : (s.updHome n f).positions = s.positions := rfl
@[simp] theorem State.updHome_late (s : State) (n : Nat) (f : Home → Home) : (s.updHome n f).late = s.late := rfl
@[simp] theorem State.updHome_hytur (s : State) (n : Nat) (f : Home → Home) : (s.updHome n f).hytur = s.hytur := rfl
@[simp] theorem State.updHome_queues (s : State) (n : Nat) (f : Home → Home) : (s.updHome n f).queues = s.queues := rfl
@[simp] theorem State.updHome_posted (s : State) (n : Nat) (f : Home → Home) : (s.updHome n f).posted = s.posted := rfl
@[simp] theorem State.updHome_jobs (s : State) (n : Nat) (f : Home → Home) : (s.updHome n f).jobs = s.jobs := rfl
@[simp] theorem State.updHome_binds (s : State) (n : Nat) (f : Home → Home) : (s.updHome n f).binds = s.binds := rfl
@[simp] theorem State.updHome_series (s : State) (n : Nat) (f : Home → Home) : (s.updHome n f).series = s.series := rfl
@[simp] theorem State.updHome_sliceAt (s : State) (n : Nat) (f : Home → Home) : (s.updHome n f).sliceAt = s.sliceAt := rfl
@[simp] theorem State.updHome_slicing (s : State) (n : Nat) (f : Home → Home) : (s.updHome n f).slicing = s.slicing := rfl
@[simp] theorem State.updHome_served (s : State) (n : Nat) (f : Home → Home) : (s.updHome n f).served = s.served := rfl
@[simp] theorem State.updHome_submits (s : State) (n : Nat) (f : Home → Home) : (s.updHome n f).submits = s.submits := rfl
@[simp] theorem State.updHome_manage (s : State) (n : Nat) (f : Home → Home) : (s.updHome n f).manage = s.manage := rfl
@[simp] theorem State.updHome_platform (s : State) (n : Nat) (f : Home → Home) : (s.updHome n f).platform = s.platform := rfl
@[simp] theorem State.updHome_agenda (s : State) (n : Nat) (f : Home → Home) : (s.updHome n f).agenda = s.agenda := rfl
@[simp] theorem State.updHome_cur (s : State) (n : Nat) (f : Home → Home) : (s.updHome n f).cur = s.cur := rfl
@[simp] theorem State.updHome_fresh (s : State) (n : Nat) (f : Home → Home) : (s.updHome n f).fresh = s.fresh := rfl
@[simp] theorem State.updHome_issues (s : State) (n : Nat) (f : Home → Home) : (s.updHome n f).issues = s.issues := rfl
@[simp] theorem State.updHome_outbox (s : State) (n : Nat) (f : Home → Home) : (s.updHome n f).outbox = s.outbox := rfl

/-! ### updControl -/

@[simp] theorem State.updControl_cycle (s : State) (n : Nat) (f : Control → Control) : (s.updControl n f).cycle = s.cycle := rfl
@[simp] theorem State.updControl_clock (s : State) (n : Nat) (f : Control → Control) : (s.updControl n f).clock = s.clock := rfl
@[simp] theorem State.updControl_mem (s : State) (n : Nat) (f : Control → Control) : (s.updControl n f).mem = s.mem := rfl
@[simp] theorem State.updControl_cores (s : State) (n : Nat) (f : Control → Control) : (s.updControl n f).cores = s.cores := rfl
@[simp] theorem State.updControl_dieSpad (s : State) (n : Nat) (f : Control → Control) : (s.updControl n f).dieSpad = s.dieSpad := rfl
@[simp] theorem State.updControl_dieCounters (s : State) (n : Nat) (f : Control → Control) : (s.updControl n f).dieCounters = s.dieCounters := rfl
@[simp] theorem State.updControl_l2 (s : State) (n : Nat) (f : Control → Control) : (s.updControl n f).l2 = s.l2 := rfl
@[simp] theorem State.updControl_homes (s : State) (n : Nat) (f : Control → Control) : (s.updControl n f).homes = s.homes := rfl
@[simp] theorem State.updControl_aliasQ (s : State) (n : Nat) (f : Control → Control) : (s.updControl n f).aliasQ = s.aliasQ := rfl
@[simp] theorem State.updControl_sectors (s : State) (n : Nat) (f : Control → Control) : (s.updControl n f).sectors = s.sectors := rfl
@[simp] theorem State.updControl_warps (s : State) (n : Nat) (f : Control → Control) : (s.updControl n f).warps = s.warps := rfl
@[simp] theorem State.updControl_blocks (s : State) (n : Nat) (f : Control → Control) : (s.updControl n f).blocks = s.blocks := rfl
@[simp] theorem State.updControl_images (s : State) (n : Nat) (f : Control → Control) : (s.updControl n f).images = s.images := rfl
@[simp] theorem State.updControl_shadows (s : State) (n : Nat) (f : Control → Control) : (s.updControl n f).shadows = s.shadows := rfl
@[simp] theorem State.updControl_spent (s : State) (n : Nat) (f : Control → Control) : (s.updControl n f).spent = s.spent := rfl
@[simp] theorem State.updControl_ctxs (s : State) (n : Nat) (f : Control → Control) : (s.updControl n f).ctxs = s.ctxs := rfl
@[simp] theorem State.updControl_inject (s : State) (n : Nat) (f : Control → Control) : (s.updControl n f).inject = s.inject := rfl
@[simp] theorem State.updControl_windows (s : State) (n : Nat) (f : Control → Control) : (s.updControl n f).windows = s.windows := rfl
@[simp] theorem State.updControl_ordered (s : State) (n : Nat) (f : Control → Control) : (s.updControl n f).ordered = s.ordered := rfl
@[simp] theorem State.updControl_ringClock (s : State) (n : Nat) (f : Control → Control) : (s.updControl n f).ringClock = s.ringClock := rfl
@[simp] theorem State.updControl_positions (s : State) (n : Nat) (f : Control → Control) : (s.updControl n f).positions = s.positions := rfl
@[simp] theorem State.updControl_late (s : State) (n : Nat) (f : Control → Control) : (s.updControl n f).late = s.late := rfl
@[simp] theorem State.updControl_hytur (s : State) (n : Nat) (f : Control → Control) : (s.updControl n f).hytur = s.hytur := rfl
@[simp] theorem State.updControl_queues (s : State) (n : Nat) (f : Control → Control) : (s.updControl n f).queues = s.queues := rfl
@[simp] theorem State.updControl_posted (s : State) (n : Nat) (f : Control → Control) : (s.updControl n f).posted = s.posted := rfl
@[simp] theorem State.updControl_jobs (s : State) (n : Nat) (f : Control → Control) : (s.updControl n f).jobs = s.jobs := rfl
@[simp] theorem State.updControl_binds (s : State) (n : Nat) (f : Control → Control) : (s.updControl n f).binds = s.binds := rfl
@[simp] theorem State.updControl_series (s : State) (n : Nat) (f : Control → Control) : (s.updControl n f).series = s.series := rfl
@[simp] theorem State.updControl_sliceAt (s : State) (n : Nat) (f : Control → Control) : (s.updControl n f).sliceAt = s.sliceAt := rfl
@[simp] theorem State.updControl_slicing (s : State) (n : Nat) (f : Control → Control) : (s.updControl n f).slicing = s.slicing := rfl
@[simp] theorem State.updControl_served (s : State) (n : Nat) (f : Control → Control) : (s.updControl n f).served = s.served := rfl
@[simp] theorem State.updControl_submits (s : State) (n : Nat) (f : Control → Control) : (s.updControl n f).submits = s.submits := rfl
@[simp] theorem State.updControl_manage (s : State) (n : Nat) (f : Control → Control) : (s.updControl n f).manage = s.manage := rfl
@[simp] theorem State.updControl_platform (s : State) (n : Nat) (f : Control → Control) : (s.updControl n f).platform = s.platform := rfl
@[simp] theorem State.updControl_agenda (s : State) (n : Nat) (f : Control → Control) : (s.updControl n f).agenda = s.agenda := rfl
@[simp] theorem State.updControl_cur (s : State) (n : Nat) (f : Control → Control) : (s.updControl n f).cur = s.cur := rfl
@[simp] theorem State.updControl_fresh (s : State) (n : Nat) (f : Control → Control) : (s.updControl n f).fresh = s.fresh := rfl
@[simp] theorem State.updControl_issues (s : State) (n : Nat) (f : Control → Control) : (s.updControl n f).issues = s.issues := rfl
@[simp] theorem State.updControl_outbox (s : State) (n : Nat) (f : Control → Control) : (s.updControl n f).outbox = s.outbox := rfl

/-! ### updCtx -/

@[simp] theorem State.updCtx_cycle (s : State) (n : Nat) (f : Ctx → Ctx) : (s.updCtx n f).cycle = s.cycle := rfl
@[simp] theorem State.updCtx_clock (s : State) (n : Nat) (f : Ctx → Ctx) : (s.updCtx n f).clock = s.clock := rfl
@[simp] theorem State.updCtx_mem (s : State) (n : Nat) (f : Ctx → Ctx) : (s.updCtx n f).mem = s.mem := rfl
@[simp] theorem State.updCtx_cores (s : State) (n : Nat) (f : Ctx → Ctx) : (s.updCtx n f).cores = s.cores := rfl
@[simp] theorem State.updCtx_controls (s : State) (n : Nat) (f : Ctx → Ctx) : (s.updCtx n f).controls = s.controls := rfl
@[simp] theorem State.updCtx_dieSpad (s : State) (n : Nat) (f : Ctx → Ctx) : (s.updCtx n f).dieSpad = s.dieSpad := rfl
@[simp] theorem State.updCtx_dieCounters (s : State) (n : Nat) (f : Ctx → Ctx) : (s.updCtx n f).dieCounters = s.dieCounters := rfl
@[simp] theorem State.updCtx_l2 (s : State) (n : Nat) (f : Ctx → Ctx) : (s.updCtx n f).l2 = s.l2 := rfl
@[simp] theorem State.updCtx_homes (s : State) (n : Nat) (f : Ctx → Ctx) : (s.updCtx n f).homes = s.homes := rfl
@[simp] theorem State.updCtx_aliasQ (s : State) (n : Nat) (f : Ctx → Ctx) : (s.updCtx n f).aliasQ = s.aliasQ := rfl
@[simp] theorem State.updCtx_sectors (s : State) (n : Nat) (f : Ctx → Ctx) : (s.updCtx n f).sectors = s.sectors := rfl
@[simp] theorem State.updCtx_warps (s : State) (n : Nat) (f : Ctx → Ctx) : (s.updCtx n f).warps = s.warps := rfl
@[simp] theorem State.updCtx_blocks (s : State) (n : Nat) (f : Ctx → Ctx) : (s.updCtx n f).blocks = s.blocks := rfl
@[simp] theorem State.updCtx_images (s : State) (n : Nat) (f : Ctx → Ctx) : (s.updCtx n f).images = s.images := rfl
@[simp] theorem State.updCtx_shadows (s : State) (n : Nat) (f : Ctx → Ctx) : (s.updCtx n f).shadows = s.shadows := rfl
@[simp] theorem State.updCtx_spent (s : State) (n : Nat) (f : Ctx → Ctx) : (s.updCtx n f).spent = s.spent := rfl
@[simp] theorem State.updCtx_inject (s : State) (n : Nat) (f : Ctx → Ctx) : (s.updCtx n f).inject = s.inject := rfl
@[simp] theorem State.updCtx_windows (s : State) (n : Nat) (f : Ctx → Ctx) : (s.updCtx n f).windows = s.windows := rfl
@[simp] theorem State.updCtx_ordered (s : State) (n : Nat) (f : Ctx → Ctx) : (s.updCtx n f).ordered = s.ordered := rfl
@[simp] theorem State.updCtx_ringClock (s : State) (n : Nat) (f : Ctx → Ctx) : (s.updCtx n f).ringClock = s.ringClock := rfl
@[simp] theorem State.updCtx_positions (s : State) (n : Nat) (f : Ctx → Ctx) : (s.updCtx n f).positions = s.positions := rfl
@[simp] theorem State.updCtx_late (s : State) (n : Nat) (f : Ctx → Ctx) : (s.updCtx n f).late = s.late := rfl
@[simp] theorem State.updCtx_hytur (s : State) (n : Nat) (f : Ctx → Ctx) : (s.updCtx n f).hytur = s.hytur := rfl
@[simp] theorem State.updCtx_queues (s : State) (n : Nat) (f : Ctx → Ctx) : (s.updCtx n f).queues = s.queues := rfl
@[simp] theorem State.updCtx_posted (s : State) (n : Nat) (f : Ctx → Ctx) : (s.updCtx n f).posted = s.posted := rfl
@[simp] theorem State.updCtx_jobs (s : State) (n : Nat) (f : Ctx → Ctx) : (s.updCtx n f).jobs = s.jobs := rfl
@[simp] theorem State.updCtx_binds (s : State) (n : Nat) (f : Ctx → Ctx) : (s.updCtx n f).binds = s.binds := rfl
@[simp] theorem State.updCtx_series (s : State) (n : Nat) (f : Ctx → Ctx) : (s.updCtx n f).series = s.series := rfl
@[simp] theorem State.updCtx_sliceAt (s : State) (n : Nat) (f : Ctx → Ctx) : (s.updCtx n f).sliceAt = s.sliceAt := rfl
@[simp] theorem State.updCtx_slicing (s : State) (n : Nat) (f : Ctx → Ctx) : (s.updCtx n f).slicing = s.slicing := rfl
@[simp] theorem State.updCtx_served (s : State) (n : Nat) (f : Ctx → Ctx) : (s.updCtx n f).served = s.served := rfl
@[simp] theorem State.updCtx_submits (s : State) (n : Nat) (f : Ctx → Ctx) : (s.updCtx n f).submits = s.submits := rfl
@[simp] theorem State.updCtx_manage (s : State) (n : Nat) (f : Ctx → Ctx) : (s.updCtx n f).manage = s.manage := rfl
@[simp] theorem State.updCtx_platform (s : State) (n : Nat) (f : Ctx → Ctx) : (s.updCtx n f).platform = s.platform := rfl
@[simp] theorem State.updCtx_agenda (s : State) (n : Nat) (f : Ctx → Ctx) : (s.updCtx n f).agenda = s.agenda := rfl
@[simp] theorem State.updCtx_cur (s : State) (n : Nat) (f : Ctx → Ctx) : (s.updCtx n f).cur = s.cur := rfl
@[simp] theorem State.updCtx_fresh (s : State) (n : Nat) (f : Ctx → Ctx) : (s.updCtx n f).fresh = s.fresh := rfl
@[simp] theorem State.updCtx_issues (s : State) (n : Nat) (f : Ctx → Ctx) : (s.updCtx n f).issues = s.issues := rfl
@[simp] theorem State.updCtx_outbox (s : State) (n : Nat) (f : Ctx → Ctx) : (s.updCtx n f).outbox = s.outbox := rfl

/-! ### updHytur -/

@[simp] theorem State.updHytur_cycle (s : State) (f : Hytur → Hytur) : (s.updHytur f).cycle = s.cycle := rfl
@[simp] theorem State.updHytur_clock (s : State) (f : Hytur → Hytur) : (s.updHytur f).clock = s.clock := rfl
@[simp] theorem State.updHytur_mem (s : State) (f : Hytur → Hytur) : (s.updHytur f).mem = s.mem := rfl
@[simp] theorem State.updHytur_cores (s : State) (f : Hytur → Hytur) : (s.updHytur f).cores = s.cores := rfl
@[simp] theorem State.updHytur_controls (s : State) (f : Hytur → Hytur) : (s.updHytur f).controls = s.controls := rfl
@[simp] theorem State.updHytur_dieSpad (s : State) (f : Hytur → Hytur) : (s.updHytur f).dieSpad = s.dieSpad := rfl
@[simp] theorem State.updHytur_dieCounters (s : State) (f : Hytur → Hytur) : (s.updHytur f).dieCounters = s.dieCounters := rfl
@[simp] theorem State.updHytur_l2 (s : State) (f : Hytur → Hytur) : (s.updHytur f).l2 = s.l2 := rfl
@[simp] theorem State.updHytur_homes (s : State) (f : Hytur → Hytur) : (s.updHytur f).homes = s.homes := rfl
@[simp] theorem State.updHytur_aliasQ (s : State) (f : Hytur → Hytur) : (s.updHytur f).aliasQ = s.aliasQ := rfl
@[simp] theorem State.updHytur_sectors (s : State) (f : Hytur → Hytur) : (s.updHytur f).sectors = s.sectors := rfl
@[simp] theorem State.updHytur_warps (s : State) (f : Hytur → Hytur) : (s.updHytur f).warps = s.warps := rfl
@[simp] theorem State.updHytur_blocks (s : State) (f : Hytur → Hytur) : (s.updHytur f).blocks = s.blocks := rfl
@[simp] theorem State.updHytur_images (s : State) (f : Hytur → Hytur) : (s.updHytur f).images = s.images := rfl
@[simp] theorem State.updHytur_shadows (s : State) (f : Hytur → Hytur) : (s.updHytur f).shadows = s.shadows := rfl
@[simp] theorem State.updHytur_spent (s : State) (f : Hytur → Hytur) : (s.updHytur f).spent = s.spent := rfl
@[simp] theorem State.updHytur_ctxs (s : State) (f : Hytur → Hytur) : (s.updHytur f).ctxs = s.ctxs := rfl
@[simp] theorem State.updHytur_inject (s : State) (f : Hytur → Hytur) : (s.updHytur f).inject = s.inject := rfl
@[simp] theorem State.updHytur_windows (s : State) (f : Hytur → Hytur) : (s.updHytur f).windows = s.windows := rfl
@[simp] theorem State.updHytur_ordered (s : State) (f : Hytur → Hytur) : (s.updHytur f).ordered = s.ordered := rfl
@[simp] theorem State.updHytur_ringClock (s : State) (f : Hytur → Hytur) : (s.updHytur f).ringClock = s.ringClock := rfl
@[simp] theorem State.updHytur_positions (s : State) (f : Hytur → Hytur) : (s.updHytur f).positions = s.positions := rfl
@[simp] theorem State.updHytur_late (s : State) (f : Hytur → Hytur) : (s.updHytur f).late = s.late := rfl
@[simp] theorem State.updHytur_queues (s : State) (f : Hytur → Hytur) : (s.updHytur f).queues = s.queues := rfl
@[simp] theorem State.updHytur_posted (s : State) (f : Hytur → Hytur) : (s.updHytur f).posted = s.posted := rfl
@[simp] theorem State.updHytur_jobs (s : State) (f : Hytur → Hytur) : (s.updHytur f).jobs = s.jobs := rfl
@[simp] theorem State.updHytur_binds (s : State) (f : Hytur → Hytur) : (s.updHytur f).binds = s.binds := rfl
@[simp] theorem State.updHytur_series (s : State) (f : Hytur → Hytur) : (s.updHytur f).series = s.series := rfl
@[simp] theorem State.updHytur_sliceAt (s : State) (f : Hytur → Hytur) : (s.updHytur f).sliceAt = s.sliceAt := rfl
@[simp] theorem State.updHytur_slicing (s : State) (f : Hytur → Hytur) : (s.updHytur f).slicing = s.slicing := rfl
@[simp] theorem State.updHytur_served (s : State) (f : Hytur → Hytur) : (s.updHytur f).served = s.served := rfl
@[simp] theorem State.updHytur_submits (s : State) (f : Hytur → Hytur) : (s.updHytur f).submits = s.submits := rfl
@[simp] theorem State.updHytur_manage (s : State) (f : Hytur → Hytur) : (s.updHytur f).manage = s.manage := rfl
@[simp] theorem State.updHytur_platform (s : State) (f : Hytur → Hytur) : (s.updHytur f).platform = s.platform := rfl
@[simp] theorem State.updHytur_agenda (s : State) (f : Hytur → Hytur) : (s.updHytur f).agenda = s.agenda := rfl
@[simp] theorem State.updHytur_cur (s : State) (f : Hytur → Hytur) : (s.updHytur f).cur = s.cur := rfl
@[simp] theorem State.updHytur_fresh (s : State) (f : Hytur → Hytur) : (s.updHytur f).fresh = s.fresh := rfl
@[simp] theorem State.updHytur_issues (s : State) (f : Hytur → Hytur) : (s.updHytur f).issues = s.issues := rfl
@[simp] theorem State.updHytur_outbox (s : State) (f : Hytur → Hytur) : (s.updHytur f).outbox = s.outbox := rfl

/-! ### updPlatform -/

@[simp] theorem State.updPlatform_cycle (s : State) (f : Platform → Platform) : (s.updPlatform f).cycle = s.cycle := rfl
@[simp] theorem State.updPlatform_clock (s : State) (f : Platform → Platform) : (s.updPlatform f).clock = s.clock := rfl
@[simp] theorem State.updPlatform_mem (s : State) (f : Platform → Platform) : (s.updPlatform f).mem = s.mem := rfl
@[simp] theorem State.updPlatform_cores (s : State) (f : Platform → Platform) : (s.updPlatform f).cores = s.cores := rfl
@[simp] theorem State.updPlatform_controls (s : State) (f : Platform → Platform) : (s.updPlatform f).controls = s.controls := rfl
@[simp] theorem State.updPlatform_dieSpad (s : State) (f : Platform → Platform) : (s.updPlatform f).dieSpad = s.dieSpad := rfl
@[simp] theorem State.updPlatform_dieCounters (s : State) (f : Platform → Platform) : (s.updPlatform f).dieCounters = s.dieCounters := rfl
@[simp] theorem State.updPlatform_l2 (s : State) (f : Platform → Platform) : (s.updPlatform f).l2 = s.l2 := rfl
@[simp] theorem State.updPlatform_homes (s : State) (f : Platform → Platform) : (s.updPlatform f).homes = s.homes := rfl
@[simp] theorem State.updPlatform_aliasQ (s : State) (f : Platform → Platform) : (s.updPlatform f).aliasQ = s.aliasQ := rfl
@[simp] theorem State.updPlatform_sectors (s : State) (f : Platform → Platform) : (s.updPlatform f).sectors = s.sectors := rfl
@[simp] theorem State.updPlatform_warps (s : State) (f : Platform → Platform) : (s.updPlatform f).warps = s.warps := rfl
@[simp] theorem State.updPlatform_blocks (s : State) (f : Platform → Platform) : (s.updPlatform f).blocks = s.blocks := rfl
@[simp] theorem State.updPlatform_images (s : State) (f : Platform → Platform) : (s.updPlatform f).images = s.images := rfl
@[simp] theorem State.updPlatform_shadows (s : State) (f : Platform → Platform) : (s.updPlatform f).shadows = s.shadows := rfl
@[simp] theorem State.updPlatform_spent (s : State) (f : Platform → Platform) : (s.updPlatform f).spent = s.spent := rfl
@[simp] theorem State.updPlatform_ctxs (s : State) (f : Platform → Platform) : (s.updPlatform f).ctxs = s.ctxs := rfl
@[simp] theorem State.updPlatform_inject (s : State) (f : Platform → Platform) : (s.updPlatform f).inject = s.inject := rfl
@[simp] theorem State.updPlatform_windows (s : State) (f : Platform → Platform) : (s.updPlatform f).windows = s.windows := rfl
@[simp] theorem State.updPlatform_ordered (s : State) (f : Platform → Platform) : (s.updPlatform f).ordered = s.ordered := rfl
@[simp] theorem State.updPlatform_ringClock (s : State) (f : Platform → Platform) : (s.updPlatform f).ringClock = s.ringClock := rfl
@[simp] theorem State.updPlatform_positions (s : State) (f : Platform → Platform) : (s.updPlatform f).positions = s.positions := rfl
@[simp] theorem State.updPlatform_late (s : State) (f : Platform → Platform) : (s.updPlatform f).late = s.late := rfl
@[simp] theorem State.updPlatform_hytur (s : State) (f : Platform → Platform) : (s.updPlatform f).hytur = s.hytur := rfl
@[simp] theorem State.updPlatform_queues (s : State) (f : Platform → Platform) : (s.updPlatform f).queues = s.queues := rfl
@[simp] theorem State.updPlatform_posted (s : State) (f : Platform → Platform) : (s.updPlatform f).posted = s.posted := rfl
@[simp] theorem State.updPlatform_jobs (s : State) (f : Platform → Platform) : (s.updPlatform f).jobs = s.jobs := rfl
@[simp] theorem State.updPlatform_binds (s : State) (f : Platform → Platform) : (s.updPlatform f).binds = s.binds := rfl
@[simp] theorem State.updPlatform_series (s : State) (f : Platform → Platform) : (s.updPlatform f).series = s.series := rfl
@[simp] theorem State.updPlatform_sliceAt (s : State) (f : Platform → Platform) : (s.updPlatform f).sliceAt = s.sliceAt := rfl
@[simp] theorem State.updPlatform_slicing (s : State) (f : Platform → Platform) : (s.updPlatform f).slicing = s.slicing := rfl
@[simp] theorem State.updPlatform_served (s : State) (f : Platform → Platform) : (s.updPlatform f).served = s.served := rfl
@[simp] theorem State.updPlatform_submits (s : State) (f : Platform → Platform) : (s.updPlatform f).submits = s.submits := rfl
@[simp] theorem State.updPlatform_manage (s : State) (f : Platform → Platform) : (s.updPlatform f).manage = s.manage := rfl
@[simp] theorem State.updPlatform_agenda (s : State) (f : Platform → Platform) : (s.updPlatform f).agenda = s.agenda := rfl
@[simp] theorem State.updPlatform_cur (s : State) (f : Platform → Platform) : (s.updPlatform f).cur = s.cur := rfl
@[simp] theorem State.updPlatform_fresh (s : State) (f : Platform → Platform) : (s.updPlatform f).fresh = s.fresh := rfl
@[simp] theorem State.updPlatform_issues (s : State) (f : Platform → Platform) : (s.updPlatform f).issues = s.issues := rfl
@[simp] theorem State.updPlatform_outbox (s : State) (f : Platform → Platform) : (s.updPlatform f).outbox = s.outbox := rfl

/-! ### updQueue -/

@[simp] theorem State.updQueue_cycle (s : State) (n : Nat) (f : Queue → Queue) : (s.updQueue n f).cycle = s.cycle := rfl
@[simp] theorem State.updQueue_clock (s : State) (n : Nat) (f : Queue → Queue) : (s.updQueue n f).clock = s.clock := rfl
@[simp] theorem State.updQueue_mem (s : State) (n : Nat) (f : Queue → Queue) : (s.updQueue n f).mem = s.mem := rfl
@[simp] theorem State.updQueue_cores (s : State) (n : Nat) (f : Queue → Queue) : (s.updQueue n f).cores = s.cores := rfl
@[simp] theorem State.updQueue_controls (s : State) (n : Nat) (f : Queue → Queue) : (s.updQueue n f).controls = s.controls := rfl
@[simp] theorem State.updQueue_dieSpad (s : State) (n : Nat) (f : Queue → Queue) : (s.updQueue n f).dieSpad = s.dieSpad := rfl
@[simp] theorem State.updQueue_dieCounters (s : State) (n : Nat) (f : Queue → Queue) : (s.updQueue n f).dieCounters = s.dieCounters := rfl
@[simp] theorem State.updQueue_l2 (s : State) (n : Nat) (f : Queue → Queue) : (s.updQueue n f).l2 = s.l2 := rfl
@[simp] theorem State.updQueue_homes (s : State) (n : Nat) (f : Queue → Queue) : (s.updQueue n f).homes = s.homes := rfl
@[simp] theorem State.updQueue_aliasQ (s : State) (n : Nat) (f : Queue → Queue) : (s.updQueue n f).aliasQ = s.aliasQ := rfl
@[simp] theorem State.updQueue_sectors (s : State) (n : Nat) (f : Queue → Queue) : (s.updQueue n f).sectors = s.sectors := rfl
@[simp] theorem State.updQueue_warps (s : State) (n : Nat) (f : Queue → Queue) : (s.updQueue n f).warps = s.warps := rfl
@[simp] theorem State.updQueue_blocks (s : State) (n : Nat) (f : Queue → Queue) : (s.updQueue n f).blocks = s.blocks := rfl
@[simp] theorem State.updQueue_images (s : State) (n : Nat) (f : Queue → Queue) : (s.updQueue n f).images = s.images := rfl
@[simp] theorem State.updQueue_shadows (s : State) (n : Nat) (f : Queue → Queue) : (s.updQueue n f).shadows = s.shadows := rfl
@[simp] theorem State.updQueue_spent (s : State) (n : Nat) (f : Queue → Queue) : (s.updQueue n f).spent = s.spent := rfl
@[simp] theorem State.updQueue_ctxs (s : State) (n : Nat) (f : Queue → Queue) : (s.updQueue n f).ctxs = s.ctxs := rfl
@[simp] theorem State.updQueue_inject (s : State) (n : Nat) (f : Queue → Queue) : (s.updQueue n f).inject = s.inject := rfl
@[simp] theorem State.updQueue_windows (s : State) (n : Nat) (f : Queue → Queue) : (s.updQueue n f).windows = s.windows := rfl
@[simp] theorem State.updQueue_ordered (s : State) (n : Nat) (f : Queue → Queue) : (s.updQueue n f).ordered = s.ordered := rfl
@[simp] theorem State.updQueue_ringClock (s : State) (n : Nat) (f : Queue → Queue) : (s.updQueue n f).ringClock = s.ringClock := rfl
@[simp] theorem State.updQueue_positions (s : State) (n : Nat) (f : Queue → Queue) : (s.updQueue n f).positions = s.positions := rfl
@[simp] theorem State.updQueue_late (s : State) (n : Nat) (f : Queue → Queue) : (s.updQueue n f).late = s.late := rfl
@[simp] theorem State.updQueue_hytur (s : State) (n : Nat) (f : Queue → Queue) : (s.updQueue n f).hytur = s.hytur := rfl
@[simp] theorem State.updQueue_posted (s : State) (n : Nat) (f : Queue → Queue) : (s.updQueue n f).posted = s.posted := rfl
@[simp] theorem State.updQueue_jobs (s : State) (n : Nat) (f : Queue → Queue) : (s.updQueue n f).jobs = s.jobs := rfl
@[simp] theorem State.updQueue_binds (s : State) (n : Nat) (f : Queue → Queue) : (s.updQueue n f).binds = s.binds := rfl
@[simp] theorem State.updQueue_series (s : State) (n : Nat) (f : Queue → Queue) : (s.updQueue n f).series = s.series := rfl
@[simp] theorem State.updQueue_sliceAt (s : State) (n : Nat) (f : Queue → Queue) : (s.updQueue n f).sliceAt = s.sliceAt := rfl
@[simp] theorem State.updQueue_slicing (s : State) (n : Nat) (f : Queue → Queue) : (s.updQueue n f).slicing = s.slicing := rfl
@[simp] theorem State.updQueue_served (s : State) (n : Nat) (f : Queue → Queue) : (s.updQueue n f).served = s.served := rfl
@[simp] theorem State.updQueue_submits (s : State) (n : Nat) (f : Queue → Queue) : (s.updQueue n f).submits = s.submits := rfl
@[simp] theorem State.updQueue_manage (s : State) (n : Nat) (f : Queue → Queue) : (s.updQueue n f).manage = s.manage := rfl
@[simp] theorem State.updQueue_platform (s : State) (n : Nat) (f : Queue → Queue) : (s.updQueue n f).platform = s.platform := rfl
@[simp] theorem State.updQueue_agenda (s : State) (n : Nat) (f : Queue → Queue) : (s.updQueue n f).agenda = s.agenda := rfl
@[simp] theorem State.updQueue_cur (s : State) (n : Nat) (f : Queue → Queue) : (s.updQueue n f).cur = s.cur := rfl
@[simp] theorem State.updQueue_fresh (s : State) (n : Nat) (f : Queue → Queue) : (s.updQueue n f).fresh = s.fresh := rfl
@[simp] theorem State.updQueue_issues (s : State) (n : Nat) (f : Queue → Queue) : (s.updQueue n f).issues = s.issues := rfl
@[simp] theorem State.updQueue_outbox (s : State) (n : Nat) (f : Queue → Queue) : (s.updQueue n f).outbox = s.outbox := rfl

/-! ### writeBytes -/

theorem State.writeBytes_eq (s : State) (n : Nat) (l : List Byte) :
    s.writeBytes n l = { s with mem := writeMem s.mem n l, platform := (s.writeBytes n l).platform } := by
  unfold State.writeBytes State.clearErrors State.mapErrors
  split <;> rfl

@[simp] theorem State.writeBytes_mem (s : State) (n : Nat) (l : List Byte) : (s.writeBytes n l).mem = writeMem s.mem n l := by rw [State.writeBytes_eq]
@[simp] theorem State.writeBytes_cycle (s : State) (n : Nat) (l : List Byte) : (s.writeBytes n l).cycle = s.cycle := by rw [State.writeBytes_eq]
@[simp] theorem State.writeBytes_clock (s : State) (n : Nat) (l : List Byte) : (s.writeBytes n l).clock = s.clock := by rw [State.writeBytes_eq]
@[simp] theorem State.writeBytes_cores (s : State) (n : Nat) (l : List Byte) : (s.writeBytes n l).cores = s.cores := by rw [State.writeBytes_eq]
@[simp] theorem State.writeBytes_controls (s : State) (n : Nat) (l : List Byte) : (s.writeBytes n l).controls = s.controls := by rw [State.writeBytes_eq]
@[simp] theorem State.writeBytes_dieSpad (s : State) (n : Nat) (l : List Byte) : (s.writeBytes n l).dieSpad = s.dieSpad := by rw [State.writeBytes_eq]
@[simp] theorem State.writeBytes_dieCounters (s : State) (n : Nat) (l : List Byte) : (s.writeBytes n l).dieCounters = s.dieCounters := by rw [State.writeBytes_eq]
@[simp] theorem State.writeBytes_l2 (s : State) (n : Nat) (l : List Byte) : (s.writeBytes n l).l2 = s.l2 := by rw [State.writeBytes_eq]
@[simp] theorem State.writeBytes_homes (s : State) (n : Nat) (l : List Byte) : (s.writeBytes n l).homes = s.homes := by rw [State.writeBytes_eq]
@[simp] theorem State.writeBytes_aliasQ (s : State) (n : Nat) (l : List Byte) : (s.writeBytes n l).aliasQ = s.aliasQ := by rw [State.writeBytes_eq]
@[simp] theorem State.writeBytes_sectors (s : State) (n : Nat) (l : List Byte) : (s.writeBytes n l).sectors = s.sectors := by rw [State.writeBytes_eq]
@[simp] theorem State.writeBytes_warps (s : State) (n : Nat) (l : List Byte) : (s.writeBytes n l).warps = s.warps := by rw [State.writeBytes_eq]
@[simp] theorem State.writeBytes_blocks (s : State) (n : Nat) (l : List Byte) : (s.writeBytes n l).blocks = s.blocks := by rw [State.writeBytes_eq]
@[simp] theorem State.writeBytes_images (s : State) (n : Nat) (l : List Byte) : (s.writeBytes n l).images = s.images := by rw [State.writeBytes_eq]
@[simp] theorem State.writeBytes_shadows (s : State) (n : Nat) (l : List Byte) : (s.writeBytes n l).shadows = s.shadows := by rw [State.writeBytes_eq]
@[simp] theorem State.writeBytes_spent (s : State) (n : Nat) (l : List Byte) : (s.writeBytes n l).spent = s.spent := by rw [State.writeBytes_eq]
@[simp] theorem State.writeBytes_ctxs (s : State) (n : Nat) (l : List Byte) : (s.writeBytes n l).ctxs = s.ctxs := by rw [State.writeBytes_eq]
@[simp] theorem State.writeBytes_inject (s : State) (n : Nat) (l : List Byte) : (s.writeBytes n l).inject = s.inject := by rw [State.writeBytes_eq]
@[simp] theorem State.writeBytes_windows (s : State) (n : Nat) (l : List Byte) : (s.writeBytes n l).windows = s.windows := by rw [State.writeBytes_eq]
@[simp] theorem State.writeBytes_ordered (s : State) (n : Nat) (l : List Byte) : (s.writeBytes n l).ordered = s.ordered := by rw [State.writeBytes_eq]
@[simp] theorem State.writeBytes_ringClock (s : State) (n : Nat) (l : List Byte) : (s.writeBytes n l).ringClock = s.ringClock := by rw [State.writeBytes_eq]
@[simp] theorem State.writeBytes_positions (s : State) (n : Nat) (l : List Byte) : (s.writeBytes n l).positions = s.positions := by rw [State.writeBytes_eq]
@[simp] theorem State.writeBytes_late (s : State) (n : Nat) (l : List Byte) : (s.writeBytes n l).late = s.late := by rw [State.writeBytes_eq]
@[simp] theorem State.writeBytes_hytur (s : State) (n : Nat) (l : List Byte) : (s.writeBytes n l).hytur = s.hytur := by rw [State.writeBytes_eq]
@[simp] theorem State.writeBytes_queues (s : State) (n : Nat) (l : List Byte) : (s.writeBytes n l).queues = s.queues := by rw [State.writeBytes_eq]
@[simp] theorem State.writeBytes_posted (s : State) (n : Nat) (l : List Byte) : (s.writeBytes n l).posted = s.posted := by rw [State.writeBytes_eq]
@[simp] theorem State.writeBytes_jobs (s : State) (n : Nat) (l : List Byte) : (s.writeBytes n l).jobs = s.jobs := by rw [State.writeBytes_eq]
@[simp] theorem State.writeBytes_binds (s : State) (n : Nat) (l : List Byte) : (s.writeBytes n l).binds = s.binds := by rw [State.writeBytes_eq]
@[simp] theorem State.writeBytes_series (s : State) (n : Nat) (l : List Byte) : (s.writeBytes n l).series = s.series := by rw [State.writeBytes_eq]
@[simp] theorem State.writeBytes_sliceAt (s : State) (n : Nat) (l : List Byte) : (s.writeBytes n l).sliceAt = s.sliceAt := by rw [State.writeBytes_eq]
@[simp] theorem State.writeBytes_slicing (s : State) (n : Nat) (l : List Byte) : (s.writeBytes n l).slicing = s.slicing := by rw [State.writeBytes_eq]
@[simp] theorem State.writeBytes_served (s : State) (n : Nat) (l : List Byte) : (s.writeBytes n l).served = s.served := by rw [State.writeBytes_eq]
@[simp] theorem State.writeBytes_submits (s : State) (n : Nat) (l : List Byte) : (s.writeBytes n l).submits = s.submits := by rw [State.writeBytes_eq]
@[simp] theorem State.writeBytes_manage (s : State) (n : Nat) (l : List Byte) : (s.writeBytes n l).manage = s.manage := by rw [State.writeBytes_eq]
@[simp] theorem State.writeBytes_agenda (s : State) (n : Nat) (l : List Byte) : (s.writeBytes n l).agenda = s.agenda := by rw [State.writeBytes_eq]
@[simp] theorem State.writeBytes_cur (s : State) (n : Nat) (l : List Byte) : (s.writeBytes n l).cur = s.cur := by rw [State.writeBytes_eq]
@[simp] theorem State.writeBytes_fresh (s : State) (n : Nat) (l : List Byte) : (s.writeBytes n l).fresh = s.fresh := by rw [State.writeBytes_eq]
@[simp] theorem State.writeBytes_issues (s : State) (n : Nat) (l : List Byte) : (s.writeBytes n l).issues = s.issues := by rw [State.writeBytes_eq]
@[simp] theorem State.writeBytes_outbox (s : State) (n : Nat) (l : List Byte) : (s.writeBytes n l).outbox = s.outbox := by rw [State.writeBytes_eq]

/-! ### send -/

@[simp] theorem State.send_cycle (s : State) (o : Out) : (s.send o).cycle = s.cycle := rfl
@[simp] theorem State.send_clock (s : State) (o : Out) : (s.send o).clock = s.clock := rfl
@[simp] theorem State.send_mem (s : State) (o : Out) : (s.send o).mem = s.mem := rfl
@[simp] theorem State.send_cores (s : State) (o : Out) : (s.send o).cores = s.cores := rfl
@[simp] theorem State.send_controls (s : State) (o : Out) : (s.send o).controls = s.controls := rfl
@[simp] theorem State.send_dieSpad (s : State) (o : Out) : (s.send o).dieSpad = s.dieSpad := rfl
@[simp] theorem State.send_dieCounters (s : State) (o : Out) : (s.send o).dieCounters = s.dieCounters := rfl
@[simp] theorem State.send_l2 (s : State) (o : Out) : (s.send o).l2 = s.l2 := rfl
@[simp] theorem State.send_homes (s : State) (o : Out) : (s.send o).homes = s.homes := rfl
@[simp] theorem State.send_aliasQ (s : State) (o : Out) : (s.send o).aliasQ = s.aliasQ := rfl
@[simp] theorem State.send_sectors (s : State) (o : Out) : (s.send o).sectors = s.sectors := rfl
@[simp] theorem State.send_warps (s : State) (o : Out) : (s.send o).warps = s.warps := rfl
@[simp] theorem State.send_blocks (s : State) (o : Out) : (s.send o).blocks = s.blocks := rfl
@[simp] theorem State.send_images (s : State) (o : Out) : (s.send o).images = s.images := rfl
@[simp] theorem State.send_shadows (s : State) (o : Out) : (s.send o).shadows = s.shadows := rfl
@[simp] theorem State.send_spent (s : State) (o : Out) : (s.send o).spent = s.spent := rfl
@[simp] theorem State.send_ctxs (s : State) (o : Out) : (s.send o).ctxs = s.ctxs := rfl
@[simp] theorem State.send_inject (s : State) (o : Out) : (s.send o).inject = s.inject := rfl
@[simp] theorem State.send_windows (s : State) (o : Out) : (s.send o).windows = s.windows := rfl
@[simp] theorem State.send_ordered (s : State) (o : Out) : (s.send o).ordered = s.ordered := rfl
@[simp] theorem State.send_ringClock (s : State) (o : Out) : (s.send o).ringClock = s.ringClock := rfl
@[simp] theorem State.send_positions (s : State) (o : Out) : (s.send o).positions = s.positions := rfl
@[simp] theorem State.send_late (s : State) (o : Out) : (s.send o).late = s.late := rfl
@[simp] theorem State.send_hytur (s : State) (o : Out) : (s.send o).hytur = s.hytur := rfl
@[simp] theorem State.send_queues (s : State) (o : Out) : (s.send o).queues = s.queues := rfl
@[simp] theorem State.send_posted (s : State) (o : Out) : (s.send o).posted = s.posted := rfl
@[simp] theorem State.send_jobs (s : State) (o : Out) : (s.send o).jobs = s.jobs := rfl
@[simp] theorem State.send_binds (s : State) (o : Out) : (s.send o).binds = s.binds := rfl
@[simp] theorem State.send_series (s : State) (o : Out) : (s.send o).series = s.series := rfl
@[simp] theorem State.send_sliceAt (s : State) (o : Out) : (s.send o).sliceAt = s.sliceAt := rfl
@[simp] theorem State.send_slicing (s : State) (o : Out) : (s.send o).slicing = s.slicing := rfl
@[simp] theorem State.send_served (s : State) (o : Out) : (s.send o).served = s.served := rfl
@[simp] theorem State.send_submits (s : State) (o : Out) : (s.send o).submits = s.submits := rfl
@[simp] theorem State.send_manage (s : State) (o : Out) : (s.send o).manage = s.manage := rfl
@[simp] theorem State.send_platform (s : State) (o : Out) : (s.send o).platform = s.platform := rfl
@[simp] theorem State.send_agenda (s : State) (o : Out) : (s.send o).agenda = s.agenda := rfl
@[simp] theorem State.send_cur (s : State) (o : Out) : (s.send o).cur = s.cur := rfl
@[simp] theorem State.send_fresh (s : State) (o : Out) : (s.send o).fresh = s.fresh := rfl
@[simp] theorem State.send_issues (s : State) (o : Out) : (s.send o).issues = s.issues := rfl

/-! ### draw -/

@[simp] theorem State.draw_cycle (s : State) : s.draw.2.cycle = s.cycle := rfl
@[simp] theorem State.draw_clock (s : State) : s.draw.2.clock = s.clock := rfl
@[simp] theorem State.draw_mem (s : State) : s.draw.2.mem = s.mem := rfl
@[simp] theorem State.draw_cores (s : State) : s.draw.2.cores = s.cores := rfl
@[simp] theorem State.draw_controls (s : State) : s.draw.2.controls = s.controls := rfl
@[simp] theorem State.draw_dieSpad (s : State) : s.draw.2.dieSpad = s.dieSpad := rfl
@[simp] theorem State.draw_dieCounters (s : State) : s.draw.2.dieCounters = s.dieCounters := rfl
@[simp] theorem State.draw_l2 (s : State) : s.draw.2.l2 = s.l2 := rfl
@[simp] theorem State.draw_homes (s : State) : s.draw.2.homes = s.homes := rfl
@[simp] theorem State.draw_aliasQ (s : State) : s.draw.2.aliasQ = s.aliasQ := rfl
@[simp] theorem State.draw_sectors (s : State) : s.draw.2.sectors = s.sectors := rfl
@[simp] theorem State.draw_warps (s : State) : s.draw.2.warps = s.warps := rfl
@[simp] theorem State.draw_blocks (s : State) : s.draw.2.blocks = s.blocks := rfl
@[simp] theorem State.draw_images (s : State) : s.draw.2.images = s.images := rfl
@[simp] theorem State.draw_shadows (s : State) : s.draw.2.shadows = s.shadows := rfl
@[simp] theorem State.draw_spent (s : State) : s.draw.2.spent = s.spent := rfl
@[simp] theorem State.draw_ctxs (s : State) : s.draw.2.ctxs = s.ctxs := rfl
@[simp] theorem State.draw_inject (s : State) : s.draw.2.inject = s.inject := rfl
@[simp] theorem State.draw_windows (s : State) : s.draw.2.windows = s.windows := rfl
@[simp] theorem State.draw_ordered (s : State) : s.draw.2.ordered = s.ordered := rfl
@[simp] theorem State.draw_ringClock (s : State) : s.draw.2.ringClock = s.ringClock := rfl
@[simp] theorem State.draw_positions (s : State) : s.draw.2.positions = s.positions := rfl
@[simp] theorem State.draw_late (s : State) : s.draw.2.late = s.late := rfl
@[simp] theorem State.draw_hytur (s : State) : s.draw.2.hytur = s.hytur := rfl
@[simp] theorem State.draw_queues (s : State) : s.draw.2.queues = s.queues := rfl
@[simp] theorem State.draw_posted (s : State) : s.draw.2.posted = s.posted := rfl
@[simp] theorem State.draw_jobs (s : State) : s.draw.2.jobs = s.jobs := rfl
@[simp] theorem State.draw_binds (s : State) : s.draw.2.binds = s.binds := rfl
@[simp] theorem State.draw_series (s : State) : s.draw.2.series = s.series := rfl
@[simp] theorem State.draw_manage (s : State) : s.draw.2.manage = s.manage := rfl
@[simp] theorem State.draw_platform (s : State) : s.draw.2.platform = s.platform := rfl
@[simp] theorem State.draw_agenda (s : State) : s.draw.2.agenda = s.agenda := rfl
@[simp] theorem State.draw_cur (s : State) : s.draw.2.cur = s.cur := rfl
@[simp] theorem State.draw_issues (s : State) : s.draw.2.issues = s.issues := rfl
@[simp] theorem State.draw_outbox (s : State) : s.draw.2.outbox = s.outbox := rfl
@[simp] theorem State.draw_number (s : State) : s.draw.1 = s.fresh := rfl
@[simp] theorem State.draw_fresh (s : State) : s.draw.2.fresh = s.fresh + 1 := rfl

/-! ### What an update changes -/

@[simp] theorem State.updHytur_hytur (s : State) (f : Hytur → Hytur) : (s.updHytur f).hytur = f s.hytur := rfl
@[simp] theorem State.updPlatform_platform (s : State) (f : Platform → Platform) : (s.updPlatform f).platform = f s.platform := rfl
@[simp] theorem State.send_outbox (s : State) (o : Out) : (s.send o).outbox = s.outbox ++ [o] := rfl

/-- A written warp is read back. -/
theorem State.warp?_setWarp (s : State) (n k : Nat) (w : Warp) :
    (s.setWarp n w).warp? k = if k = n then some w else s.warp? k := Map.find_set s.warps n k w

/-- A changed warp is read back changed, where it is resident. -/
theorem State.warp?_updWarp (s : State) (n k : Nat) (f : Warp → Warp) :
    (s.updWarp n f).warp? k = if k = n then (s.warp? n).map f else s.warp? k := by
  simp only [State.updWarp, State.warp?, Map.find_modify]

/-- A changed block is read back changed, where it is resident. -/
theorem State.block?_updBlock (s : State) (n k : Nat) (f : Block → Block) :
    (s.updBlock n f).block? k = if k = n then (s.block? n).map f else s.block? k := by
  simp only [State.updBlock, State.block?, Map.find_modify]

/-- A written core is read back. -/
theorem State.core_setCore (s : State) (n k : Nat) (c : Core) :
    (s.setCore n c).core k = if k = n then c else s.core k := by
  simp only [State.setCore, State.core, Map.get_set]

/-- A changed core is read back changed. -/
theorem State.core_updCore (s : State) (n k : Nat) (f : Core → Core) :
    (s.updCore n f).core k = if k = n then f (s.core n) else s.core k := State.core_setCore s n k _

/-- A changed home agent is read back changed. -/
theorem State.home_updHome (s : State) (n k : Nat) (f : Home → Home) :
    (s.updHome n f).home k = if k = n then f (s.home n) else s.home k := by
  simp only [State.updHome, State.home, Map.get_set]

/-- A changed porter queue is read back changed. -/
theorem State.queue_updQueue (s : State) (n k : Nat) (f : Queue → Queue) :
    (s.updQueue n f).queue k = if k = n then f (s.queue n) else s.queue k := by
  simp only [State.updQueue, State.queue, Map.get_set]

end Sys2Proof.Machine
end

