-- ==== Sys2Proof/Laws/Issue.lean ====
section
/-!
SUPPORT. What an issue does around its effect: how it begins (R47, R131), what a completion leaves (R148, R159), and the registers
that `Cx.emit` writes.
-/

namespace Sys2Proof.Machine

/-! ## The relation Calm -/

theorem Calm.refl (s : State) : Calm s s := ⟨fun _ => rfl, fun _ => rfl, rfl⟩

theorem Calm.trans {s t u : State} (h : Calm s t) (k : Calm t u) : Calm s u :=
  ⟨fun n => (k.warps n).trans (h.warps n), fun c => (k.cores c).trans (h.cores c), k.rest.trans h.rest⟩

theorem Calm.updWarp (s : State) (n : Nat) (f : Warp → Warp) (hf : ∀ w, (f w).still = w.still) : Calm s (s.updWarp n f) := by
  refine ⟨fun k => ?_, fun _ => rfl, rfl⟩
  rw [State.warp?_updWarp]
  split
  · subst_vars
    cases h : s.warp? k <;> simp [hf]
  · rfl

theorem Calm.countCore (s : State) (n i : Nat) : Calm s (s.countCore n i) := by
  refine ⟨fun _ => rfl, fun c => ?_, rfl⟩
  show ((s.updCore n _).core c).still = _
  rw [State.core_updCore]
  split
  · subst_vars; rfl
  · rfl

theorem Calm.addCore (s : State) (n i k : Nat) : Calm s (s.addCore n i k) := by
  refine ⟨fun _ => rfl, fun c => ?_, rfl⟩
  show ((s.updCore n _).core c).still = _
  rw [State.core_updCore]
  split
  · subst_vars; rfl
  · rfl

theorem Calm.foldl {α : Type} (g : State → α → State) (hg : ∀ s x, Calm s (g s x)) (l : List α) (s : State) : Calm s (l.foldl g s) := by
  induction l generalizing s with
  | nil => exact Calm.refl s
  | cons x l ih => exact (hg s x).trans (ih _)

theorem Calm.issues (s : State) (n : Nat) : Calm s { s with issues := n } := ⟨fun _ => rfl, fun _ => rfl, rfl⟩

theorem Calm.draw (s : State) : Calm s s.draw.2 := ⟨fun _ => rfl, fun _ => rfl, rfl⟩

theorem Calm.mapErrors (s : State) (f : Locus → Option Locus) : Calm s (s.mapErrors f) := by
  unfold State.mapErrors; split
  · exact Calm.refl s
  · exact ⟨fun _ => rfl, fun _ => rfl, rfl⟩

theorem Calm.correct (s : State) (p : Locus → Bool) : Calm s (s.correct p) := by
  unfold State.correct; split
  · exact Calm.refl s
  · exact ⟨fun _ => rfl, fun _ => rfl, rfl⟩

/-- Registers and presence of warps after a calm change. -/
theorem Calm.warpD {s u : State} (h : Calm s u) (n : Nat) : (u.warpD n).still = (s.warpD n).still := by
  have := h.warps n
  unfold State.warpD
  cases hs : s.warp? n <;> cases hu : u.warp? n <;> simp_all

theorem Calm.isSome {s u : State} (h : Calm s u) (n : Nat) : (u.warp? n).isSome = (s.warp? n).isSome := by
  have := h.warps n
  cases hs : s.warp? n <;> cases hu : u.warp? n <;> simp_all

theorem Calm.v {s u : State} (h : Calm s u) (n : Nat) : (u.warpD n).v = (s.warpD n).v :=
  (congrArg Warp.v (h.warpD n) : (u.warpD n).still.v = (s.warpD n).still.v)
theorem Calm.s {s u : State} (h : Calm s u) (n : Nat) : (u.warpD n).s = (s.warpD n).s :=
  (congrArg Warp.s (h.warpD n) : (u.warpD n).still.s = (s.warpD n).still.s)
theorem Calm.k {s u : State} (h : Calm s u) (n : Nat) : (u.warpD n).k = (s.warpD n).k :=
  (congrArg Warp.k (h.warpD n) : (u.warpD n).still.k = (s.warpD n).still.k)
theorem Calm.live {s u : State} (h : Calm s u) (n : Nat) : (u.warpD n).live = (s.warpD n).live :=
  (congrArg Warp.live (h.warpD n) : (u.warpD n).still.live = (s.warpD n).still.live)

theorem Calm.quiet {s u : State} (h : Calm s u) : Quiet s u := by
  refine ⟨fun n => ?_, h.cores, h.rest⟩
  have e : ∀ w : Warp, w.bare = w.still.bare := fun _ => rfl
  have := congrArg (Option.map Warp.bare) (h.warps n)
  simpa only [Option.map_map, Function.comp_def, ← e] using this

theorem Quiet.trans {s t u : State} (h : Quiet s t) (k : Quiet t u) : Quiet s u :=
  ⟨fun n => (k.warps n).trans (h.warps n), fun c => (k.cores c).trans (h.cores c), k.rest.trans h.rest⟩

theorem Quiet.updWarp (s : State) (n : Nat) (f : Warp → Warp) (hf : ∀ w, (f w).bare = w.bare) : Quiet s (s.updWarp n f) := by
  refine ⟨fun k => ?_, fun _ => rfl, rfl⟩
  rw [State.warp?_updWarp]
  split
  · subst_vars
    cases h : s.warp? k <;> simp [hf]
  · rfl

/-! ## Places of warps -/

@[simp] theorem Warp.still_setPcs (w : Warp) (p : Addr54) (l : List Nat) : (w.setPcs p l).still = w.still := by
  induction l generalizing w with
  | nil => rfl
  | cons i l ih => rw [Warp.setPcs, ih]; rfl

@[simp] theorem Warp.still_complete (w : Warp) (W : Nat) (x : Lanes) (p : Addr54) (n : Nat) : (w.complete W x p n).still = w.still := by
  simp only [Warp.complete, Warp.still_setPcs]; rfl

@[simp] theorem Warp.still_trimPin (w : Warp) : w.trimPin.still = w.still := rfl

@[simp] theorem Warp.still_tickWindows (w : Warp) (W : Nat) (x : Lanes) : (w.tickWindows W x).still = w.still := rfl

theorem Warp.still_foldl {α : Type} (g : Warp → α → Warp) (hg : ∀ w x, (g w x).still = w.still) (l : List α) (w : Warp) :
    (l.foldl g w).still = w.still := by
  induction l generalizing w with
  | nil => rfl
  | cons x l ih => exact (ih _).trans (hg w x)

@[simp] theorem Warp.still_releaseWaits (w : Warp) (W n : Nat) (x : Lanes) (p : Addr54) : (w.releaseWaits W n x p).still = w.still := by
  unfold Warp.releaseWaits
  exact (Warp.still_foldl _ (fun w x => by simp) _ _).trans rfl

theorem Calm.testWaits (s : State) (wid : Nat) : Calm s (s.testWaits wid) := by
  unfold State.testWaits
  refine Calm.foldl _ (fun s n => ?_) _ _
  split
  · exact Calm.refl s
  · dsimp only
    split
    · exact Calm.updWarp _ _ _ fun w => (Warp.still_releaseWaits w _ _ 0 0)
    · exact Calm.refl s

theorem Calm.advance (s : State) (cx : Cx) : Calm s (s.advance cx) :=
  Calm.foldl _ (fun s p => Calm.updWarp s _ _ fun w => by simp) _ _

theorem Calm.settleIssue (s : State) (cx : Cx) : Calm s (s.settleIssue cx) :=
  Calm.foldl _ (fun s p => (Calm.updWarp s _ _ fun w => by simp).trans (Calm.testWaits _ _)) _ _

theorem Calm.countIssue (s : State) (cx : Cx) : Calm s (s.countIssue cx) := by
  unfold State.countIssue
  refine (((((Calm.correct _ _).trans (Calm.countCore _ _ _)).trans (Calm.countCore _ _ _)).trans (Calm.addCore _ _ _ _)).trans (Calm.issues _ _)).trans
    (Calm.foldl _ (fun s p => Calm.updWarp s _ _ fun w => ?_) _ _)
  rfl

/-- A control core's command counter moves only for its own issues of class 13. -/
theorem State.chargeNet_other (s : State) (cx : Cx) (h : cx.op.code / 64 ≠ 13) : s.chargeNet cx = s := by
  simp [State.chargeNet, h]

/-- A completion leaves everything but places (R148, R159). -/
theorem Calm.finish_ok (s t back : State) (cx : Cx) (h : cx.op.code / 64 ≠ 13) : Calm t (s.finish back cx (.ok t)) := by
  show Calm t (((t.chargeNet cx).advance cx).settleIssue cx)
  rw [State.chargeNet_other t cx h]
  exact (Calm.advance t cx).trans (Calm.settleIssue _ cx)

/-! ## How an issue begins -/

theorem mem_members (n i : Nat) (x : DWord) : i ∈ members n x ↔ i < n ∧ inSet x i = true := by simp [members]

theorem inSet_lt {x : DWord} {i : Nat} (h : inSet x i = true) : i < 64 := BitVec.lt_of_getLsbD h

theorem inSet_setOf (L : List Nat) (l : Nat) (hl : l < 64) : inSet (setOf L) l = decide (l ∈ L) := by
  induction L with
  | nil => simp [setOf, inSet]
  | cons i L ih =>
    simp only [setOf, insSet, inSet] at ih ⊢
    rw [BitVec.getLsbD_or, ih]
    by_cases e : l = i
    · subst e; simp [hl]
    · simp [e, hl]
      omega

/-- Every lane of a set is a live lane of a warp. -/
abbrev LiveIn (s : State) (wid : Nat) (lanes : Lanes) : Prop := ∀ l, inSet lanes l = true → inSet (s.warpD wid).live l = true

theorem LiveIn.and {s : State} {wid : Nat} {x : Lanes} (h : LiveIn s wid x) (y : Lanes) : LiveIn s wid (x &&& y) := by
  intro l hl
  refine h l ?_
  simp only [inSet, BitVec.getLsbD_and, Bool.and_eq_true] at hl ⊢
  exact hl.1

theorem LiveIn.lowest {s : State} {wid : Nat} {x : Lanes} (W : Nat) (h : LiveIn s wid x) : LiveIn s wid (lowest W x) := by
  intro l hl
  refine h l ?_
  have hl' := inSet_lt hl
  unfold Sys2Proof.lowest at hl
  cases hm : members W x with
  | nil => simp [hm, inSet] at hl
  | cons i r =>
    rw [hm] at hl
    have : inSet (setOf [i]) l = true := hl
    rw [inSet_setOf _ _ hl', decide_eq_true_eq, List.mem_singleton] at this
    exact this ▸ ((mem_members W i x).1 (hm ▸ List.mem_cons_self ..)).2

theorem LiveIn.selected (s : State) (wid W : Nat) : LiveIn s wid ((s.warpD wid).selected W) := by
  intro l hl
  have hl' := inSet_lt hl
  unfold Warp.selected at hl
  split at hl
  · simp [inSet] at hl
  · rw [Warp.at_, inSet_setOf _ _ hl', decide_eq_true_eq, List.mem_filter, mem_members] at hl
    have := hl.1.2
    simp only [Warp.ready, inSet, BitVec.getLsbD_and, Bool.and_eq_true] at this
    exact this.1

/-- What an issue that begins has: the state with the issue counted, and members that are resident, with live lanes. -/
structure Begun (s : State) (op : Op) (e : Enc) (len : Nat) (cx : Cx) (t : State) : Prop where
  calm : Calm s t
  op : cx.op = op
  e : cx.e = e
  len : cx.len = len
  parts : ∀ p ∈ cx.parts, (s.warp? p.wid).isSome
  live : ∀ p ∈ cx.parts, LiveIn s p.wid p.lanes

theorem State.goWith_go {s : State} {cx cx' : Cx} {back t b : State} (h : s.goWith cx back = .go cx' t b) :
    cx' = cx ∧ t = s.countIssue cx ∧ b = back := by
  unfold State.goWith at h
  dsimp only at h
  split at h
  · cases h
  · split at h
    · cases h
    · cases h
    · split at h
      · cases h; exact ⟨rfl, rfl, rfl⟩
      · cases h

theorem State.fire_go {s : State} {op : Op} {e : Enc} {len wid : Nat} {pc : Addr54} {cx : Cx} {t back : State}
    (h : s.fire op e len wid pc = .go cx t back) : Begun s op e len cx t ∧ cx.pc = pc := by
  unfold State.fire at h
  split at h
  · cases h
  · dsimp only at h
    obtain ⟨rfl, rfl, rfl⟩ := State.goWith_go h
    refine ⟨⟨?_, rfl, rfl, rfl, ?_, ?_⟩, rfl⟩
    · refine Calm.trans (Calm.trans ?_ (Calm.countCore _ _ _)) (Calm.countIssue _ _)
      refine Calm.foldl _ (fun s p => Calm.updWarp s _ _ fun w => ?_) _ _
      rfl
    · intro p hp
      simp only [List.mem_filter, List.mem_filterMap] at hp
      obtain ⟨⟨m, -, hm⟩, -⟩ := hp
      cases hw : back.warp? m.2 with
      | none => simp [hw] at hm
      | some w => simp only [hw, Option.map_some, Option.some.injEq] at hm; subst hm; simp [hw]
    · intro p hp
      simp only [List.mem_filter, List.mem_filterMap] at hp
      obtain ⟨⟨m, -, hm⟩, -⟩ := hp
      cases hw : back.warp? m.2 with
      | none => simp [hw] at hm
      | some w =>
        simp only [hw, Option.map_some, Option.some.injEq] at hm
        subst hm
        intro l hl
        simp only [inSet, BitVec.getLsbD_and, Bool.and_eq_true] at hl
        unfold State.warpD
        simp only [hw, Option.getD_some]
        exact hl.2

theorem State.arrive_go {s : State} {op : Op} {e : Enc} {len wid : Nat} {w : Warp} {b : Block} {pc : Addr54} {x : Lanes} {cx : Cx}
    {t back : State} (h : s.arrive op e len wid w b pc x = .go cx t back) : Begun s op e len cx t ∧ cx.pc = pc := by
  unfold State.arrive at h
  extract_lets sel mem vd bad back park u v at h
  repeat' split at h
  all_goals first
    | (cases h; done)
    | (obtain ⟨hb, hp⟩ := State.fire_go h
       have c : Calm s (v.updWarp wid fun w => { w with parks := w.parks.map fun q => if q = park then { q with lone := true } else q }) :=
         ((Calm.issues s _).trans (Calm.updWarp _ _ _ fun w => by rw [Warp.still_trimPin]; rfl)).trans (Calm.updWarp _ _ _ fun w => rfl)
       exact ⟨⟨c.trans hb.calm, hb.op, hb.e, hb.len, fun p q => (c.isSome p.wid) ▸ hb.parts p q,
         fun p q l hl => (c.live p.wid) ▸ hb.live p q l hl⟩, hp⟩)

theorem State.begin_go {s : State} {op : Op} {e : Enc} {len : Nat} {cx : Cx} {t back : State} (h : s.begin op e len = .go cx t back) :
    Begun s op e len cx t := by
  unfold State.begin at h
  split at h
  · cases h
  · split at h
    · rename_i wid hc _ _ w pc ready hw hn
      have hl : LiveIn s wid (w.selected (s.block w.blk).width) := by
        have h0 := LiveIn.selected s wid (s.block w.blk).width
        rwa [show s.warpD wid = w from by unfold State.warpD; rw [hw]; rfl] at h0
      extract_lets b W lanes alone part at h
      have hp : LiveIn s wid part := by
        show LiveIn s wid (if _ then _ else if _ then _ else _)
        repeat' split
        · exact hl
        · exact hl.lowest W
        · exact hl.and _
      split at h
      · exact (State.fire_go h).1
      iterate 4
        split at h
        · cases h
      split at h
      · split at h
        · cases h
        · exact (State.arrive_go h).1
      obtain ⟨rfl, rfl, rfl⟩ := State.goWith_go h
      refine ⟨?_, rfl, rfl, rfl, ?_, ?_⟩
      · refine Calm.trans (Calm.updWarp _ _ _ fun w => ?_) (Calm.countIssue _ _)
        rfl
      · intro p hq
        obtain rfl := List.mem_singleton.1 hq
        exact hw ▸ rfl
      · intro p hq
        obtain rfl := List.mem_singleton.1 hq
        exact hp
    · cases h

/-! ## The registers that an issue writes -/

theorem Calm.cleanRegs (s : State) (wid : Nat) (ws : List RegWrite) : Calm s (s.cleanRegs wid ws) := Calm.mapErrors s _

theorem State.cleanRegs_warp? (s : State) (wid n : Nat) (ws : List RegWrite) : (s.cleanRegs wid ws).warp? n = s.warp? n := by
  unfold State.cleanRegs State.clearErrors State.mapErrors; split <;> rfl

theorem Warp.bare_vsetLanes (w : Warp) (n : Nat) (l : List (Nat × Word)) : (w.vsetLanes n l).bare = w.bare := by
  induction l generalizing w with
  | nil => rfl
  | cons x l ih => exact (ih _).trans rfl

theorem Warp.bare_write (w : Warp) (W : Nat) (r : RegWrite) : (w.write W r).bare = w.bare := by
  cases r with
  | vec n l => exact Warp.bare_vsetLanes w n _
  | scal n x => rfl
  | mask n b x => rfl

theorem Warp.bare_writeAll (w : Warp) (W : Nat) (rs : List RegWrite) : (w.writeAll W rs).bare = w.bare := by
  induction rs generalizing w with
  | nil => rfl
  | cons r rs ih => exact (ih _).trans (Warp.bare_write w W r)

theorem Warp.bare_drawn (w : Warp) (n : Nat) (l : List Nat) : (w.drawn n l).bare = w.bare := by
  induction l generalizing w with
  | nil => rfl
  | cons i l ih => exact (ih _).trans rfl

theorem Warp.live_of_bare {w x : Warp} (h : w.bare = x.bare) : w.live = x.live :=
  (congrArg Warp.live h : w.bare.live = x.bare.live)

/-- One member's results and draws in its warp. -/
def Cx.partWrites (cx : Cx) (draws : Nat) (F : Part → List RegWrite) (w : Warp) (p : Part) : Warp :=
  if draws = 0 then w.writeAll cx.W (F p) else (w.writeAll cx.W (F p)).drawn draws (cx.lanesOf p)

theorem Cx.bare_partWrites (cx : Cx) (draws : Nat) (F : Part → List RegWrite) (w : Warp) (p : Part) : (cx.partWrites draws F w p).bare = w.bare := by
  unfold Cx.partWrites
  split
  · exact Warp.bare_writeAll _ _ _
  · exact (Warp.bare_drawn _ _ _).trans (Warp.bare_writeAll _ _ _)

/-- The results and draws that the members of an issue leave in one warp. -/
def Cx.writesIn (cx : Cx) (draws : Nat) (F : Part → List RegWrite) (n : Nat) (ps : List Part) (w : Warp) : Warp :=
  (ps.filter fun p => p.wid = n).foldl (cx.partWrites draws F) w

theorem Cx.writesIn_cons (cx : Cx) (draws : Nat) (F : Part → List RegWrite) (n : Nat) (p : Part) (ps : List Part) (w : Warp) :
    cx.writesIn draws F n (p :: ps) w = cx.writesIn draws F n ps (if p.wid = n then cx.partWrites draws F w p else w) := by
  unfold Cx.writesIn
  by_cases h : p.wid = n <;> simp [h]

/-- What every member's writes keep of a warp, all of them keep. -/
theorem Cx.writesIn_keeps {α : Type} (π : Warp → α) (cx : Cx) (draws : Nat) (F : Part → List RegWrite) (n : Nat) (ps : List Part) (w : Warp)
    (h : ∀ p ∈ ps, ∀ w : Warp, p.wid = n → π (cx.partWrites draws F w p) = π w) : π (cx.writesIn draws F n ps w) = π w := by
  induction ps generalizing w with
  | nil => rfl
  | cons p ps ih =>
    rw [Cx.writesIn_cons, ih _ fun q hq => h q (List.mem_cons_of_mem _ hq)]
    split
    · exact h p (List.mem_cons_self ..) w ‹_›
    · rfl

/-- One member's results and draws in the state. -/
def Cx.partStep (cx : Cx) (draws : Nat) (F : Part → List RegWrite) (t : State) (p : Part) : State :=
  let t := (t.updWarp p.wid fun w => w.writeAll cx.W (F p)).cleanRegs p.wid (F p)
  if draws = 0 then t else t.updWarp p.wid fun w => w.drawn draws (cx.lanesOf p)

theorem Cx.partStep_warp? (cx : Cx) (draws : Nat) (F : Part → List RegWrite) (t : State) (p : Part) (n : Nat) :
    (cx.partStep draws F t p).warp? n = (t.warp? n).map fun w => if p.wid = n then cx.partWrites draws F w p else w := by
  unfold Cx.partStep Cx.partWrites
  by_cases h : n = p.wid
  · subst h
    split <;> simp [State.warp?_updWarp, State.cleanRegs_warp?, *, Function.comp_def]
  · have e : (fun (w : Warp) => if p.wid = n then if draws = 0 then w.writeAll cx.W (F p) else (w.writeAll cx.W (F p)).drawn draws (cx.lanesOf p) else w) = id := by
      funext w; exact if_neg fun e => h e.symm
    rw [e]
    split <;> simp [State.warp?_updWarp, State.cleanRegs_warp?, h]

theorem Cx.partStep_quiet (cx : Cx) (draws : Nat) (F : Part → List RegWrite) (t : State) (p : Part) : Quiet t (cx.partStep draws F t p) := by
  unfold Cx.partStep
  have h := (Quiet.updWarp t p.wid _ fun w => Warp.bare_writeAll w cx.W (F p)).trans (Calm.cleanRegs _ p.wid (F p)).quiet
  dsimp only
  split
  · exact h
  · exact h.trans (Quiet.updWarp _ p.wid _ fun w => Warp.bare_drawn w _ _)

theorem Cx.steps_warp? (cx : Cx) (draws : Nat) (F : Part → List RegWrite) (ps : List Part) (t : State) (n : Nat) :
    (ps.foldl (cx.partStep draws F) t).warp? n = (t.warp? n).map (cx.writesIn draws F n ps) := by
  induction ps generalizing t with
  | nil => cases h : t.warp? n <;> simp [Cx.writesIn, h]
  | cons p ps ih =>
    rw [List.foldl_cons, ih, Cx.partStep_warp?]
    cases t.warp? n <;> simp [Cx.writesIn_cons]

theorem Cx.steps_quiet (cx : Cx) (draws : Nat) (F : Part → List RegWrite) (ps : List Part) (t : State) :
    Quiet t (ps.foldl (cx.partStep draws F) t) := by
  induction ps generalizing t with
  | nil => exact (Calm.refl t).quiet
  | cons p ps ih => exact (Cx.partStep_quiet cx draws F t p).trans (ih _)

theorem foldl_same {α β : Type} (g h : β → α → β) (l : List α) (x : β) (e : ∀ y, ∀ a ∈ l, g y a = h y a) : l.foldl g x = l.foldl h x := by
  induction l generalizing x with
  | nil => rfl
  | cons a l ih =>
    rw [List.foldl_cons, List.foldl_cons, e x a (List.mem_cons_self ..)]
    exact ih _ fun y b hb => e y b (List.mem_cons_of_mem _ hb)

/-- The results of an instruction that is not long-latency. -/
theorem Cx.emit_quick (cx : Cx) (s : State) (draws : Nat) (f : Part → Warp → List RegWrite) (F : Part → List RegWrite) (h : longLatency cx.op = false)
    (hf : ∀ p ∈ cx.parts, f p (s.warpD p.wid) = F p) : cx.emit s draws f = cx.parts.foldl (cx.partStep draws F) s := by
  unfold Cx.emit
  refine foldl_same _ _ _ _ fun t p hp => ?_
  simp [Cx.deliver, h, hf p hp, Cx.partStep]

/-! ## Reading back what is written -/

theorem Warp.vget_vsetLanes (w : Warp) (n r l : Nat) (hl : l < 64) (g : Nat → Word) (L : List Nat) (hL : ∀ i ∈ L, i < 64) :
    (w.vsetLanes n (L.map fun i => (i, g i))).vget r l = if r = n ∧ l ∈ L then g l else w.vget r l := by
  induction L generalizing w with
  | nil => simp [Warp.vsetLanes]
  | cons i L ih =>
    rw [List.map_cons, Warp.vsetLanes, ih _ fun j hj => hL j (List.mem_cons_of_mem _ hj)]
    have hi : i < 64 := hL i (List.mem_cons_self ..)
    simp only [Warp.vset, Warp.vget, Map.get_put, List.mem_cons]
    by_cases hr : r = n
    · by_cases hm : l ∈ L
      · simp [hr, hm]
      · by_cases e : l = i <;> simp [hr, hm, e]
    · have : ¬ 64 * r + l = 64 * n + i := by omega
      simp [hr, this]

@[simp] theorem Warp.s_vsetLanes (w : Warp) (n : Nat) (l : List (Nat × Word)) : (w.vsetLanes n l).s = w.s := by
  induction l generalizing w with
  | nil => rfl
  | cons x l ih => exact (ih _).trans rfl

@[simp] theorem Warp.k_vsetLanes (w : Warp) (n : Nat) (l : List (Nat × Word)) : (w.vsetLanes n l).k = w.k := by
  induction l generalizing w with
  | nil => rfl
  | cons x l ih => exact (ih _).trans rfl

@[simp] theorem Warp.draw_vsetLanes (w : Warp) (n : Nat) (l : List (Nat × Word)) : (w.vsetLanes n l).draw = w.draw := by
  induction l generalizing w with
  | nil => rfl
  | cons x l ih => exact (ih _).trans rfl

@[simp] theorem Warp.draw_write (w : Warp) (W : Nat) (r : RegWrite) : (w.write W r).draw = w.draw := by
  cases r <;> simp [Warp.write, Warp.sset, Warp.kset]

@[simp] theorem Warp.draw_writeAll (w : Warp) (W : Nat) (rs : List RegWrite) : (w.writeAll W rs).draw = w.draw := by
  induction rs generalizing w with
  | nil => rfl
  | cons r rs ih => exact (ih _).trans (Warp.draw_write w W r)

@[simp] theorem Warp.vget_drawn (w : Warp) (n : Nat) (l : List Nat) (r i : Nat) : (w.drawn n l).vget r i = w.vget r i := by
  induction l generalizing w with
  | nil => rfl
  | cons x l ih => exact (ih _).trans rfl

@[simp] theorem Warp.sget_drawn (w : Warp) (n : Nat) (l : List Nat) (r : Nat) : (w.drawn n l).sget r = w.sget r := by
  induction l generalizing w with
  | nil => rfl
  | cons x l ih => exact (ih _).trans rfl

@[simp] theorem Warp.kget_drawn (w : Warp) (n : Nat) (l : List Nat) (r : Nat) : (w.drawn n l).kget r = w.kget r := by
  induction l generalizing w with
  | nil => rfl
  | cons x l ih => exact (ih _).trans rfl

/-- Draws of a list of distinct lanes. -/
theorem Warp.draw_drawn (w : Warp) (n : Nat) (L : List Nat) (hL : L.Nodup) (l : Nat) :
    (w.drawn n L).draw.get 0 l = w.draw.get 0 l + (if l ∈ L then BitVec.ofNat 32 n else 0) := by
  induction L generalizing w with
  | nil => simp [Warp.drawn]
  | cons i L ih =>
    obtain ⟨h1, h2⟩ := List.nodup_cons.1 hL
    rw [Warp.drawn, ih _ h2]
    simp only [Map.get_put, List.mem_cons]
    by_cases e : l = i
    · subst e; simp [h1]
    · simp [e]

theorem members_nodup (n : Nat) (x : DWord) : (members n x).Nodup := List.nodup_range.sublist List.filter_sublist

/-- One member's lanes of one vector register. -/
theorem Warp.vget_lanesWrite (cx : Cx) (p : Part) (w : Warp) (d r l : Nat) (hl : l < 64) (g : Nat → Word) :
    (w.write cx.W (cx.lanesWrite p d g)).vget r l
      = if r = d ∧ l < cx.W ∧ inSet p.lanes l = true then g l else w.vget r l := by
  unfold Warp.write Cx.lanesWrite
  dsimp only
  rw [Warp.vget_vsetLanes _ _ _ _ hl]
  · simp only [Cx.lanesOf, mem_members]
  · intro i hi
    simp only [Cx.lanesOf, mem_members] at hi
    exact inSet_lt hi.2

/-- Writes of consecutive vector registers of one member's lanes. -/
def Cx.regWrites (cx : Cx) (p : Part) (d : Nat) (g : Nat → Nat → Word) (L : List Nat) : List RegWrite := L.map fun i => cx.lanesWrite p (d + i) fun l => g l i

theorem Warp.vget_regWrites (cx : Cx) (p : Part) (w : Warp) (d r l : Nat) (hl : l < 64) (g : Nat → Nat → Word) (L : List Nat) :
    (w.writeAll cx.W (cx.regWrites p d g L)).vget r l
      = if (d ≤ r ∧ r - d ∈ L) ∧ l < cx.W ∧ inSet p.lanes l = true then g l (r - d) else w.vget r l := by
  induction L generalizing w with
  | nil => simp [Cx.regWrites, Warp.writeAll]
  | cons i L ih =>
    show ((w.write cx.W (cx.lanesWrite p (d + i) fun l => g l i)).writeAll cx.W (cx.regWrites p d g L)).vget r l = _
    rw [ih, Warp.vget_lanesWrite cx p w _ _ _ hl]
    have e : r = d + i ↔ d ≤ r ∧ r - d = i := by omega
    simp only [List.mem_cons, e]
    by_cases h1 : d ≤ r
    · by_cases h2 : r - d = i
      · subst h2
        by_cases h4 : l < cx.W ∧ inSet p.lanes l = true <;> simp [h1, h4]
      · simp [h1, h2]
    · simp [h1]

theorem Warp.s_regWrites (cx : Cx) (p : Part) (w : Warp) (d : Nat) (g : Nat → Nat → Word) (L : List Nat) :
    (w.writeAll cx.W (cx.regWrites p d g L)).s = w.s := by
  induction L generalizing w with
  | nil => rfl
  | cons i L ih => exact (ih _).trans (by simp [Warp.write, Cx.lanesWrite])

theorem Warp.k_regWrites (cx : Cx) (p : Part) (w : Warp) (d : Nat) (g : Nat → Nat → Word) (L : List Nat) :
    (w.writeAll cx.W (cx.regWrites p d g L)).k = w.k := by
  induction L generalizing w with
  | nil => rfl
  | cons i L ih => exact (ih _).trans (by simp [Warp.write, Cx.lanesWrite])

/-- Several members' lanes of consecutive vector registers of a warp. -/
theorem Cx.vget_writesIn (cx : Cx) (draws n d m : Nat) (F : Part → List RegWrite) (G : Nat → Nat → Word) (ps : List Part) (w : Warp)
    (hF : ∀ p ∈ ps, p.wid = n → F p = cx.regWrites p d G (List.range m)) (r l : Nat) (hl : l < 64) :
    (cx.writesIn draws F n ps w).vget r l
      = if (d ≤ r ∧ r < d + m) ∧ l < cx.W ∧ (ps.any fun p => p.wid = n && inSet p.lanes l) = true then G l (r - d) else w.vget r l := by
  induction ps generalizing w with
  | nil => simp [Cx.writesIn]
  | cons p ps ih =>
    rw [Cx.writesIn_cons]
    by_cases hp : p.wid = n
    · rw [if_pos hp, ih _ fun q hq => hF q (List.mem_cons_of_mem _ hq)]
      have h1 : (cx.partWrites draws F w p).vget r l = (w.writeAll cx.W (F p)).vget r l := by
        unfold Cx.partWrites; split <;> simp
      rw [h1, hF p (List.mem_cons_self ..) hp, Warp.vget_regWrites cx p w d r l hl]
      have e : (d ≤ r ∧ r - d ∈ List.range m) ↔ (d ≤ r ∧ r < d + m) := by simp only [List.mem_range]; omega
      simp only [e, List.any_cons, hp, decide_true, Bool.true_and, Bool.or_eq_true]
      generalize (ps.any fun p => p.wid = n && inSet p.lanes l) = B
      generalize inSet p.lanes l = C
      by_cases h1 : d ≤ r ∧ r < d + m <;> by_cases h2 : l < cx.W <;> cases B <;> cases C <;> simp [h1, h2]
    · rw [if_neg hp, ih _ fun q hq => hF q (List.mem_cons_of_mem _ hq)]
      simp [hp]

/-- Several members' draws of a warp. -/
theorem Cx.draw_writesIn (cx : Cx) (draws n : Nat) (F : Part → List RegWrite) (ps : List Part) (w : Warp) (l : Nat) :
    (cx.writesIn draws F n ps w).draw.get 0 l
      = w.draw.get 0 l + BitVec.ofNat 32 (draws * (ps.filter fun p => p.wid = n && l < cx.W && inSet p.lanes l).length) := by
  induction ps generalizing w with
  | nil => simp [Cx.writesIn]
  | cons p ps ih =>
    rw [Cx.writesIn_cons, ih]
    by_cases hp : p.wid = n
    · rw [if_pos hp]
      have h1 : (cx.partWrites draws F w p).draw.get 0 l = w.draw.get 0 l + (if l < cx.W ∧ inSet p.lanes l = true then BitVec.ofNat 32 draws else 0) := by
        unfold Cx.partWrites
        split
        · rename_i h; subst h; simp
        · rw [Warp.draw_drawn _ _ (cx.lanesOf p) (members_nodup _ _), Warp.draw_writeAll]
          simp only [Cx.lanesOf, mem_members]
      rw [h1]
      by_cases h : l < cx.W ∧ inSet p.lanes l = true
      · simp only [h, hp, and_self, decide_true, Bool.and_self, if_true, List.filter_cons_of_pos, List.length_cons, Nat.mul_add, Nat.mul_one, BitVec.ofNat_add]
        rw [BitVec.add_assoc]
        congr 1
        exact BitVec.add_comm _ _
      · have : (decide (p.wid = n) && decide (l < cx.W) && inSet p.lanes l) = false := by
          simp only [hp, decide_true, Bool.true_and]
          simpa using h
        rw [if_neg h, List.filter_cons_of_neg (by simp [this])]
        simp
    · rw [if_neg hp]
      simp [hp]

/-- One scalar register of a warp, by the same value from every member. -/
theorem Cx.sget_writesIn (cx : Cx) (n d : Nat) (F : Part → List RegWrite) (x : DWord) (ps : List Part) (w : Warp)
    (hF : ∀ p ∈ ps, p.wid = n → F p = [.scal d x]) (r : Nat) :
    (cx.writesIn 0 F n ps w).sget r = if r = d ∧ (ps.any fun p => p.wid = n) = true then x else w.sget r := by
  induction ps generalizing w with
  | nil => simp [Cx.writesIn]
  | cons p ps ih =>
    rw [Cx.writesIn_cons]
    by_cases hp : p.wid = n
    · rw [if_pos hp, ih _ fun q hq => hF q (List.mem_cons_of_mem _ hq)]
      simp only [Cx.partWrites, if_true]
      rw [hF p (List.mem_cons_self ..) hp]
      simp only [Warp.writeAll, Warp.write, Warp.sset, Warp.sget, Map.get_put, List.any_cons, hp, decide_true, Bool.true_or]
      by_cases h1 : r = d <;> simp [h1]
    · rw [if_neg hp, ih _ fun q hq => hF q (List.mem_cons_of_mem _ hq)]
      simp [hp]

theorem inSet_allSet (n l : Nat) (hl : l < 64) : inSet (allSet n) l = decide (l < n) := by
  simp only [inSet, allSet, BitVec.getLsbD_ofNat, hl, decide_true, Bool.true_and, Nat.testBit_two_pow_sub_one]

/-- One member's bits of a mask register. -/
theorem Warp.kget_maskWrite (w : Warp) (W : Nat) (ls x : Lanes) (d r l : Nat) (hl : l < 64) :
    inSet ((w.write W (.mask d ls x)).kget r) l
      = if r = d then (decide (l < W) && if inSet w.live l = true ∧ inSet ls l = true then inSet x l else inSet (w.kget r) l) else inSet (w.kget r) l := by
  simp only [Warp.write, Warp.kset, Warp.kget, Map.get_put]
  by_cases h1 : r = d
  · subst h1
    have e2 := inSet_allSet W l hl
    simp only [if_true, mergeBits]
    unfold inSet at e2 ⊢
    simp only [BitVec.getLsbD_and, BitVec.getLsbD_or, BitVec.getLsbD_not, e2, hl, decide_true, Bool.true_and]
    generalize ls.getLsbD l = A
    generalize w.live.getLsbD l = B
    cases A <;> cases B <;> by_cases a : l < W <;> simp [a]
  · simp [h1]

/-- The bits that `Cx.maskWrite` gives. -/
theorem Cx.inSet_maskWrite (cx : Cx) (p : Part) (G : Nat → Bool) (l : Nat) (hW : l < cx.W) (h : inSet p.lanes l = true) :
    inSet (setOf ((cx.lanesOf p).filter G)) l = G l := by
  rw [inSet_setOf _ _ (inSet_lt h)]
  simp [List.mem_filter, Cx.lanesOf, mem_members, hW, h]

/-- What the members of an issue write into a mask register: each its lanes' bits, by the same rule in a warp. -/
abbrev Cx.MaskWrites (cx : Cx) (n d : Nat) (F : Part → List RegWrite) (G : Nat → Bool) (ps : List Part) : Prop :=
  ∀ p ∈ ps, p.wid = n → ∃ x, F p = [.mask d p.lanes x] ∧ ∀ l, l < cx.W → inSet p.lanes l = true → inSet x l = G l

/-- Several members' bits of a mask register of a warp. -/
theorem Cx.kget_writesIn (cx : Cx) (n d : Nat) (F : Part → List RegWrite) (G : Nat → Bool) (ps : List Part) (w : Warp)
    (hF : cx.MaskWrites n d F G ps) (r l : Nat) (hl : l < 64) (hW : l < cx.W) :
    inSet ((cx.writesIn 0 F n ps w).kget r) l
      = if r = d ∧ inSet w.live l = true ∧ (ps.any fun p => p.wid = n && inSet p.lanes l) = true then G l else inSet (w.kget r) l := by
  induction ps generalizing w with
  | nil => simp [Cx.writesIn]
  | cons p ps ih =>
    rw [Cx.writesIn_cons]
    by_cases hp : p.wid = n
    · rw [if_pos hp, ih _ fun q hq => hF q (List.mem_cons_of_mem _ hq)]
      rw [Warp.live_of_bare (Cx.bare_partWrites cx 0 F w p)]
      obtain ⟨x, hx, hG⟩ := hF p (List.mem_cons_self ..) hp
      simp only [Cx.partWrites, if_true]
      rw [hx]
      show (if _ then _ else inSet ((w.write cx.W (.mask d p.lanes x)).kget r) l) = _
      rw [Warp.kget_maskWrite w cx.W p.lanes x d r l hl]
      simp only [hW, decide_true, Bool.true_and, List.any_cons, hp, Bool.or_eq_true]
      by_cases hc : inSet p.lanes l = true
      · rw [hG l hW hc]
        generalize (ps.any fun p => p.wid = n && inSet p.lanes l) = B
        generalize inSet w.live l = D
        by_cases h1 : r = d <;> cases B <;> cases D <;> simp [h1, hc]
      · simp [hc]
    · rw [if_neg hp, ih _ fun q hq => hF q (List.mem_cons_of_mem _ hq)]
      simp [hp]

/-! ## Completions of instructions that write registers -/

/-- The warps after an issue that writes registers and completes. -/
theorem finish_emit (s t back : State) (op : Op) (e : Enc) (len : Nat) (cx : Cx) (draws : Nat) (F : Part → List RegWrite) (f : Part → Warp → List RegWrite)
    (hb : Begun s op e len cx t) (hl : longLatency cx.op = false) (h13 : cx.op.code / 64 ≠ 13)
    (hf : ∀ p ∈ cx.parts, f p (t.warpD p.wid) = F p) :
    Quiet s (t.finish back cx (.ok (cx.emit t draws f))) ∧
      ∀ n, ∃ w, w.still = (s.warpD n).still ∧
        ((t.finish back cx (.ok (cx.emit t draws f))).warpD n).still = (if (s.warp? n).isSome then cx.writesIn draws F n cx.parts w else w).still := by
  rw [Cx.emit_quick cx t draws f F hl hf]
  refine ⟨(hb.calm.quiet.trans (Cx.steps_quiet cx draws F cx.parts t)).trans (Calm.finish_ok _ _ _ _ h13).quiet, fun n => ⟨t.warpD n, hb.calm.warpD n, ?_⟩⟩
  rw [(Calm.finish_ok t (cx.parts.foldl (cx.partStep draws F) t) back cx h13).warpD n]
  unfold State.warpD
  rw [Cx.steps_warp?, ← hb.calm.isSome n]
  cases t.warp? n <;> simp

theorem Cx.takes_iff (cx : Cx) (s : State) (n l : Nat) : cx.takes s n l = true ↔
    l < 64 ∧ l < cx.W ∧ inSet (s.warpD n).live l = true ∧ (cx.parts.any fun p => p.wid = n && inSet p.lanes l) = true := by
  simp [Cx.takes, and_assoc]

theorem Cx.takes_some (cx : Cx) (s : State) (n l : Nat) (h : cx.takes s n l = true) : (s.warp? n).isSome := by
  obtain ⟨-, -, h, -⟩ := (cx.takes_iff s n l).1 h
  unfold State.warpD at h
  cases hw : s.warp? n with
  | none => rw [hw] at h; simp [inSet] at h
  | some w => rfl

theorem Warp.v_of_still {w x : Warp} (h : w.still = x.still) : w.v = x.v := (congrArg Warp.v h : w.still.v = x.still.v)
theorem Warp.s_of_still {w x : Warp} (h : w.still = x.still) : w.s = x.s := (congrArg Warp.s h : w.still.s = x.still.s)
theorem Warp.k_of_still {w x : Warp} (h : w.still = x.still) : w.k = x.k := (congrArg Warp.k h : w.still.k = x.still.k)
theorem Warp.live_of_still {w x : Warp} (h : w.still = x.still) : w.live = x.live := (congrArg Warp.live h : w.still.live = x.still.live)
theorem Warp.draw_of_still {w x : Warp} (h : w.still = x.still) : w.draw = x.draw := (congrArg Warp.draw h : w.still.draw = x.still.draw)

theorem Warp.s_partWrites (cx : Cx) (draws : Nat) (F : Part → List RegWrite) (w : Warp) (p : Part) (r : Nat) :
    (cx.partWrites draws F w p).sget r = (w.writeAll cx.W (F p)).sget r := by
  unfold Cx.partWrites; split <;> simp

theorem Warp.k_partWrites (cx : Cx) (draws : Nat) (F : Part → List RegWrite) (w : Warp) (p : Part) (r : Nat) :
    (cx.partWrites draws F w p).kget r = (w.writeAll cx.W (F p)).kget r := by
  unfold Cx.partWrites; split <;> simp

/-- The lanes of an issue that begins are live. -/
theorem Begun.takes_iff {s t : State} {op : Op} {e : Enc} {len : Nat} {cx : Cx} (h : Begun s op e len cx t) (n l : Nat) : cx.takes s n l = true ↔
    l < 64 ∧ l < cx.W ∧ (cx.parts.any fun p => p.wid = n && inSet p.lanes l) = true := by
  rw [cx.takes_iff]
  refine ⟨fun ⟨a, b, _, d⟩ => ⟨a, b, d⟩, fun ⟨a, b, d⟩ => ⟨a, b, ?_, d⟩⟩
  simp only [List.any_eq_true, Bool.and_eq_true, decide_eq_true_eq] at d
  obtain ⟨p, hp, rfl, hl⟩ := d
  exact h.live p hp l hl

/-- An instruction that writes vector registers of its lanes. -/
theorem LanesDone.of (s t back : State) (op : Op) (e : Enc) (len : Nat) (cx : Cx) (d m draws : Nat) (f : Part → Warp → List RegWrite) (g : Warp → Nat → Nat → Word)
    (hb : Begun s op e len cx t) (hl : longLatency cx.op = false) (h13 : cx.op.code / 64 ≠ 13)
    (hf : ∀ p ∈ cx.parts, f p (t.warpD p.wid) = cx.regWrites p d (g (s.warpD p.wid)) (List.range m)) :
    LanesDone cx s (t.finish back cx (.ok (cx.emit t draws f))) d m draws g := by
  obtain ⟨hq, hw⟩ := finish_emit s t back op e len cx draws (fun p => cx.regWrites p d (g (s.warpD p.wid)) (List.range m)) f hb hl h13 hf
  generalize t.finish back cx (.ok (cx.emit t draws f)) = u at hq hw
  have key : ∀ n r l, l < 64 → (u.warpD n).vget r l = if (d ≤ r ∧ r < d + m) ∧ cx.takes s n l = true then g (s.warpD n) l (r - d) else (s.warpD n).vget r l := by
    intro n r l hl
    obtain ⟨w, hs, hu⟩ := hw n
    have h0 := Cx.vget_writesIn cx draws n d m (fun p => cx.regWrites p d (g (s.warpD p.wid)) (List.range m)) (g (s.warpD n)) cx.parts w
      (fun p _ hp => by simp only [hp]) r l hl
    have hv := Warp.v_of_still hu
    unfold Warp.vget at h0 ⊢
    rw [hv]
    by_cases hsome : (s.warp? n).isSome
    · rw [if_pos hsome, h0, Warp.v_of_still hs]
      simp only [hb.takes_iff, hl, true_and]
    · have : ¬ cx.takes s n l = true := fun h => hsome (Cx.takes_some cx s n l h)
      rw [if_neg hsome, Warp.v_of_still hs, if_neg fun h => this h.2]
  refine ⟨fun n l i hi h => ?_, fun n r l hl h => ?_, fun n r => ?_, fun n r => ?_, fun n l hl hsome => ?_, hq⟩
  · rw [key n (d + i) l ((cx.takes_iff s n l).1 h).1, if_pos ⟨by omega, h⟩, Nat.add_sub_cancel_left]
  · rw [key n r l hl, if_neg fun h' => by simp [h h'.1.1 h'.1.2] at h']
  · obtain ⟨w, hs, hu⟩ := hw n
    have h0 := Cx.writesIn_keeps (fun w => w.sget r) cx draws (fun p => cx.regWrites p d (g (s.warpD p.wid)) (List.range m)) n cx.parts w fun p _ w _ => by
      simp only [Warp.s_partWrites]; unfold Warp.sget; rw [Warp.s_regWrites]
    have hv := Warp.s_of_still hu
    unfold Warp.sget at h0 ⊢
    rw [hv, ← Warp.s_of_still hs]
    split
    · exact h0
    · rfl
  · obtain ⟨w, hs, hu⟩ := hw n
    have h0 := Cx.writesIn_keeps (fun w => w.kget r) cx draws (fun p => cx.regWrites p d (g (s.warpD p.wid)) (List.range m)) n cx.parts w fun p _ w _ => by
      simp only [Warp.k_partWrites]; unfold Warp.kget; rw [Warp.k_regWrites]
    have hv := Warp.k_of_still hu
    unfold Warp.kget at h0 ⊢
    rw [hv, ← Warp.k_of_still hs]
    split
    · exact h0
    · rfl
  · obtain ⟨w, hs, hu⟩ := hw n
    rw [Warp.draw_of_still hu, if_pos hsome, Cx.draw_writesIn, Warp.draw_of_still hs]
    rfl

/-- An instruction that writes one scalar register of its members. -/
theorem ScalDone.of (s t back : State) (op : Op) (e : Enc) (len : Nat) (cx : Cx) (d : Nat) (f : Part → Warp → List RegWrite) (g : Warp → DWord)
    (hb : Begun s op e len cx t) (hl : longLatency cx.op = false) (h13 : cx.op.code / 64 ≠ 13)
    (hf : ∀ p ∈ cx.parts, f p (t.warpD p.wid) = [.scal d (g (s.warpD p.wid))]) :
    ScalDone cx s (t.finish back cx (.ok (cx.emit t 0 f))) d g := by
  obtain ⟨hq, hw⟩ := finish_emit s t back op e len cx 0 (fun p => [.scal d (g (s.warpD p.wid))]) f hb hl h13 hf
  generalize t.finish back cx (.ok (cx.emit t 0 f)) = u at hq hw
  have key : ∀ n r, (u.warpD n).sget r = if r = d ∧ cx.member n = true ∧ (s.warp? n).isSome then g (s.warpD n) else (s.warpD n).sget r := by
    intro n r
    obtain ⟨w, hs, hu⟩ := hw n
    have h0 := Cx.sget_writesIn cx n d (fun p => [.scal d (g (s.warpD p.wid))]) (g (s.warpD n)) cx.parts w (fun p _ hp => by simp only [hp]) r
    have hv := Warp.s_of_still hu
    unfold Warp.sget at h0 ⊢
    rw [hv]
    by_cases hsome : (s.warp? n).isSome
    · rw [if_pos hsome, h0, Warp.s_of_still hs]
      simp only [Cx.member, hsome, and_true]
    · rw [if_neg hsome, Warp.s_of_still hs, if_neg fun h => hsome h.2.2]
  refine ⟨fun n h h' => ?_, fun n r h => ?_, fun n r l => ?_, fun n r => ?_, fun n => ?_, hq⟩
  · rw [key n d, if_pos ⟨rfl, h, h'⟩]
  · rw [key n r, if_neg fun h' => by simp [h h'.1] at h']
  all_goals obtain ⟨w, hs, hu⟩ := hw n
  · have h0 := Cx.writesIn_keeps (fun w => w.v) cx 0 (fun p => [.scal d (g (s.warpD p.wid))]) n cx.parts w fun p _ w _ => rfl
    unfold Warp.vget
    rw [Warp.v_of_still hu, ← Warp.v_of_still hs]
    split
    · rw [h0]
    · rfl
  · have h0 := Cx.writesIn_keeps (fun w => w.k) cx 0 (fun p => [.scal d (g (s.warpD p.wid))]) n cx.parts w fun p _ w _ => rfl
    unfold Warp.kget
    rw [Warp.k_of_still hu, ← Warp.k_of_still hs]
    split
    · rw [h0]
    · rfl
  · have h0 := Cx.writesIn_keeps (fun w => w.draw) cx 0 (fun p => [.scal d (g (s.warpD p.wid))]) n cx.parts w fun p _ w _ => rfl
    rw [Warp.draw_of_still hu, ← Warp.draw_of_still hs]
    split
    · exact h0
    · rfl

/-- An instruction that writes bits of one mask register. -/
theorem MaskDone.of (s t back : State) (op : Op) (e : Enc) (len : Nat) (cx : Cx) (d : Nat) (f : Part → Warp → List RegWrite) (g : Warp → Nat → Bool)
    (hb : Begun s op e len cx t) (hl : longLatency cx.op = false) (h13 : cx.op.code / 64 ≠ 13)
    (F : Part → List RegWrite) (hf : ∀ p ∈ cx.parts, f p (t.warpD p.wid) = F p) (hF : ∀ n, cx.MaskWrites n d F (g (s.warpD n)) cx.parts) :
    MaskDone cx s (t.finish back cx (.ok (cx.emit t 0 f))) d g := by
  obtain ⟨hq, hw⟩ := finish_emit s t back op e len cx 0 F f hb hl h13 hf
  generalize t.finish back cx (.ok (cx.emit t 0 f)) = u at hq hw
  have key : ∀ n r l, l < 64 → l < cx.W → inSet ((u.warpD n).kget r) l = if r = d ∧ cx.takes s n l = true then g (s.warpD n) l else inSet ((s.warpD n).kget r) l := by
    intro n r l hl hW
    obtain ⟨w, hs, hu⟩ := hw n
    have h0 := Cx.kget_writesIn cx n d F (g (s.warpD n)) cx.parts w (hF n) r l hl hW
    have hv := Warp.k_of_still hu
    unfold Warp.kget at h0 ⊢
    rw [hv]
    by_cases hsome : (s.warp? n).isSome
    · rw [if_pos hsome, h0, Warp.k_of_still hs, Warp.live_of_still hs]
      simp only [Cx.takes_iff, hl, hW, true_and]
    · have : ¬ cx.takes s n l = true := fun h => hsome (Cx.takes_some cx s n l h)
      rw [if_neg hsome, Warp.k_of_still hs, if_neg fun h => this h.2]
  refine ⟨fun n l h => ?_, fun n l hW hl h => ?_, fun n r h => ?_, fun n r l => ?_, fun n r => ?_, fun n => ?_, hq⟩
  · obtain ⟨a, b, -⟩ := (cx.takes_iff s n l).1 h
    rw [key n d l a b, if_pos ⟨rfl, h⟩]
  · rw [key n d l hl hW, if_neg fun h' => by simp [h] at h']
  all_goals obtain ⟨w, hs, hu⟩ := hw n
  · have h0 := Cx.writesIn_keeps (fun w => w.kget r) cx 0 F n cx.parts w fun p hp w e => by
      obtain ⟨x, hx, -⟩ := hF n p hp e
      have : r ≠ d := fun e' => by
        have := h e'
        simp only [Cx.member, List.any_eq_false, decide_eq_true_eq] at this
        exact this p hp e
      simp [Cx.partWrites, hx, Warp.writeAll, Warp.write, Warp.kset, Warp.kget, Map.get_put, this]
    unfold Warp.kget at h0 ⊢
    rw [Warp.k_of_still hu, ← Warp.k_of_still hs]
    split
    · exact h0
    · rfl
  · have h0 := Cx.writesIn_keeps (fun w => w.v) cx 0 F n cx.parts w fun p hp w e => by
      obtain ⟨x, hx, -⟩ := hF n p hp e
      simp only [Cx.partWrites, hx]; rfl
    unfold Warp.vget
    rw [Warp.v_of_still hu, ← Warp.v_of_still hs]
    split
    · rw [h0]
    · rfl
  · have h0 := Cx.writesIn_keeps (fun w => w.s) cx 0 F n cx.parts w fun p hp w e => by
      obtain ⟨x, hx, -⟩ := hF n p hp e
      simp only [Cx.partWrites, hx]; rfl
    unfold Warp.sget
    rw [Warp.s_of_still hu, ← Warp.s_of_still hs]
    split
    · rw [h0]
    · rfl
  · have h0 := Cx.writesIn_keeps (fun w => w.draw) cx 0 F n cx.parts w fun p hp w e => by
      obtain ⟨x, hx, -⟩ := hF n p hp e
      simp only [Cx.partWrites, hx]; rfl
    rw [Warp.draw_of_still hu, ← Warp.draw_of_still hs]
    split
    · exact h0
    · rfl

/-! ## Windows -/

/-- What no change of a warp's place changes. -/
abbrev PlaceFree {α : Type} (π : Warp → α) : Prop :=
  ∀ (w : Warp) pcs pin parks loops lclk, π { w with pcs := pcs, pin := pin, parks := parks, loops := loops, lclk := lclk } = π w

theorem PlaceFree.setPcs {α : Type} {π : Warp → α} (h : PlaceFree π) (w : Warp) (p : Addr54) (l : List Nat) : π (w.setPcs p l) = π w := by
  induction l generalizing w with
  | nil => rfl
  | cons i l ih => exact (ih _).trans (h w _ w.pin w.parks w.loops w.lclk)

theorem PlaceFree.complete {α : Type} {π : Warp → α} (h : PlaceFree π) (w : Warp) (W : Nat) (x : Lanes) (p : Addr54) (n : Nat) :
    π (w.complete W x p n) = π w := by
  unfold Warp.complete
  exact (h.setPcs _ _ _).trans (h w w.pcs w.pin w.parks _ w.lclk)

theorem PlaceFree.foldl {α β : Type} {π : Warp → α} (g : Warp → β → Warp) (hg : ∀ w x, π (g w x) = π w) (l : List β) (w : Warp) :
    π (l.foldl g w) = π w := by
  induction l generalizing w with
  | nil => rfl
  | cons x l ih => exact (ih _).trans (hg w x)

theorem PlaceFree.releaseWaits {α : Type} {π : Warp → α} (h : PlaceFree π) (w : Warp) (W n : Nat) (x : Lanes) (p : Addr54) :
    π (w.releaseWaits W n x p) = π w := by
  unfold Warp.releaseWaits
  exact (PlaceFree.foldl _ (fun w x => h.complete w _ _ _ _) _ _).trans (h w w.pcs w.pin _ w.loops w.lclk)

/-- Every warp keeps what `π` reads. -/
abbrev Keeps {α : Type} (π : Warp → α) (s u : State) : Prop := ∀ n, (u.warp? n).map π = (s.warp? n).map π

theorem Keeps.trans {α : Type} {π : Warp → α} {s t u : State} (h : Keeps π s t) (k : Keeps π t u) : Keeps π s u := fun n => (k n).trans (h n)

theorem Keeps.updWarp {α : Type} {π : Warp → α} (s : State) (n : Nat) (f : Warp → Warp) (hf : ∀ w, π (f w) = π w) : Keeps π s (s.updWarp n f) := by
  intro k
  rw [State.warp?_updWarp]
  split
  · subst_vars; cases h : s.warp? k <;> simp [hf]
  · rfl

theorem Keeps.foldl {α β : Type} {π : Warp → α} (g : State → β → State) (hg : ∀ s x, Keeps π s (g s x)) (l : List β) (s : State) :
    Keeps π s (l.foldl g s) := by
  induction l generalizing s with
  | nil => exact fun _ => rfl
  | cons x l ih => exact (hg s x).trans (ih _)

theorem Keeps.warpD {α : Type} {π : Warp → α} {s u : State} (h : Keeps π s u) (n : Nat) : π (u.warpD n) = π (s.warpD n) := by
  have := h n
  unfold State.warpD
  cases hs : s.warp? n <;> cases hu : u.warp? n <;> simp_all

theorem PlaceFree.testWaits {α : Type} {π : Warp → α} (h : PlaceFree π) (s : State) (wid : Nat) : Keeps π s (s.testWaits wid) := by
  unfold State.testWaits
  refine Keeps.foldl _ (fun s n => ?_) _ _
  split
  · exact fun _ => rfl
  · dsimp only
    split
    · refine Keeps.updWarp _ _ _ fun w => ?_
      exact (h (w.releaseWaits _ n 0 0) _ _ _ _ _).trans (h.releaseWaits w _ n 0 0)
    · exact fun _ => rfl

/-- A completion keeps what does not belong to a warp's place. -/
theorem PlaceFree.finish_ok {α : Type} {π : Warp → α} (h : PlaceFree π) (s t back : State) (cx : Cx) : Keeps π t (s.finish back cx (.ok t)) := by
  show Keeps π t (((t.chargeNet cx).advance cx).settleIssue cx)
  have h0 : Keeps π t (t.chargeNet cx) := by unfold State.chargeNet; split <;> exact fun _ => rfl
  have h1 : Keeps π (t.chargeNet cx) ((t.chargeNet cx).advance cx) :=
    Keeps.foldl _ (fun s p => Keeps.updWarp s _ _ fun w => h.complete w _ _ _ _) _ _
  refine (h0.trans h1).trans (Keeps.foldl _ (fun s p => ?_) _ _)
  refine Keeps.trans (Keeps.updWarp s _ _ fun w => ?_) (h.testWaits _ _)
  exact h w w.pcs (w.pin &&& w.ready) w.parks w.loops w.lclk

/-! ## Completions of long-latency instructions -/

/-- One member's window and draws in the state. -/
def Cx.partOpen (cx : Cx) (draws : Nat) (F : Part → List RegWrite) (t : State) (p : Part) : State :=
  let t := (cx.openWindow t p true (F p)).2
  if draws = 0 then t else t.updWarp p.wid fun w => w.drawn draws (cx.lanesOf p)

/-- The results of a long-latency instruction. -/
theorem Cx.emit_slow (cx : Cx) (s : State) (draws : Nat) (f : Part → Warp → List RegWrite) (F : Part → List RegWrite) (h : longLatency cx.op = true)
    (hf : ∀ p ∈ cx.parts, f p (s.warpD p.wid) = F p) : cx.emit s draws f = cx.parts.foldl (cx.partOpen draws F) s := by
  unfold Cx.emit
  refine foldl_same _ _ _ _ fun t p hp => ?_
  simp [Cx.deliver, h, hf p hp, Cx.partOpen]

/-- What opening a window leaves. -/
theorem Calm.openWindow (cx : Cx) (s : State) (p : Part) (r : Bool) (ws : List RegWrite) : Calm s (cx.openWindow s p r ws).2 :=
  (Calm.draw s).trans (Calm.updWarp _ _ _ fun _ => rfl)

theorem Warp.keeps_drawn {α : Type} (π : Warp → α) (h : ∀ w d, π { w with draw := d } = π w) (w : Warp) (n : Nat) (l : List Nat) :
    π (w.drawn n l) = π w := by
  induction l generalizing w with
  | nil => rfl
  | cons i l ih => exact (ih _).trans (h w _)

/-- What opening windows and draws keep. -/
theorem Cx.partOpen_keeps {α : Type} (π : Warp → α) (h : ∀ w x d, π { w with windows := x, draw := d } = π w) (cx : Cx) (draws : Nat)
    (F : Part → List RegWrite) (t : State) (p : Part) : Keeps π t (cx.partOpen draws F t p) := by
  have h0 : Keeps π t (cx.openWindow t p true (F p)).2 := Keeps.updWarp _ _ _ fun w => h w _ w.draw
  unfold Cx.partOpen
  dsimp only
  split
  · exact h0
  · exact h0.trans (Keeps.updWarp _ _ _ fun w => Warp.keeps_drawn π (fun w d => h w w.windows d) w _ _)

theorem Cx.partOpen_quiet (cx : Cx) (draws : Nat) (F : Part → List RegWrite) (t : State) (p : Part) : Quiet t (cx.partOpen draws F t p) := by
  unfold Cx.partOpen
  dsimp only
  split
  · exact (Calm.openWindow _ _ _ _ _).quiet
  · exact (Calm.openWindow _ _ _ _ _).quiet.trans (Quiet.updWarp _ p.wid _ fun w => Warp.bare_drawn w _ _)

/-- The draws of a member's warp. -/
theorem Cx.partOpen_draw (cx : Cx) (draws : Nat) (F : Part → List RegWrite) (t : State) (p : Part) (n l : Nat) (h : (t.warp? n).isSome) :
    ((cx.partOpen draws F t p).warpD n).draw.get 0 l
      = (t.warpD n).draw.get 0 l + (if p.wid = n ∧ l < cx.W ∧ inSet p.lanes l = true then BitVec.ofNat 32 draws else 0) := by
  have h0 : Keeps Warp.draw t (cx.openWindow t p true (F p)).2 := Keeps.updWarp _ _ _ fun w => rfl
  unfold Cx.partOpen
  dsimp only
  by_cases hd : draws = 0
  · subst hd
    simp [h0.warpD n]
  · rw [if_neg hd]
    have e := h0 n
    cases ht : t.warp? n with
    | none => simp [ht] at h
    | some w =>
      cases hx : (cx.openWindow t p true (F p)).2.warp? n with
      | none => simp [ht, hx] at e
      | some x =>
        simp only [ht, hx, Option.map_some, Option.some.injEq] at e
        unfold State.warpD
        rw [State.warp?_updWarp, ht]
        by_cases hn : n = p.wid
        · subst hn
          simp only [hx, Option.map_some, Option.getD_some, if_true, true_and]
          rw [Warp.draw_drawn _ _ (cx.lanesOf p) (members_nodup _ _), e]
          simp only [Cx.lanesOf, mem_members]
        · have hn' : ¬ p.wid = n := fun e => hn e.symm
          simp [hn, hn', hx, e]

theorem Cx.partOpen_isSome (cx : Cx) (draws : Nat) (F : Part → List RegWrite) (t : State) (p : Part) (n : Nat) :
    ((cx.partOpen draws F t p).warp? n).isSome = (t.warp? n).isSome := by
  have := (Cx.partOpen_keeps (fun _ => ()) (fun _ _ _ => rfl) cx draws F t p) n
  cases h : t.warp? n <;> cases h' : (cx.partOpen draws F t p).warp? n <;> simp_all

theorem Cx.opens_draw (cx : Cx) (draws : Nat) (F : Part → List RegWrite) (ps : List Part) (t : State) (n l : Nat) (h : (t.warp? n).isSome) :
    ((ps.foldl (cx.partOpen draws F) t).warpD n).draw.get 0 l
      = (t.warpD n).draw.get 0 l + BitVec.ofNat 32 (draws * (ps.filter fun p => p.wid = n && l < cx.W && inSet p.lanes l).length) := by
  induction ps generalizing t with
  | nil => simp
  | cons p ps ih =>
    rw [List.foldl_cons, ih _ (by rw [Cx.partOpen_isSome]; exact h), Cx.partOpen_draw _ _ _ _ _ _ _ h]
    by_cases hc : p.wid = n ∧ l < cx.W ∧ inSet p.lanes l = true
    · rw [if_pos hc, List.filter_cons_of_pos (by simp [hc]), List.length_cons, Nat.mul_add, Nat.mul_one, BitVec.ofNat_add, BitVec.add_assoc]
      congr 1
      exact BitVec.add_comm _ _
    · rw [if_neg hc, List.filter_cons_of_neg (by simpa [and_assoc] using hc)]
      simp

/-- The windows that a list of members opens. -/
theorem Cx.opens_window (cx : Cx) (draws : Nat) (F : Part → List RegWrite) (ps : List Part) (t : State) (h : ∀ p ∈ ps, (t.warp? p.wid).isSome) :
    (∀ n, ∀ x ∈ (t.warpD n).windows, x ∈ ((ps.foldl (cx.partOpen draws F) t).warpD n).windows) ∧
    ∀ p ∈ ps, ∃ x ∈ ((ps.foldl (cx.partOpen draws F) t).warpD p.wid).windows, x.ready = true ∧ x.done = false ∧ x.lanes = p.lanes ∧ x.writes = F p := by
  induction ps generalizing t with
  | nil => exact ⟨fun _ _ h => h, fun _ h => by cases h⟩
  | cons p ps ih =>
    obtain ⟨ha, hb⟩ := ih (cx.partOpen draws F t p) fun q hq => by rw [Cx.partOpen_isSome]; exact h q (List.mem_cons_of_mem _ hq)
    have hw : ∀ n, ((cx.partOpen draws F t p).warpD n).windows = ((cx.openWindow t p true (F p)).2.warpD n).windows := by
      intro n
      unfold Cx.partOpen
      dsimp only
      split
      · rfl
      · exact (Keeps.updWarp (π := Warp.windows) _ _ _ fun w => Warp.keeps_drawn Warp.windows (fun _ _ => rfl) w _ _).warpD n
    have ho : ∀ n, ((cx.openWindow t p true (F p)).2.warpD n).windows
        = if n = p.wid ∧ (t.warp? n).isSome then (t.warpD n).windows ++ [cx.window t.draw.2 p t.fresh true (F p)] else (t.warpD n).windows := by
      intro n
      show ((t.draw.2.updWarp p.wid _).warpD n).windows = _
      unfold State.warpD
      rw [State.warp?_updWarp]
      have e : t.draw.2.warp? = t.warp? := rfl
      by_cases hn : n = p.wid
      · subst hn
        rw [e]
        cases ht : t.warp? p.wid with
        | none => simp
        | some w => simp; rfl
      · simp [hn, e]
    refine ⟨fun n x hx => ha n x ?_, fun q hq => ?_⟩
    · rw [hw, ho]
      split
      · exact List.mem_append_left _ hx
      · exact hx
    · rcases List.mem_cons.1 hq with rfl | hq
      · refine ⟨cx.window t.draw.2 q t.fresh true (F q), ha _ _ ?_, rfl, rfl, rfl, rfl⟩
        rw [hw, ho, if_pos ⟨rfl, h q (List.mem_cons_self ..)⟩]
        exact List.mem_append_right _ (List.mem_singleton.2 rfl)
      · exact hb q hq

/-- A long-latency instruction. -/
theorem Pending.of (s t back : State) (op : Op) (e : Enc) (len : Nat) (cx : Cx) (draws : Nat) (f : Part → Warp → List RegWrite) (F : Part → List RegWrite)
    (hb : Begun s op e len cx t) (hl : longLatency cx.op = true) (h13 : cx.op.code / 64 ≠ 13)
    (hf : ∀ p ∈ cx.parts, f p (t.warpD p.wid) = F p) :
    Pending cx s (t.finish back cx (.ok (cx.emit t draws f))) draws F := by
  rw [Cx.emit_slow cx t draws f F hl hf]
  have hp : ∀ p ∈ cx.parts, (t.warp? p.wid).isSome := fun p h => by rw [hb.calm.isSome]; exact hb.parts p h
  obtain ⟨-, hw⟩ := Cx.opens_window cx draws F cx.parts t hp
  have c := Calm.finish_ok t (cx.parts.foldl (cx.partOpen draws F) t) back cx h13
  have kw : PlaceFree Warp.windows := fun _ _ _ _ _ _ => rfl
  have k := PlaceFree.finish_ok kw t (cx.parts.foldl (cx.partOpen draws F) t) back cx
  have hs : ∀ {α : Type} (π : Warp → α), (∀ w x d, π { w with windows := x, draw := d } = π w) → ∀ n,
      π ((cx.parts.foldl (cx.partOpen draws F) t).warpD n) = π (t.warpD n) := fun π h n =>
    (Keeps.foldl _ (fun t p => Cx.partOpen_keeps π h cx draws F t p) cx.parts t).warpD n
  refine ⟨fun p h => ?_, fun n r l => ?_, fun n r => ?_, fun n r => ?_, fun n l hl h => ?_, ?_⟩
  · rw [k.warpD]; exact hw p h
  · unfold Warp.vget; rw [c.v, hs Warp.v (fun _ _ _ => rfl), hb.calm.v]
  · unfold Warp.sget; rw [c.s, hs Warp.s (fun _ _ _ => rfl), hb.calm.s]
  · unfold Warp.kget; rw [c.k, hs Warp.k (fun _ _ _ => rfl), hb.calm.k]
  · rw [Warp.draw_of_still (c.warpD n), Cx.opens_draw cx draws F cx.parts t n l (by rw [hb.calm.isSome]; exact h), Warp.draw_of_still (hb.calm.warpD n)]
    rfl
  · refine (hb.calm.quiet.trans ?_).trans c.quiet
    have : ∀ ps : List Part, ∀ t, Quiet t (ps.foldl (cx.partOpen draws F) t) := by
      intro ps
      induction ps with
      | nil => exact fun t => (Calm.refl t).quiet
      | cons p ps ih => exact fun t => (Cx.partOpen_quiet cx draws F t p).trans (ih _)
    exact this _ _

/-! ## Instructions by the shape of their effect -/

/-- The meaning that every fetched instruction has: an effect run by its form. -/
def State.runOf (s : State) (i : Instr) (eff : Cx → State → Eff) : Host.Outcome State Fault Refusal :=
  match i.view with
  | .long op e => s.runLong op e eff
  | .short op f => s.runShort op f eff
  | .nopShort => s.runShort .nop { scope := .lane, dst := 0, a := 0, b := 0 } eff
  | .event => .fault .noIssuer

/-- The opcode of a fetched instruction. -/
def opOf (i : Instr) : Op := match i.view with | .long op _ => op | .short op _ => op | _ => .nop

/-- An issue that begins: its effect, then its end. -/
theorem Issues.run {s : State} {i : Instr} {cx : Cx} (h : Issues s i cx) (eff : Cx → State → Eff) :
    ∃ len t back, Begun s (opOf i) cx.e len cx t ∧ s.beginOf i = .go cx t back ∧ s.runOf i eff = .next (t.finish back cx (eff cx t)) ∧
      ∀ op e, i.view = .long op e → cx.e = e := by
  obtain ⟨t, back, hb, hs⟩ := h
  have hb' := hb
  unfold State.beginOf at hb
  unfold State.runOf opOf
  cases hv : i.view with
  | long op e =>
    rw [hv] at hb
    have b := State.begin_go hb
    refine ⟨_, t, back, b.e.symm ▸ b, hb', by simp [State.runLong, State.run, hb, hs], fun o x h => ?_⟩
    cases h; exact b.e
  | short op f =>
    rw [hv] at hb
    have b := State.begin_go hb
    exact ⟨_, t, back, b.e.symm ▸ b, hb', by simp [State.runShort, State.run, hb, hs], fun o x h => by cases h⟩
  | nopShort =>
    rw [hv] at hb
    dsimp only at hb
    have b := State.begin_go hb
    refine ⟨_, t, back, b.e.symm ▸ b, hb', ?_, fun o x h => by cases h⟩
    have : ∀ b, ({ scope := .lane, dst := 0, a := 0, b := 0 } : Short).toEnc (b && decide (Op.nop.code < 128)) = ({ scope := .lane, dst := 0, a := 0, b := 0 } : Short).toEnc false := by
      intro b; cases b <;> rfl
    simp only [State.runShort, State.run]
    rw [this, hb]
    simp [hs]
  | event => rw [hv] at hb; cases hb

theorem vget_calm {s t : State} (h : Calm s t) (n r l : Nat) : (t.warpD n).vget r l = (s.warpD n).vget r l := by unfold Warp.vget; rw [h.v]
theorem sget_calm {s t : State} (h : Calm s t) (n r : Nat) : (t.warpD n).sget r = (s.warpD n).sget r := by unfold Warp.sget; rw [h.s]
theorem sval_calm {s t : State} (h : Calm s t) (cx : Cx) (r : Nat) : cx.sval t r = cx.sval s r := sget_calm h _ _
theorem sB_calm {s t : State} (h : Calm s t) (cx : Cx) : cx.sB t = cx.sB s := by unfold Cx.sB; split <;> simp [sval_calm h]
theorem sC_calm {s t : State} (h : Calm s t) (cx : Cx) : cx.sC t = cx.sC s := by unfold Cx.sC; split <;> simp [sval_calm h]
theorem vB_calm {s t : State} (h : Calm s t) (cx : Cx) (n l : Nat) : cx.vB (t.warpD n) l = cx.vB (s.warpD n) l := by
  unfold Cx.vB; split <;> simp [vget_calm h]
theorem vC_calm {s t : State} (h : Calm s t) (cx : Cx) (n l : Nat) : cx.vC (t.warpD n) l = cx.vC (s.warpD n) l := by
  unfold Cx.vC; split <;> simp [vget_calm h]

@[simp] theorem regWrites_one (cx : Cx) (p : Part) (d : Nat) (g : Nat → Nat → Word) : cx.regWrites p d g (List.range 1) = [cx.lanesWrite p d fun l => g l 0] := rfl

/-- An instruction whose effect writes vector registers of its lanes. -/
theorem Issues.lanesDone {s : State} {i : Instr} {cx : Cx} (h : Issues s i cx) (eff : Cx → State → Eff) (d m draws : Nat)
    (f : State → Part → Warp → List RegWrite) (g : Warp → Nat → Nat → Word) (hx : exec i s = s.runOf i eff)
    (hl : longLatency (opOf i) = false) (h13 : (opOf i).code / 64 ≠ 13) (he : ∀ t, Calm s t → eff cx t = .ok (cx.emit t draws (f t)))
    (hf : ∀ t, Calm s t → ∀ p ∈ cx.parts, f t p (t.warpD p.wid) = cx.regWrites p d (g (s.warpD p.wid)) (List.range m)) :
    Completes s i fun u => LanesDone cx s u d m draws g := by
  obtain ⟨len, t, back, hb, -, hr, -⟩ := h.run eff
  rw [← hb.op] at hl h13
  exact ⟨_, hx.trans hr, he t hb.calm ▸ LanesDone.of s t back _ _ len cx d m draws (f t) g hb hl h13 (hf t hb.calm)⟩

/-- An instruction whose effect writes one scalar register of its members. -/
theorem Issues.scalDone {s : State} {i : Instr} {cx : Cx} (h : Issues s i cx) (eff : Cx → State → Eff) (d : Nat)
    (f : State → Part → Warp → List RegWrite) (g : Warp → DWord) (hx : exec i s = s.runOf i eff)
    (hl : longLatency (opOf i) = false) (h13 : (opOf i).code / 64 ≠ 13) (he : ∀ t, Calm s t → eff cx t = .ok (cx.emit t 0 (f t)))
    (hf : ∀ t, Calm s t → ∀ p ∈ cx.parts, f t p (t.warpD p.wid) = [.scal d (g (s.warpD p.wid))]) :
    Completes s i fun u => ScalDone cx s u d g := by
  obtain ⟨len, t, back, hb, -, hr, -⟩ := h.run eff
  rw [← hb.op] at hl h13
  exact ⟨_, hx.trans hr, he t hb.calm ▸ ScalDone.of s t back _ _ len cx d (f t) g hb hl h13 (hf t hb.calm)⟩

/-- An instruction whose effect writes bits of one mask register. -/
theorem Issues.maskDone {s : State} {i : Instr} {cx : Cx} (h : Issues s i cx) (eff : Cx → State → Eff) (d : Nat)
    (f : State → Part → Warp → List RegWrite) (g : Warp → Nat → Bool) (F : Part → List RegWrite) (hx : exec i s = s.runOf i eff)
    (hl : longLatency (opOf i) = false) (h13 : (opOf i).code / 64 ≠ 13) (he : ∀ t, Calm s t → eff cx t = .ok (cx.emit t 0 (f t)))
    (hf : ∀ t, Calm s t → ∀ p ∈ cx.parts, f t p (t.warpD p.wid) = F p) (hF : ∀ n, cx.MaskWrites n d F (g (s.warpD n)) cx.parts) :
    Completes s i fun u => MaskDone cx s u d g := by
  obtain ⟨len, t, back, hb, -, hr, -⟩ := h.run eff
  rw [← hb.op] at hl h13
  exact ⟨_, hx.trans hr, he t hb.calm ▸ MaskDone.of s t back _ _ len cx d (f t) g hb hl h13 F (hf t hb.calm) hF⟩

/-- A long-latency instruction whose effect gives its members results. -/
theorem Issues.pending {s : State} {i : Instr} {cx : Cx} (h : Issues s i cx) (eff : Cx → State → Eff) (draws : Nat)
    (f : State → Part → Warp → List RegWrite) (F : Part → List RegWrite) (hx : exec i s = s.runOf i eff)
    (hl : longLatency (opOf i) = true) (h13 : (opOf i).code / 64 ≠ 13) (he : ∀ t, Calm s t → eff cx t = .ok (cx.emit t draws (f t)))
    (hf : ∀ t, Calm s t → ∀ p ∈ cx.parts, f t p (t.warpD p.wid) = F p) :
    Completes s i fun u => Pending cx s u draws F := by
  obtain ⟨len, t, back, hb, -, hr, -⟩ := h.run eff
  rw [← hb.op] at hl h13
  exact ⟨_, hx.trans hr, he t hb.calm ▸ Pending.of s t back _ _ len cx draws (f t) F hb hl h13 (hf t hb.calm)⟩

/-- A two-source instruction of classes 0 and 1. -/
theorem FormDone.of_eff2 {s : State} {i : Instr} {cx : Cx} (h : Issues s i cx) (f : (w : Nat) → BitVec w → BitVec w → BitVec w)
    (hx : exec i s = s.runOf i (eff2 f)) (hl : longLatency (opOf i) = false) (h13 : (opOf i).code / 64 ≠ 13) :
    Completes s i fun t => FormDone cx s t (f 64 (cx.sval s cx.e.a.toNat) (cx.sB s)) fun w l => f 32 (w.vget cx.e.a.toNat l) (cx.vB w l) := by
  unfold FormDone
  cases hS : cx.S
  · exact h.lanesDone (eff2 f) _ 1 0 (fun _ p w => [cx.lanesWrite p cx.e.dst.toNat fun l => f 32 (w.vget cx.e.a.toNat l) (cx.vB w l)]) _ hx hl h13
      (fun t _ => by simp [eff2, hS, Cx.emitLanes]) fun t c p _ => by simp only [vget_calm c, vB_calm c]; rfl
  · exact h.scalDone (eff2 f) _ (fun t _ _ => [.scal cx.e.dst.toNat (f 64 (cx.sval t cx.e.a.toNat) (cx.sB t))]) _ hx hl h13
      (fun t _ => by simp [eff2, hS, Cx.emitScalar]) fun t c p _ => by simp [sval_calm c, sB_calm c]

/-- A one-source instruction of classes 0 and 1. -/
theorem FormDone.of_eff1 {s : State} {i : Instr} {cx : Cx} (h : Issues s i cx) (f : (w : Nat) → BitVec w → BitVec w)
    (hx : exec i s = s.runOf i (eff1 f)) (hl : longLatency (opOf i) = false) (h13 : (opOf i).code / 64 ≠ 13) :
    Completes s i fun t => FormDone cx s t (f 64 (cx.sval s cx.e.a.toNat)) fun w l => f 32 (w.vget cx.e.a.toNat l) := by
  unfold FormDone
  cases hS : cx.S
  · exact h.lanesDone (eff1 f) _ 1 0 (fun _ p w => [cx.lanesWrite p cx.e.dst.toNat fun l => f 32 (w.vget cx.e.a.toNat l)]) _ hx hl h13
      (fun t _ => by simp [eff1, hS, Cx.emitLanes]) fun t c p _ => by simp only [vget_calm c]; rfl
  · exact h.scalDone (eff1 f) _ (fun t _ _ => [.scal cx.e.dst.toNat (f 64 (cx.sval t cx.e.a.toNat))]) _ hx hl h13
      (fun t _ => by simp [eff1, hS, Cx.emitScalar]) fun t c p _ => by simp [sval_calm c]

/-- A three-source instruction of classes 0 and 1. -/
theorem FormDone.of_eff3 {s : State} {i : Instr} {cx : Cx} (h : Issues s i cx) (f : (w : Nat) → BitVec w → BitVec w → BitVec w → BitVec w)
    (hx : exec i s = s.runOf i (eff3 f)) (hl : longLatency (opOf i) = false) (h13 : (opOf i).code / 64 ≠ 13) :
    Completes s i fun t => FormDone cx s t (f 64 (cx.sval s cx.e.a.toNat) (cx.sval s cx.e.b.toNat) (cx.sC s))
      fun w l => f 32 (w.vget cx.e.a.toNat l) (w.vget cx.e.b.toNat l) (cx.vC w l) := by
  unfold FormDone
  cases hS : cx.S
  · exact h.lanesDone (eff3 f) _ 1 0 (fun _ p w => [cx.lanesWrite p cx.e.dst.toNat fun l => f 32 (w.vget cx.e.a.toNat l) (w.vget cx.e.b.toNat l) (cx.vC w l)]) _ hx hl h13
      (fun t _ => by simp [eff3, hS, Cx.emitLanes]) fun t c p _ => by simp only [vget_calm c, vC_calm c]; rfl
  · exact h.scalDone (eff3 f) _ (fun t _ _ => [.scal cx.e.dst.toNat (f 64 (cx.sval t cx.e.a.toNat) (cx.sval t cx.e.b.toNat) (cx.sC t))]) _ hx hl h13
      (fun t _ => by simp [eff3, hS, Cx.emitScalar]) fun t c p _ => by simp [sval_calm c, sC_calm c]

end Sys2Proof.Machine
end

