-- ==== Sys2Proof/Laws/Exec.lean ====
section
/-!
SUPPORT. What each fetched instruction's arm is: an effect run by the instruction's form.
-/

namespace Sys2Proof.Machine

theorem exec_iadd (e : Enc) (s : State) : exec (.iadd e) s = s.runOf (.iadd e) (eff2 (iaddOp e.modi.toNat)) := rfl
theorem exec_iaddF32 (f : Short) (s : State) : exec (.iaddF32 f) s = s.runOf (.iaddF32 f) (eff2 (iaddOp 0)) := rfl
theorem exec_isub (e : Enc) (s : State) : exec (.isub e) s = s.runOf (.isub e) (eff2 (isubOp e.modi.toNat)) := rfl
theorem exec_isubF32 (f : Short) (s : State) : exec (.isubF32 f) s = s.runOf (.isubF32 f) (eff2 (isubOp 0)) := rfl
theorem exec_imul (e : Enc) (s : State) : exec (.imul e) s = s.runOf (.imul e) (eff2 (imulOp e.modi.toNat)) := rfl
theorem exec_imulF32 (f : Short) (s : State) : exec (.imulF32 f) s = s.runOf (.imulF32 f) (eff2 (imulOp 0)) := rfl
theorem exec_imulh (e : Enc) (s : State) : exec (.imulh e) s = s.runOf (.imulh e) (eff2 (imulhOp e.modi.toNat)) := rfl
theorem exec_imad (e : Enc) (s : State) : exec (.imad e) s = s.runOf (.imad e) (eff3 (imadOp e.modi.toNat)) := rfl
theorem exec_imin (e : Enc) (s : State) : exec (.imin e) s = s.runOf (.imin e) (eff2 (iminOp e.modi.toNat)) := rfl
theorem exec_iminF32 (f : Short) (s : State) : exec (.iminF32 f) s = s.runOf (.iminF32 f) (eff2 (iminOp 0)) := rfl
theorem exec_imax (e : Enc) (s : State) : exec (.imax e) s = s.runOf (.imax e) (eff2 (imaxOp e.modi.toNat)) := rfl
theorem exec_imaxF32 (f : Short) (s : State) : exec (.imaxF32 f) s = s.runOf (.imaxF32 f) (eff2 (imaxOp 0)) := rfl
theorem exec_iabs (e : Enc) (s : State) : exec (.iabs e) s = s.runOf (.iabs e) (eff1 (iabsOp e.modi.toNat)) := rfl
theorem exec_iabsF32 (f : Short) (s : State) : exec (.iabsF32 f) s = s.runOf (.iabsF32 f) (eff1 (iabsOp 0)) := rfl
theorem exec_ineg (e : Enc) (s : State) : exec (.ineg e) s = s.runOf (.ineg e) (eff1 (inegOp e.modi.toNat)) := rfl
theorem exec_inegF32 (f : Short) (s : State) : exec (.inegF32 f) s = s.runOf (.inegF32 f) (eff1 (inegOp 0)) := rfl
theorem exec_lea (e : Enc) (s : State) : exec (.lea e) s = s.runOf (.lea e) (eff2 (leaOp e.modi.toNat)) := rfl
theorem exec_icmp (e : Enc) (s : State) : exec (.icmp e) s = s.runOf (.icmp e) effIcmp := rfl
theorem exec_sel (e : Enc) (s : State) : exec (.sel e) s = s.runOf (.sel e) effSel := rfl
theorem exec_and (e : Enc) (s : State) : exec (.and e) s = s.runOf (.and e) (eff2 andOp) := rfl
theorem exec_andF32 (f : Short) (s : State) : exec (.andF32 f) s = s.runOf (.andF32 f) (eff2 andOp) := rfl
theorem exec_or (e : Enc) (s : State) : exec (.or e) s = s.runOf (.or e) (eff2 orOp) := rfl
theorem exec_orF32 (f : Short) (s : State) : exec (.orF32 f) s = s.runOf (.orF32 f) (eff2 orOp) := rfl
theorem exec_xor (e : Enc) (s : State) : exec (.xor e) s = s.runOf (.xor e) (eff2 xorOp) := rfl
theorem exec_xorF32 (f : Short) (s : State) : exec (.xorF32 f) s = s.runOf (.xorF32 f) (eff2 xorOp) := rfl
theorem exec_andn (e : Enc) (s : State) : exec (.andn e) s = s.runOf (.andn e) (eff2 andnOp) := rfl
theorem exec_andnF32 (f : Short) (s : State) : exec (.andnF32 f) s = s.runOf (.andnF32 f) (eff2 andnOp) := rfl
theorem exec_not (e : Enc) (s : State) : exec (.not e) s = s.runOf (.not e) (eff1 notOp) := rfl
theorem exec_notF32 (f : Short) (s : State) : exec (.notF32 f) s = s.runOf (.notF32 f) (eff1 notOp) := rfl
theorem exec_shl (e : Enc) (s : State) : exec (.shl e) s = s.runOf (.shl e) (eff2 shlOp) := rfl
theorem exec_shlF32 (f : Short) (s : State) : exec (.shlF32 f) s = s.runOf (.shlF32 f) (eff2 shlOp) := rfl
theorem exec_shr (e : Enc) (s : State) : exec (.shr e) s = s.runOf (.shr e) (eff2 shrOp) := rfl
theorem exec_shrF32 (f : Short) (s : State) : exec (.shrF32 f) s = s.runOf (.shrF32 f) (eff2 shrOp) := rfl
theorem exec_sar (e : Enc) (s : State) : exec (.sar e) s = s.runOf (.sar e) (eff2 sarOp) := rfl
theorem exec_sarF32 (f : Short) (s : State) : exec (.sarF32 f) s = s.runOf (.sarF32 f) (eff2 sarOp) := rfl
theorem exec_rotl (e : Enc) (s : State) : exec (.rotl e) s = s.runOf (.rotl e) (eff2 rotlOp) := rfl
theorem exec_popc (e : Enc) (s : State) : exec (.popc e) s = s.runOf (.popc e) (eff1 popcOp) := rfl
theorem exec_clz (e : Enc) (s : State) : exec (.clz e) s = s.runOf (.clz e) (eff1 clzOp) := rfl
theorem exec_ctz (e : Enc) (s : State) : exec (.ctz e) s = s.runOf (.ctz e) (eff1 ctzOp) := rfl
theorem exec_brev (e : Enc) (s : State) : exec (.brev e) s = s.runOf (.brev e) (eff1 brevOp) := rfl
theorem exec_bfe (e : Enc) (s : State) : exec (.bfe e) s = s.runOf (.bfe e) (eff2 (bfeOp e.modi.toNat)) := rfl
theorem exec_bfi (e : Enc) (s : State) : exec (.bfi e) s = s.runOf (.bfi e) effBfi := rfl
theorem exec_bperm (e : Enc) (s : State) : exec (.bperm e) s = s.runOf (.bperm e) (eff2 bpermOp) := rfl
theorem exec_fadd (e : Enc) (s : State) : exec (.fadd e) s = s.runOf (.fadd e) (effFp faddOp true) := rfl
theorem exec_faddF32 (f : Short) (s : State) : exec (.faddF32 f) s = s.runOf (.faddF32 f) (effFp faddOp true) := rfl
theorem exec_fsub (e : Enc) (s : State) : exec (.fsub e) s = s.runOf (.fsub e) (effFp fsubOp true) := rfl
theorem exec_fsubF32 (f : Short) (s : State) : exec (.fsubF32 f) s = s.runOf (.fsubF32 f) (effFp fsubOp true) := rfl
theorem exec_fmul (e : Enc) (s : State) : exec (.fmul e) s = s.runOf (.fmul e) (effFp fmulOp true) := rfl
theorem exec_fmulF32 (f : Short) (s : State) : exec (.fmulF32 f) s = s.runOf (.fmulF32 f) (effFp fmulOp true) := rfl
theorem exec_ffma (e : Enc) (s : State) : exec (.ffma e) s = s.runOf (.ffma e) effFfma := rfl
theorem exec_fmin (e : Enc) (s : State) : exec (.fmin e) s = s.runOf (.fmin e) (effFp fminOp false) := rfl
theorem exec_fminF32 (f : Short) (s : State) : exec (.fminF32 f) s = s.runOf (.fminF32 f) (effFp fminOp false) := rfl
theorem exec_fmax (e : Enc) (s : State) : exec (.fmax e) s = s.runOf (.fmax e) (effFp fmaxOp false) := rfl
theorem exec_fmaxF32 (f : Short) (s : State) : exec (.fmaxF32 f) s = s.runOf (.fmaxF32 f) (effFp fmaxOp false) := rfl
theorem exec_fabs (e : Enc) (s : State) : exec (.fabs e) s = s.runOf (.fabs e) (effFp fabsOp false) := rfl
theorem exec_fabsF32 (f : Short) (s : State) : exec (.fabsF32 f) s = s.runOf (.fabsF32 f) (effFp fabsOp false) := rfl
theorem exec_fneg (e : Enc) (s : State) : exec (.fneg e) s = s.runOf (.fneg e) (effFp fnegOp false) := rfl
theorem exec_fnegF32 (f : Short) (s : State) : exec (.fnegF32 f) s = s.runOf (.fnegF32 f) (effFp fnegOp false) := rfl
theorem exec_fcmp (e : Enc) (s : State) : exec (.fcmp e) s = s.runOf (.fcmp e) effFcmp := rfl
theorem exec_fclass (e : Enc) (s : State) : exec (.fclass e) s = s.runOf (.fclass e) (effFp fclassOp false) := rfl
theorem exec_frint (e : Enc) (s : State) : exec (.frint e) s = s.runOf (.frint e) (effFp frintOp true) := rfl
theorem exec_fdiv (e : Enc) (s : State) : exec (.fdiv e) s = s.runOf (.fdiv e) (effFp fdivOp true) := rfl
theorem exec_fsqrt (e : Enc) (s : State) : exec (.fsqrt e) s = s.runOf (.fsqrt e) (effFp fsqrtOp true) := rfl
theorem exec_fdot2 (e : Enc) (s : State) : exec (.fdot2 e) s = s.runOf (.fdot2 e) effFdot2 := rfl
theorem exec_frcp (e : Enc) (s : State) : exec (.frcp e) s = s.runOf (.frcp e) (effSpecial 0) := rfl
theorem exec_frsq (e : Enc) (s : State) : exec (.frsq e) s = s.runOf (.frsq e) (effSpecial 1) := rfl
theorem exec_fexp2 (e : Enc) (s : State) : exec (.fexp2 e) s = s.runOf (.fexp2 e) (effSpecial 2) := rfl
theorem exec_flog2 (e : Enc) (s : State) : exec (.flog2 e) s = s.runOf (.flog2 e) (effSpecial 3) := rfl
theorem exec_fsin (e : Enc) (s : State) : exec (.fsin e) s = s.runOf (.fsin e) (effSpecial 4) := rfl
theorem exec_fcos (e : Enc) (s : State) : exec (.fcos e) s = s.runOf (.fcos e) (effSpecial 5) := rfl
theorem exec_ftanh (e : Enc) (s : State) : exec (.ftanh e) s = s.runOf (.ftanh e) (effSpecial 6) := rfl
theorem exec_rand (e : Enc) (s : State) : exec (.rand e) s = s.runOf (.rand e) effRand := rfl
theorem exec_cvt (e : Enc) (s : State) : exec (.cvt e) s = s.runOf (.cvt e) effCvt := rfl
theorem exec_pack (e : Enc) (s : State) : exec (.pack e) s = s.runOf (.pack e) effPack := rfl
theorem exec_unpack (e : Enc) (s : State) : exec (.unpack e) s = s.runOf (.unpack e) effUnpack := rfl
theorem exec_mxenc (e : Enc) (s : State) : exec (.mxenc e) s = s.runOf (.mxenc e) effMxenc := rfl
theorem exec_mxdec (e : Enc) (s : State) : exec (.mxdec e) s = s.runOf (.mxdec e) (effBlockDec (mxWords (e.modi.toNat % 16)) (elemFmt (e.modi.toNat % 16))) := rfl
theorem exec_ixenc (e : Enc) (s : State) : exec (.ixenc e) s = s.runOf (.ixenc e) effIxenc := rfl
theorem exec_ixdec (e : Enc) (s : State) : exec (.ixdec e) s = s.runOf (.ixdec e) (effBlockDec 4 .i4x) := rfl
theorem exec_kand (e : Enc) (s : State) : exec (.kand e) s = s.runOf (.kand e) (effMask fun a b => a &&& b) := rfl
theorem exec_kandF32 (f : Short) (s : State) : exec (.kandF32 f) s = s.runOf (.kandF32 f) (effMask fun a b => a &&& b) := rfl
theorem exec_kor (e : Enc) (s : State) : exec (.kor e) s = s.runOf (.kor e) (effMask fun a b => a ||| b) := rfl
theorem exec_korF32 (f : Short) (s : State) : exec (.korF32 f) s = s.runOf (.korF32 f) (effMask fun a b => a ||| b) := rfl
theorem exec_kxor (e : Enc) (s : State) : exec (.kxor e) s = s.runOf (.kxor e) (effMask fun a b => a ^^^ b) := rfl
theorem exec_kxorF32 (f : Short) (s : State) : exec (.kxorF32 f) s = s.runOf (.kxorF32 f) (effMask fun a b => a ^^^ b) := rfl
theorem exec_knot (e : Enc) (s : State) : exec (.knot e) s = s.runOf (.knot e) (effMask fun a _ => ~~~ a) := rfl
theorem exec_knotF32 (f : Short) (s : State) : exec (.knotF32 f) s = s.runOf (.knotF32 f) (effMask fun a _ => ~~~ a) := rfl
theorem exec_kmov (e : Enc) (s : State) : exec (.kmov e) s = s.runOf (.kmov e) effKmov := rfl
theorem exec_kmovF32 (f : Short) (s : State) : exec (.kmovF32 f) s = s.runOf (.kmovF32 f) effKmov := rfl
theorem exec_kpop (e : Enc) (s : State) : exec (.kpop e) s = s.runOf (.kpop e) effKpop := rfl
theorem exec_kfirst (e : Enc) (s : State) : exec (.kfirst e) s = s.runOf (.kfirst e) effKfirst := rfl
theorem exec_shfl (e : Enc) (s : State) : exec (.shfl e) s = s.runOf (.shfl e) effShfl := rfl
theorem exec_bcast (e : Enc) (s : State) : exec (.bcast e) s = s.runOf (.bcast e) effBcast := rfl
theorem exec_red (e : Enc) (s : State) : exec (.red e) s = s.runOf (.red e) effRed := rfl
theorem exec_scan (e : Enc) (s : State) : exec (.scan e) s = s.runOf (.scan e) effScan := rfl
theorem exec_vote (e : Enc) (s : State) : exec (.vote e) s = s.runOf (.vote e) effVote := rfl
theorem exec_matchOp (e : Enc) (s : State) : exec (.matchOp e) s = s.runOf (.matchOp e) effMatch := rfl
theorem exec_mov (e : Enc) (s : State) : exec (.mov e) s = s.runOf (.mov e) effMov := rfl
theorem exec_movi (e : Enc) (s : State) : exec (.movi e) s = s.runOf (.movi e) effMovi := rfl
theorem exec_v2s (e : Enc) (s : State) : exec (.v2s e) s = s.runOf (.v2s e) effV2s := rfl
theorem exec_s2v (e : Enc) (s : State) : exec (.s2v e) s = s.runOf (.s2v e) effS2v := rfl
theorem exec_movsr (e : Enc) (s : State) : exec (.movsr e) s = s.runOf (.movsr e) effMovsr := rfl
theorem exec_movsw (e : Enc) (s : State) : exec (.movsw e) s = s.runOf (.movsw e) effMovsw := rfl
theorem exec_bra (e : Enc) (s : State) : exec (.bra e) s = s.runOf (.bra e) effBra := rfl
theorem exec_jmp (e : Enc) (s : State) : exec (.jmp e) s = s.runOf (.jmp e) (effJump fun cx => cx.e.a.toNat) := rfl
theorem exec_call (e : Enc) (s : State) : exec (.call e) s = s.runOf (.call e) effCall := rfl
theorem exec_ret (e : Enc) (s : State) : exec (.ret e) s = s.runOf (.ret e) (effJump fun _ => 63) := rfl
theorem exec_join (e : Enc) (s : State) : exec (.join e) s = s.runOf (.join e) effJoin := rfl
theorem exec_leave (e : Enc) (s : State) : exec (.leave e) s = s.runOf (.leave e) effLeave := rfl
theorem exec_wait (e : Enc) (s : State) : exec (.wait e) s = s.runOf (.wait e) effWait := rfl
theorem exec_loop (e : Enc) (s : State) : exec (.loop e) s = s.runOf (.loop e) effLoop := rfl
theorem exec_exit (e : Enc) (s : State) : exec (.exit e) s = s.runOf (.exit e) effExit := rfl
theorem exec_nop (e : Enc) (s : State) : exec (.nop e) s = s.runOf (.nop e) effNop := rfl
theorem exec_nopF32 (s : State) : exec .nopF32 s = s.runOf .nopF32 effNop := rfl
theorem exec_trap (e : Enc) (s : State) : exec (.trap e) s = s.runOf (.trap e) effTrap := rfl
theorem exec_tret (e : Enc) (s : State) : exec (.tret e) s = s.runOf (.tret e) effTret := rfl
theorem exec_bkpt (e : Enc) (s : State) : exec (.bkpt e) s = s.runOf (.bkpt e) effBkpt := rfl
theorem exec_yield (e : Enc) (s : State) : exec (.yield e) s = s.runOf (.yield e) effYield := rfl
theorem exec_ld (e : Enc) (s : State) : exec (.ld e) s = s.runOf (.ld e) effLd := rfl
theorem exec_st (e : Enc) (s : State) : exec (.st e) s = s.runOf (.st e) effSt := rfl
theorem exec_prf (e : Enc) (s : State) : exec (.prf e) s = s.runOf (.prf e) effPrf := rfl
theorem exec_cfl (e : Enc) (s : State) : exec (.cfl e) s = s.runOf (.cfl e) effCfl := rfl
theorem exec_cinv (e : Enc) (s : State) : exec (.cinv e) s = s.runOf (.cinv e) effCinv := rfl
theorem exec_acp (e : Enc) (s : State) : exec (.acp e) s = s.runOf (.acp e) effAcp := rfl
theorem exec_stage (e : Enc) (s : State) : exec (.stage e) s = s.runOf (.stage e) effStage := rfl
theorem exec_mbinit (e : Enc) (s : State) : exec (.mbinit e) s = s.runOf (.mbinit e) effMbinit := rfl
theorem exec_mbarr (e : Enc) (s : State) : exec (.mbarr e) s = s.runOf (.mbarr e) effMbarr := rfl
theorem exec_mbexp (e : Enc) (s : State) : exec (.mbexp e) s = s.runOf (.mbexp e) effMbexp := rfl
theorem exec_mbwait (e : Enc) (s : State) : exec (.mbwait e) s = s.runOf (.mbwait e) effMbwait := rfl
theorem exec_mbtest (e : Enc) (s : State) : exec (.mbtest e) s = s.runOf (.mbtest e) effMbtest := rfl
theorem exec_atom (e : Enc) (s : State) : exec (.atom e) s = s.runOf (.atom e) effAtom := rfl
theorem exec_mred (e : Enc) (s : State) : exec (.mred e) s = s.runOf (.mred e) effMred := rfl
theorem exec_fence (e : Enc) (s : State) : exec (.fence e) s = s.runOf (.fence e) effFence := rfl
theorem exec_qfence (e : Enc) (s : State) : exec (.qfence e) s = s.runOf (.qfence e) effQfence := rfl
theorem exec_talloc (e : Enc) (s : State) : exec (.talloc e) s = s.runOf (.talloc e) effTalloc := rfl
theorem exec_tdrop (e : Enc) (s : State) : exec (.tdrop e) s = s.runOf (.tdrop e) effTdrop := rfl
theorem exec_tquery (e : Enc) (s : State) : exec (.tquery e) s = s.runOf (.tquery e) effTquery := rfl
theorem exec_textend (e : Enc) (s : State) : exec (.textend e) s = s.runOf (.textend e) effTextend := rfl
theorem exec_mma (e : Enc) (s : State) : exec (.mma e) s = s.runOf (.mma e) effMma := rfl
theorem exec_mmas (e : Enc) (s : State) : exec (.mmas e) s = s.runOf (.mmas e) effMma := rfl
theorem exec_mmaw (e : Enc) (s : State) : exec (.mmaw e) s = s.runOf (.mmaw e) effMma := rfl
theorem exec_aclr (e : Enc) (s : State) : exec (.aclr e) s = s.runOf (.aclr e) effAclr := rfl
theorem exec_ald (e : Enc) (s : State) : exec (.ald e) s = s.runOf (.ald e) effAld := rfl
theorem exec_adrain (e : Enc) (s : State) : exec (.adrain e) s = s.runOf (.adrain e) effAdrain := rfl
theorem exec_msync (e : Enc) (s : State) : exec (.msync e) s = s.runOf (.msync e) effMsync := rfl
theorem exec_put (e : Enc) (s : State) : exec (.put e) s = s.runOf (.put e) (effPut false) := rfl
theorem exec_get (e : Enc) (s : State) : exec (.get e) s = s.runOf (.get e) (effPut true) := rfl
theorem exec_patom (e : Enc) (s : State) : exec (.patom e) s = s.runOf (.patom e) effPatom := rfl
theorem exec_post (e : Enc) (s : State) : exec (.post e) s = s.runOf (.post e) effPost := rfl
theorem exec_pcount (e : Enc) (s : State) : exec (.pcount e) s = s.runOf (.pcount e) effPcount := rfl
theorem exec_rpush (e : Enc) (s : State) : exec (.rpush e) s = s.runOf (.rpush e) effRpush := rfl
theorem exec_rpop (e : Enc) (s : State) : exec (.rpop e) s = s.runOf (.rpop e) effRpop := rfl
theorem exec_rwait (e : Enc) (s : State) : exec (.rwait e) s = s.runOf (.rwait e) effRwait := rfl
theorem exec_rcur (e : Enc) (s : State) : exec (.rcur e) s = s.runOf (.rcur e) effRcur := rfl
theorem exec_launch (e : Enc) (s : State) : exec (.launch e) s = s.runOf (.launch e) effLaunch := rfl
theorem exec_evsub (e : Enc) (s : State) : exec (.evsub e) s = s.runOf (.evsub e) effEvsub := rfl
theorem exec_evwait (e : Enc) (s : State) : exec (.evwait e) s = s.runOf (.evwait e) effEvwait := rfl
theorem exec_svc (e : Enc) (s : State) : exec (.svc e) s = s.runOf (.svc e) effSvc := rfl
theorem exec_time (e : Enc) (s : State) : exec (.time e) s = s.runOf (.time e) effTime := rfl
theorem exec_clk (e : Enc) (s : State) : exec (.clk e) s = s.runOf (.clk e) effClk := rfl
theorem exec_ctxq (e : Enc) (s : State) : exec (.ctxq e) s = s.runOf (.ctxq e) effCtxq := rfl
theorem exec_halt (e : Enc) (s : State) : exec (.halt e) s = s.runOf (.halt e) effHalt := rfl
theorem exec_dgread (e : Enc) (s : State) : exec (.dgread e) s = s.runOf (.dgread e) effDgread := rfl

end Sys2Proof.Machine
end

