-- ==== Sys2Proof/Laws/Memory.lean ====
section
/-!
SUPPORT. Laws of memory: what a byte reads as after a write, and that every operation on memory keeps its canonical form.
-/

namespace Sys2Proof.Machine
open Sys2Proof

/-! ## Reading after writing -/

/-- A byte below a written range. -/
theorem get_writeMem_lt (m : List Host.Cell) (pa a : Nat) (bs : List Byte) (h : a < pa) :
    Map.get memDefault (writeMem m pa bs) a = Map.get memDefault m a := by
  induction bs generalizing m pa with
  | nil => rfl
  | cons b r ih => rw [writeMem, ih _ _ (by omega), Map.get_put_ne _ _ _ _ _ (by omega)]

/-- A byte of a written range. -/
theorem get_writeMem_in (m : List Host.Cell) (pa i : Nat) (bs : List Byte) (h : i < bs.length) :
    Map.get memDefault (writeMem m pa bs) (pa + i) = bs[i] := by
  induction bs generalizing m pa i with
  | nil => simp at h
  | cons b r ih =>
    rw [writeMem]
    cases i with
    | zero => rw [get_writeMem_lt _ _ _ _ (by omega)]; simp
    | succ i =>
      have := ih (Map.put memDefault m pa b) (pa + 1) i (by simpa using h)
      rw [show pa + (i + 1) = pa + 1 + i by omega, this]; rfl

/-- A byte outside a written range. -/
theorem get_writeMem_out (m : List Host.Cell) (pa a : Nat) (bs : List Byte) (h : a < pa ∨ pa + bs.length ≤ a) :
    Map.get memDefault (writeMem m pa bs) a = Map.get memDefault m a := by
  induction bs generalizing m pa with
  | nil => rfl
  | cons b r ih =>
    rw [writeMem, ih _ _ (by simp at h ⊢; omega), Map.get_put_ne _ _ _ _ _ (by simp at h; omega)]

/-- A byte of DRAM outside a written range reads as before. -/
theorem readByte_writeBytes_out (s : State) (pa a : Nat) (bs : List Byte) (h : a < pa ∨ pa + bs.length ≤ a) :
    (s.writeBytes pa bs).readByte a = s.readByte a := by
  simpa [State.readByte] using get_writeMem_out s.mem pa a bs h

/-- A byte of DRAM in a written range reads as written. -/
theorem readByte_writeBytes_in (s : State) (pa i : Nat) (bs : List Byte) (h : i < bs.length) :
    (s.writeBytes pa bs).readByte (pa + i) = bs[i] := by
  simpa [State.readByte] using get_writeMem_in s.mem pa i bs h

/-! ## The canonical form -/

/-- A put keeps the canonical form. -/
theorem wf_put (m : List Host.Cell) (k : Nat) (b : Byte) (h : Memory.wf m = true) : Memory.wf (Map.put memDefault m k b) = true := by
  simp only [Memory.wf, Bool.and_eq_true] at h ⊢
  unfold Map.put
  split
  · exact ⟨Map.rising_filter _ _ _ h.1, by
      simp only [Map.del, List.all_eq_true, List.mem_filter] at h ⊢
      exact fun e he => h.2 e he.1⟩
  · rename_i hb
    refine ⟨Map.rising_set _ _ _ _ h.1 (by simp), ?_⟩
    have : ∀ (m : List Host.Cell), (m.all fun e => e.2 != memDefault) = true → ((Map.set m k b).all fun e => e.2 != memDefault) = true := by
      intro m
      induction m with
      | nil => intro _; simp [Map.set, hb]
      | cons e r ih =>
        intro hm
        simp only [List.all_cons, Bool.and_eq_true] at hm
        simp only [Map.set]
        split
        · simp [hb, hm.2]
        · split
          · simp only [List.all_cons, Bool.and_eq_true]; exact ⟨by simp [hb], hm.1, hm.2⟩
          · simp only [List.all_cons, Bool.and_eq_true]; exact ⟨hm.1, ih hm.2⟩
    exact this m h.2

/-- Writing bytes keeps the canonical form. -/
theorem wf_writeMem (m : List Host.Cell) (pa : Nat) (bs : List Byte) (h : Memory.wf m = true) : Memory.wf (writeMem m pa bs) = true := by
  induction bs generalizing m pa with
  | nil => exact h
  | cons b r ih => exact ih _ _ (wf_put _ _ _ h)

/-- Many puts keep the canonical form. -/
theorem wf_putAll (m : List Host.Cell) (l : List (Nat × Byte)) (h : Memory.wf m = true) : Memory.wf (Map.putAll memDefault m l) = true := by
  induction l generalizing m with
  | nil => exact h
  | cons e r ih => exact ih _ (wf_put _ _ _ h)

/-- Clearing a range keeps the canonical form. -/
theorem wf_clear (m : List Host.Cell) (lo hi : Nat) (h : Memory.wf m = true) : Memory.wf (Map.clear m lo hi) = true := by
  simp only [Memory.wf, Bool.and_eq_true, Map.clear] at h ⊢
  refine ⟨Map.rising_filter _ _ _ h.1, ?_⟩
  simp only [List.all_eq_true, List.mem_filter] at h ⊢
  exact fun e he => h.2 e he.1

/-- Reset memory is in canonical form. -/
theorem wf_reset : Memory.wf State.reset.mem = true := rfl

theorem wf_writeBytes (s : State) (pa : Nat) (bs : List Byte) (h : Memory.wf s.mem = true) : Memory.wf (s.writeBytes pa bs).mem = true := by
  rw [State.writeBytes_mem]; exact wf_writeMem _ _ _ h

/-- What is noted of errors touches no byte. -/
theorem mapErrors_mem (s : State) (f : Locus → Option Locus) : (s.mapErrors f).mem = s.mem := by
  unfold State.mapErrors; split <;> rfl

theorem correct_mem (s : State) (p : Locus → Bool) : (s.correct p).mem = s.mem := by
  unfold State.correct; split <;> rfl

/-- A slot put at its home agent writes at most the entry that it spills. -/
theorem wf_putSlot (s : State) (w : Nat) (x : ExactSum) (h : Memory.wf s.mem = true) : Memory.wf (s.putSlot w x).mem = true := by
  unfold State.putSlot
  simp only
  split
  · exact h
  · exact wf_writeBytes _ _ _ h

theorem wf_gatherWord (s : State) (core w : Nat) (h : Memory.wf s.mem = true) : Memory.wf (s.gatherWord core w).mem = true := by
  unfold State.gatherWord
  split
  · exact h
  · split
    · exact wf_putSlot _ _ _ h
    · exact h

/-- A fold of steps that each keep the canonical form keeps it. -/
theorem wf_foldl {α : Type} (f : State → α → State) (hf : ∀ s x, Memory.wf s.mem = true → Memory.wf (f s x).mem = true) (l : List α) (s : State)
    (h : Memory.wf s.mem = true) : Memory.wf (l.foldl f s).mem = true := by
  induction l generalizing s with
  | nil => exact h
  | cons x r ih => exact ih _ (hf _ _ h)

theorem wf_gatherCore (s : State) (core line : Nat) (h : Memory.wf s.mem = true) : Memory.wf (s.gatherCore core line).mem = true :=
  wf_foldl _ (fun s w h => wf_gatherWord s core w h) _ _ h

theorem wf_combineLine (s : State) (line : Nat) (h : Memory.wf s.mem = true) : Memory.wf (s.combineLine line).mem = true := by
  unfold State.combineLine
  split
  · exact h
  · exact wf_foldl _ (fun s (e : Nat × Core) h => wf_gatherCore s e.1 line h) s.cores s h

theorem wf_combineLines (s : State) (line n : Nat) (h : Memory.wf s.mem = true) : Memory.wf (s.combineLines line n).mem = true := by
  induction n generalizing s line with
  | zero => exact h
  | succ n ih => exact ih _ _ (wf_combineLine _ _ h)

theorem wf_settleWord (s : State) (w : Nat) (h : Memory.wf s.mem = true) : Memory.wf (s.settleWord w).mem = true := by
  unfold State.settleWord
  simp only
  split
  · exact h
  · refine wf_writeBytes _ _ _ ?_
    split <;> exact h

theorem wf_settleWords (s : State) (w n : Nat) (h : Memory.wf s.mem = true) : Memory.wf (s.settleWords w n).mem = true := by
  induction n generalizing s w with
  | zero => exact h
  | succ n ih => exact ih _ _ (wf_settleWord _ _ h)

theorem wf_settle (s : State) (pa n : Nat) (h : Memory.wf s.mem = true) : Memory.wf (s.settle pa n).mem = true := by
  unfold State.settle
  split
  · exact h
  · exact wf_settleWords _ _ _ (wf_combineLines _ _ _ h)

theorem wf_settleBehind (s : State) (w : FmtWindow) (n : Nat) (h : Memory.wf s.mem = true) : Memory.wf (s.settleBehind w n).mem = true :=
  wf_settle _ _ _ (wf_settle _ _ _ h)

theorem wf_performAlias (s : State) (r : AliasReq) (h : Memory.wf s.mem = true) : Memory.wf (s.performAlias r).mem = true := by
  unfold State.performAlias
  split
  · exact h
  · split
    · exact h
    · exact (mapErrors_mem _ _).symm ▸ wf_writeBytes _ _ _ (wf_writeBytes _ _ _ (wf_settleBehind _ _ _ h))

theorem wf_performAliases (s : State) (l : List AliasReq) (h : Memory.wf s.mem = true) : Memory.wf (s.performAliases l).mem = true := by
  induction l generalizing s with
  | nil => exact h
  | cons r q ih => exact ih _ (wf_performAlias _ _ h)

theorem wf_drainAlias (s : State) (h : Memory.wf s.mem = true) : Memory.wf s.drainAlias.mem = true := wf_performAliases _ _ h

theorem wf_aliasDone (s : State) (h : Memory.wf s.mem = true) : Memory.wf s.aliasDone.mem = true := by
  unfold State.aliasDone
  split
  · exact h
  · exact wf_drainAlias _ h

theorem wf_contribute (s : State) (core w : Nat) (b : Word) (h : Memory.wf s.mem = true) : Memory.wf (s.contribute core w b).mem = true := by
  unfold State.contribute
  simp only
  repeat' split
  all_goals first | exact wf_aliasDone _ h | exact wf_putSlot _ _ _ (wf_aliasDone _ h)

theorem wf_loadGlb (s : State) (pa n : Nat) (h : Memory.wf s.mem = true) : Memory.wf (s.loadGlb pa n).2.mem = true := by
  have hd : Memory.wf (s.aliasDone.correct (s.glbMeets none pa n)).mem = true := (correct_mem _ _).symm ▸ wf_aliasDone s h
  simp only [State.loadGlb]
  repeat' split
  all_goals first | exact hd | exact wf_settle _ _ _ hd | exact wf_settleBehind _ _ _ hd

theorem wf_storeGlb (s : State) (pa : Nat) (bs : List Byte) (h : Memory.wf s.mem = true) : Memory.wf (s.storeGlb pa bs).mem = true := by
  unfold State.storeGlb
  repeat' split
  all_goals first | exact h | exact wf_writeBytes _ _ _ (wf_settle _ _ _ (wf_aliasDone _ h))

theorem wf_updateWord (s : State) (pa : Nat) (f : Word → Word) (h : Memory.wf s.mem = true) : Memory.wf (s.updateWord pa f).mem = true :=
  wf_writeBytes _ _ _ (wf_settleWord _ _ (wf_aliasDone _ h))

theorem wf_readVirt (s : State) (ctx va n : Nat) (h : Memory.wf s.mem = true) : Memory.wf (s.readVirt ctx va n).2.mem = true := by
  induction n generalizing s va with
  | zero => exact h
  | succ n ih =>
    unfold State.readVirt
    split
    · exact ih _ _ (wf_loadGlb _ _ _ h)
    · exact h

theorem wf_writeVirt (s t : State) (ctx va : Nat) (bs : List Byte) (h : Memory.wf s.mem = true) (ht : s.writeVirt ctx va bs = some t) :
    Memory.wf t.mem = true := by
  obtain ⟨l, -, rfl⟩ := Option.map_eq_some_iff.mp ht
  exact wf_foldl _ (fun s r h => wf_storeGlb s r.1 r.2 h) l s h

theorem wf_overlay (s : State) (pa n : Nat) (bs : List Host.Cell) (h : Memory.wf s.mem = true) : Memory.wf (s.overlay pa n bs).mem = true :=
  (mapErrors_mem _ _).symm ▸ wf_putAll _ _ (wf_clear _ _ _ h)

end Sys2Proof.Machine
end

