-- ==== Sys2Proof/Laws/PerInstr.lean ====
section
/-!
SUPPORT. Statements made of every instruction, one lemma per constructor. `Form`: the opcode and the fields that an instruction
is sorted into (`Instr.view`) name it again.
-/

namespace Sys2Proof.Laws.Form

/-- The view of an instruction names it (R18 to R21): its opcode with its fields is the instruction itself. -/
def Statement (i : Instr) : Prop :=
  match i.view with
  | .long op e => Instr.ofLong op e = i
  | .short op f => Instr.ofShort op f = some i
  | .nopShort => i = .nopF32
  | .event => i.fetched = false

theorem iadd (e : Enc) : Statement (.iadd e) := rfl
theorem iaddF32 (f : Short) : Statement (.iaddF32 f) := rfl
theorem isub (e : Enc) : Statement (.isub e) := rfl
theorem isubF32 (f : Short) : Statement (.isubF32 f) := rfl
theorem imul (e : Enc) : Statement (.imul e) := rfl
theorem imulF32 (f : Short) : Statement (.imulF32 f) := rfl
theorem imulh (e : Enc) : Statement (.imulh e) := rfl
theorem imad (e : Enc) : Statement (.imad e) := rfl
theorem imin (e : Enc) : Statement (.imin e) := rfl
theorem iminF32 (f : Short) : Statement (.iminF32 f) := rfl
theorem imax (e : Enc) : Statement (.imax e) := rfl
theorem imaxF32 (f : Short) : Statement (.imaxF32 f) := rfl
theorem iabs (e : Enc) : Statement (.iabs e) := rfl
theorem iabsF32 (f : Short) : Statement (.iabsF32 f) := rfl
theorem ineg (e : Enc) : Statement (.ineg e) := rfl
theorem inegF32 (f : Short) : Statement (.inegF32 f) := rfl
theorem lea (e : Enc) : Statement (.lea e) := rfl
theorem icmp (e : Enc) : Statement (.icmp e) := rfl
theorem sel (e : Enc) : Statement (.sel e) := rfl
theorem and (e : Enc) : Statement (.and e) := rfl
theorem andF32 (f : Short) : Statement (.andF32 f) := rfl
theorem or (e : Enc) : Statement (.or e) := rfl
theorem orF32 (f : Short) : Statement (.orF32 f) := rfl
theorem xor (e : Enc) : Statement (.xor e) := rfl
theorem xorF32 (f : Short) : Statement (.xorF32 f) := rfl
theorem andn (e : Enc) : Statement (.andn e) := rfl
theorem andnF32 (f : Short) : Statement (.andnF32 f) := rfl
theorem not (e : Enc) : Statement (.not e) := rfl
theorem notF32 (f : Short) : Statement (.notF32 f) := rfl
theorem shl (e : Enc) : Statement (.shl e) := rfl
theorem shlF32 (f : Short) : Statement (.shlF32 f) := rfl
theorem shr (e : Enc) : Statement (.shr e) := rfl
theorem shrF32 (f : Short) : Statement (.shrF32 f) := rfl
theorem sar (e : Enc) : Statement (.sar e) := rfl
theorem sarF32 (f : Short) : Statement (.sarF32 f) := rfl
theorem rotl (e : Enc) : Statement (.rotl e) := rfl
theorem popc (e : Enc) : Statement (.popc e) := rfl
theorem clz (e : Enc) : Statement (.clz e) := rfl
theorem ctz (e : Enc) : Statement (.ctz e) := rfl
theorem brev (e : Enc) : Statement (.brev e) := rfl
theorem bfe (e : Enc) : Statement (.bfe e) := rfl
theorem bfi (e : Enc) : Statement (.bfi e) := rfl
theorem bperm (e : Enc) : Statement (.bperm e) := rfl
theorem fadd (e : Enc) : Statement (.fadd e) := rfl
theorem faddF32 (f : Short) : Statement (.faddF32 f) := rfl
theorem fsub (e : Enc) : Statement (.fsub e) := rfl
theorem fsubF32 (f : Short) : Statement (.fsubF32 f) := rfl
theorem fmul (e : Enc) : Statement (.fmul e) := rfl
theorem fmulF32 (f : Short) : Statement (.fmulF32 f) := rfl
theorem ffma (e : Enc) : Statement (.ffma e) := rfl
theorem fmin (e : Enc) : Statement (.fmin e) := rfl
theorem fminF32 (f : Short) : Statement (.fminF32 f) := rfl
theorem fmax (e : Enc) : Statement (.fmax e) := rfl
theorem fmaxF32 (f : Short) : Statement (.fmaxF32 f) := rfl
theorem fabs (e : Enc) : Statement (.fabs e) := rfl
theorem fabsF32 (f : Short) : Statement (.fabsF32 f) := rfl
theorem fneg (e : Enc) : Statement (.fneg e) := rfl
theorem fnegF32 (f : Short) : Statement (.fnegF32 f) := rfl
theorem fcmp (e : Enc) : Statement (.fcmp e) := rfl
theorem fclass (e : Enc) : Statement (.fclass e) := rfl
theorem frint (e : Enc) : Statement (.frint e) := rfl
theorem fdiv (e : Enc) : Statement (.fdiv e) := rfl
theorem fsqrt (e : Enc) : Statement (.fsqrt e) := rfl
theorem fdot2 (e : Enc) : Statement (.fdot2 e) := rfl
theorem frcp (e : Enc) : Statement (.frcp e) := rfl
theorem frsq (e : Enc) : Statement (.frsq e) := rfl
theorem fexp2 (e : Enc) : Statement (.fexp2 e) := rfl
theorem flog2 (e : Enc) : Statement (.flog2 e) := rfl
theorem fsin (e : Enc) : Statement (.fsin e) := rfl
theorem fcos (e : Enc) : Statement (.fcos e) := rfl
theorem ftanh (e : Enc) : Statement (.ftanh e) := rfl
theorem rand (e : Enc) : Statement (.rand e) := rfl
theorem cvt (e : Enc) : Statement (.cvt e) := rfl
theorem pack (e : Enc) : Statement (.pack e) := rfl
theorem unpack (e : Enc) : Statement (.unpack e) := rfl
theorem mxenc (e : Enc) : Statement (.mxenc e) := rfl
theorem mxdec (e : Enc) : Statement (.mxdec e) := rfl
theorem ixenc (e : Enc) : Statement (.ixenc e) := rfl
theorem ixdec (e : Enc) : Statement (.ixdec e) := rfl
theorem kand (e : Enc) : Statement (.kand e) := rfl
theorem kandF32 (f : Short) : Statement (.kandF32 f) := rfl
theorem kor (e : Enc) : Statement (.kor e) := rfl
theorem korF32 (f : Short) : Statement (.korF32 f) := rfl
theorem kxor (e : Enc) : Statement (.kxor e) := rfl
theorem kxorF32 (f : Short) : Statement (.kxorF32 f) := rfl
theorem knot (e : Enc) : Statement (.knot e) := rfl
theorem knotF32 (f : Short) : Statement (.knotF32 f) := rfl
theorem kmov (e : Enc) : Statement (.kmov e) := rfl
theorem kmovF32 (f : Short) : Statement (.kmovF32 f) := rfl
theorem kpop (e : Enc) : Statement (.kpop e) := rfl
theorem kfirst (e : Enc) : Statement (.kfirst e) := rfl
theorem shfl (e : Enc) : Statement (.shfl e) := rfl
theorem bcast (e : Enc) : Statement (.bcast e) := rfl
theorem red (e : Enc) : Statement (.red e) := rfl
theorem scan (e : Enc) : Statement (.scan e) := rfl
theorem vote (e : Enc) : Statement (.vote e) := rfl
theorem matchOp (e : Enc) : Statement (.matchOp e) := rfl
theorem mov (e : Enc) : Statement (.mov e) := rfl
theorem movi (e : Enc) : Statement (.movi e) := rfl
theorem v2s (e : Enc) : Statement (.v2s e) := rfl
theorem s2v (e : Enc) : Statement (.s2v e) := rfl
theorem movsr (e : Enc) : Statement (.movsr e) := rfl
theorem movsw (e : Enc) : Statement (.movsw e) := rfl
theorem bra (e : Enc) : Statement (.bra e) := rfl
theorem jmp (e : Enc) : Statement (.jmp e) := rfl
theorem call (e : Enc) : Statement (.call e) := rfl
theorem ret (e : Enc) : Statement (.ret e) := rfl
theorem join (e : Enc) : Statement (.join e) := rfl
theorem leave (e : Enc) : Statement (.leave e) := rfl
theorem wait (e : Enc) : Statement (.wait e) := rfl
theorem loop (e : Enc) : Statement (.loop e) := rfl
theorem exit (e : Enc) : Statement (.exit e) := rfl
theorem nop (e : Enc) : Statement (.nop e) := rfl
theorem trap (e : Enc) : Statement (.trap e) := rfl
theorem tret (e : Enc) : Statement (.tret e) := rfl
theorem bkpt (e : Enc) : Statement (.bkpt e) := rfl
theorem yield (e : Enc) : Statement (.yield e) := rfl
theorem ld (e : Enc) : Statement (.ld e) := rfl
theorem st (e : Enc) : Statement (.st e) := rfl
theorem prf (e : Enc) : Statement (.prf e) := rfl
theorem cfl (e : Enc) : Statement (.cfl e) := rfl
theorem cinv (e : Enc) : Statement (.cinv e) := rfl
theorem acp (e : Enc) : Statement (.acp e) := rfl
theorem stage (e : Enc) : Statement (.stage e) := rfl
theorem mbinit (e : Enc) : Statement (.mbinit e) := rfl
theorem mbarr (e : Enc) : Statement (.mbarr e) := rfl
theorem mbexp (e : Enc) : Statement (.mbexp e) := rfl
theorem mbwait (e : Enc) : Statement (.mbwait e) := rfl
theorem mbtest (e : Enc) : Statement (.mbtest e) := rfl
theorem atom (e : Enc) : Statement (.atom e) := rfl
theorem mred (e : Enc) : Statement (.mred e) := rfl
theorem fence (e : Enc) : Statement (.fence e) := rfl
theorem qfence (e : Enc) : Statement (.qfence e) := rfl
theorem talloc (e : Enc) : Statement (.talloc e) := rfl
theorem tdrop (e : Enc) : Statement (.tdrop e) := rfl
theorem tquery (e : Enc) : Statement (.tquery e) := rfl
theorem textend (e : Enc) : Statement (.textend e) := rfl
theorem consumingReadComplete (blk id : Nat) : Statement (.consumingReadComplete blk id) := rfl
theorem mma (e : Enc) : Statement (.mma e) := rfl
theorem mmas (e : Enc) : Statement (.mmas e) := rfl
theorem mmaw (e : Enc) : Statement (.mmaw e) := rfl
theorem aclr (e : Enc) : Statement (.aclr e) := rfl
theorem ald (e : Enc) : Statement (.ald e) := rfl
theorem adrain (e : Enc) : Statement (.adrain e) := rfl
theorem msync (e : Enc) : Statement (.msync e) := rfl
theorem matrixEntryStart (core : Nat) : Statement (.matrixEntryStart core) := rfl
theorem matrixEntryComplete (core : Nat) : Statement (.matrixEntryComplete core) := rfl
theorem put (e : Enc) : Statement (.put e) := rfl
theorem get (e : Enc) : Statement (.get e) := rfl
theorem patom (e : Enc) : Statement (.patom e) := rfl
theorem post (e : Enc) : Statement (.post e) := rfl
theorem pcount (e : Enc) : Statement (.pcount e) := rfl
theorem rpush (e : Enc) : Statement (.rpush e) := rfl
theorem rpop (e : Enc) : Statement (.rpop e) := rfl
theorem rwait (e : Enc) : Statement (.rwait e) := rfl
theorem rcur (e : Enc) : Statement (.rcur e) := rfl
theorem launch (e : Enc) : Statement (.launch e) := rfl
theorem evsub (e : Enc) : Statement (.evsub e) := rfl
theorem evwait (e : Enc) : Statement (.evwait e) := rfl
theorem svc (e : Enc) : Statement (.svc e) := rfl
theorem time (e : Enc) : Statement (.time e) := rfl
theorem clk (e : Enc) : Statement (.clk e) := rfl
theorem ctxq (e : Enc) : Statement (.ctxq e) := rfl
theorem halt (e : Enc) : Statement (.halt e) := rfl
theorem dgread (e : Enc) : Statement (.dgread e) := rfl
theorem longLatencyResult (wid id : Nat) : Statement (.longLatencyResult wid id) := rfl
theorem asyncFaultDelivery (blk : Nat) : Statement (.asyncFaultDelivery blk) := rfl
theorem blockAdmission (grid bid core : Nat) : Statement (.blockAdmission grid bid core) := rfl
theorem blockStart (blk : Nat) : Statement (.blockStart blk) := rfl
theorem blockSave (blk : Nat) : Statement (.blockSave blk) := rfl
theorem blockRestore (grid bid : Nat) : Statement (.blockRestore grid bid) := rfl
theorem warpReadmission (core : Nat) : Statement (.warpReadmission core) := rfl
theorem hang (slot : Nat) : Statement (.hang slot) := rfl
theorem itineraryCopyIssue (blk : Nat) : Statement (.itineraryCopyIssue blk) := rfl
theorem itineraryCopyLanding (blk copy granule : Nat) : Statement (.itineraryCopyLanding blk copy granule) := rfl
theorem acpCopyLanding (wid : Nat) : Statement (.acpCopyLanding wid) := rfl
theorem aliasSectorWrite (window : Nat) : Statement (.aliasSectorWrite window) := rfl
theorem aliasSectorRead (window sector : Nat) : Statement (.aliasSectorRead window sector) := rfl
theorem orderedOperationPerform (point : PerfPoint) : Statement (.orderedOperationPerform point) := rfl
theorem engineRingClaim (job : Nat) : Statement (.engineRingClaim job) := rfl
theorem serialisedReexecution (blk : Nat) : Statement (.serialisedReexecution blk) := rfl
theorem shadowRun (grid bid : Nat) : Statement (.shadowRun grid bid) := rfl
theorem clusterStop (core : Nat) : Statement (.clusterStop core) := rfl
theorem hostSubmission (m : Msg) : Statement (.hostSubmission m) := rfl
theorem lantern (d : Datagram) : Statement (.lantern d) := rfl
theorem hyturEventMessage (d : Datagram) (att : Option Attach) : Statement (.hyturEventMessage d att) := rfl
theorem retransmitGapTimeout (origin : Nat) : Statement (.retransmitGapTimeout origin) := rfl
theorem retransmitRequest (d : Datagram) : Statement (.retransmitRequest d) := rfl
theorem suspicion (member : Nat) : Statement (.suspicion member) := rfl
theorem callMessage (d : Datagram) (att : Attach) : Statement (.callMessage d att) := rfl
theorem answer (d : Datagram) (att : Attach) : Statement (.answer d att) := rfl
theorem decide (d : Datagram) (att : Attach) : Statement (.decide d att) := rfl
theorem confirm (d : Datagram) : Statement (.confirm d) := rfl
theorem ask (d : Datagram) : Statement (.ask d) := rfl
theorem snapshot (d : Datagram) : Statement (.snapshot d) := rfl
theorem ready (d : Datagram) : Statement (.ready d) := rfl
theorem abandon (d : Datagram) : Statement (.abandon d) := rfl
theorem ptpMessage (m : PtpMsg) : Statement (.ptpMessage m) := rfl
theorem bind (m : Msg) : Statement (.bind m) := rfl
theorem unbind (m : Msg) : Statement (.unbind m) := rfl
theorem reset (m : Msg) : Statement (.reset m) := rfl
theorem pacedPacketSend (q : Nat) : Statement (.pacedPacketSend q) := rfl
theorem rdmaWrite (p : Packet) : Statement (.rdmaWrite p) := rfl
theorem rdmaReadRequest (p : Packet) : Statement (.rdmaReadRequest p) := rfl
theorem atomicFetchAndAdd (p : Packet) : Statement (.atomicFetchAndAdd p) := rfl
theorem atomicCompareAndSwap (p : Packet) : Statement (.atomicCompareAndSwap p) := rfl
theorem taggedSend (p : Packet) : Statement (.taggedSend p) := rfl
theorem readResponse (p : Packet) : Statement (.readResponse p) := rfl
theorem acknowledge (p : Packet) : Statement (.acknowledge p) := rfl
theorem atomicAcknowledge (p : Packet) : Statement (.atomicAcknowledge p) := rfl
theorem nak (p : Packet) : Statement (.nak p) := rfl
theorem rnrNak (p : Packet) : Statement (.rnrNak p) := rfl
theorem rnrResend (q : Nat) : Statement (.rnrResend q) := rfl
theorem retransmitTimeout (q : Nat) : Statement (.retransmitTimeout q) := rfl
theorem cnp (p : Packet) : Statement (.cnp p) := rfl
theorem congestionPeriod (q : Nat) : Statement (.congestionPeriod q) := rfl
theorem invalidateRange (m : Msg) : Statement (.invalidateRange m) := rfl
theorem invalidateContext (m : Msg) : Statement (.invalidateContext m) := rfl
theorem windowOff (m : Msg) : Statement (.windowOff m) := rfl
theorem windowOn (m : Msg) : Statement (.windowOn m) := rfl
theorem injectDigest (m : Msg) : Statement (.injectDigest m) := rfl
theorem claim (m : Msg) : Statement (.claim m) := rfl
theorem release (m : Msg) : Statement (.release m) := rfl
theorem comparator (m : Msg) : Statement (.comparator m) := rfl
theorem watchpoint (m : Msg) : Statement (.watchpoint m) := rfl
theorem resume (m : Msg) : Statement (.resume m) := rfl
theorem step (m : Msg) : Statement (.step m) := rfl
theorem sampling (m : Msg) : Statement (.sampling m) := rfl
theorem timeSeries (m : Msg) : Statement (.timeSeries m) := rfl
theorem setBudget (m : Msg) : Statement (.setBudget m) := rfl
theorem attestation (m : Msg) : Statement (.attestation m) := rfl
theorem smbusBudgetWrite (watts : Nat) : Statement (.smbusBudgetWrite watts) := rfl
theorem powerGrant (demand : List Nat) : Statement (.powerGrant demand) := rfl
theorem scrub (loc : Locus) : Statement (.scrub loc) := rfl
theorem bootImageSend (p : Packet) : Statement (.bootImageSend p) := rfl
theorem bypass (bit : Bool) : Statement (.bypass bit) := rfl
theorem dumpaddr (value : BitVec 48) : Statement (.dumpaddr value) := rfl
theorem instrFetch (addr : Addr54) : Statement (.instrFetch addr) := rfl
theorem ackCoalescing (q : Nat) : Statement (.ackCoalescing q) := rfl
theorem ptpSyncInterval (port : Nat) : Statement (.ptpSyncInterval port) := rfl
theorem nopF32 : Statement .nopF32 := rfl
theorem timeSlice : Statement .timeSlice := rfl
theorem floorPublication : Statement .floorPublication := rfl
theorem pcSample : Statement .pcSample := rfl
theorem counterLatch : Statement .counterLatch := rfl
theorem lanternEmit : Statement .lanternEmit := rfl
theorem eventDelivery : Statement .eventDelivery := rfl
theorem decideTimeout : Statement .decideTimeout := rfl
theorem rollCallRetry : Statement .rollCallRetry := rfl
theorem rollCallFence : Statement .rollCallFence := rfl
theorem joinerTimeout : Statement .joinerTimeout := rfl
theorem founding : Statement .founding := rfl
theorem clockUnlockFence : Statement .clockUnlockFence := rfl
theorem bindDelay : Statement .bindDelay := rfl
theorem resetN : Statement .resetN := rfl
theorem freezeN : Statement .freezeN := rfl
theorem freeze : Statement .freeze := rfl
theorem idcode : Statement .idcode := rfl
theorem dumpdata : Statement .dumpdata := rfl
theorem illegalInstruction : Statement .illegalInstruction := rfl
theorem rejoinAsk : Statement .rejoinAsk := rfl

end Sys2Proof.Laws.Form
end

