-- ==== Sys2Proof/Tests/Slice0.lean ====
section
/-!
SUPPORT. Tests: words of the encodings, ill-formed terms, one step of instructions on small states with results worked out from the
rules, and for the statements of Certificates/Slice0 the states and operands that meet their hypotheses.
-/

open Sys2Proof Sys2Proof.Machine

namespace Sys2Proof.Tests

set_option Elab.async false

/-! ## Words (R18 to R43) -/
theorem test_word_1_iadd : decodeTableWord 64 0b000000_0000_0000_000000000_000000010_000000001_000000011_0000_000000_00_01 = some (.iadd { scope := .lane, sel := 0, look := 0, modi := 0, dst := 3, a := 1, b := 2, c := 0, lit := none }) := by decide +kernel
theorem test_word_2_iadd : decodeTableWord 96 0b11111111111111111111111111111111_000000_0000_0010_000000000_000000000_000000001_000000011_0000_000000_01_10 = some (.iadd { scope := .warp, sel := 2, look := 0, modi := 0, dst := 3, a := 1, b := 0, c := 0, lit := some 0xFFFFFFFF }) := by decide +kernel
theorem test_word_3_iaddF32 : decodeTableWord 32 0b000111_000110_000101_0000_000000_00_00 = some (.iaddF32 { scope := .lane, dst := 5, a := 6, b := 7 }) := by decide +kernel
theorem test_word_4_and : decodeTableWord 64 0b000000_0000_0000_000000000_000000111_000001000_000001001_0001_000000_11_01 = some (.and { scope := .block, sel := 0, look := 0, modi := 0, dst := 9, a := 8, b := 7, c := 0, lit := none }) := by decide +kernel
theorem test_word_5_ffma : decodeTableWord 64 0b000000_0000_0100_000000011_000000010_000000001_000001010_0010_000011_10_01 = some (.ffma { scope := .set, sel := 4, look := 0, modi := 0, dst := 10, a := 1, b := 2, c := 3, lit := none }) := by decide +kernel
theorem test_word_6_frcp : decodeTableWord 64 0b000000_0101_0000_000000000_000000000_000000111_000000100_0011_000000_00_01 = some (.frcp { scope := .lane, sel := 0, look := 5, modi := 0, dst := 4, a := 7, b := 0, c := 0, lit := none }) := by decide +kernel
theorem test_word_7_fadd : decodeTableWord 64 0b101010_0000_0000_000000000_000000110_000000101_000000100_0010_000000_00_01 = some (.fadd { scope := .lane, sel := 0, look := 0, modi := 42, dst := 4, a := 5, b := 6, c := 0, lit := none }) := by decide +kernel
theorem test_word_8_cvt : decodeTableWord 64 0b000000_0000_0000_000000000_000000000_000001000_000000100_0100_000000_00_01 = some (.cvt { scope := .lane, sel := 0, look := 0, modi := 0, dst := 4, a := 8, b := 0, c := 0, lit := none }) := by decide +kernel
theorem test_word_9_kand : decodeTableWord 64 0b000000_0000_1100_000000000_000000000_000000001_000000010_0101_000000_00_01 = some (.kand { scope := .lane, sel := 12, look := 0, modi := 0, dst := 2, a := 1, b := 0, c := 0, lit := none }) := by decide +kernel
theorem test_word_10_movi : decodeTableWord 96 0b00010010001101000101011001111000_000000_0000_0000_000000000_000000000_000000000_011111111_0110_000001_00_10 = some (.movi { scope := .lane, sel := 0, look := 0, modi := 0, dst := 255, a := 0, b := 0, c := 0, lit := some 0x12345678 }) := by decide +kernel
theorem test_word_11_bra : decodeTableWord 96 0b11111111111111111111111111111110_000000_0000_0000_000000000_000000000_000000011_000000000_0111_000000_00_10 = some (.bra { scope := .lane, sel := 0, look := 0, modi := 0, dst := 0, a := 3, b := 0, c := 0, lit := some 0xFFFFFFFE }) := by decide +kernel
theorem test_word_12_nopF32 : decodeTableWord 32 0b000000_000000_000000_0111_001001_00_00 = some (.nopF32) := by decide +kernel
theorem test_word_13_ld : decodeTableWord 64 0b000000_1111_0000_000000000_000000000_000000100_000010000_1000_000000_00_01 = some (.ld { scope := .lane, sel := 0, look := 15, modi := 0, dst := 16, a := 4, b := 0, c := 0, lit := none }) := by decide +kernel
theorem test_word_14_stage : decodeTableWord 64 0b000000_0000_0000_000000000_000000000_000000101_000000000_1001_000001_01_01 = some (.stage { scope := .warp, sel := 0, look := 0, modi := 0, dst := 0, a := 5, b := 0, c := 0, lit := none }) := by decide +kernel
theorem test_word_15_mred : decodeTableWord 64 0b000000_0000_0000_000000000_000010100_000000110_000000000_1010_000001_00_01 = some (.mred { scope := .lane, sel := 0, look := 0, modi := 0, dst := 0, a := 6, b := 20, c := 0, lit := none }) := by decide +kernel
theorem test_word_16_talloc : decodeTableWord 64 0b000000_0000_0000_000000000_011111111_000000010_000011110_1011_000000_11_01 = some (.talloc { scope := .block, sel := 0, look := 0, modi := 0, dst := 30, a := 2, b := 255, c := 0, lit := none }) := by decide +kernel
theorem test_word_17_mma : decodeTableWord 64 0b000000_0000_0000_001111111_000000011_000000010_000000001_1100_000000_11_01 = some (.mma { scope := .block, sel := 0, look := 0, modi := 0, dst := 1, a := 2, b := 3, c := 127, lit := none }) := by decide +kernel
theorem test_word_18_pcount : decodeTableWord 64 0b000000_0000_0000_000001001_011111111_000000111_000000000_1101_000100_01_01 = some (.pcount { scope := .warp, sel := 0, look := 0, modi := 0, dst := 0, a := 7, b := 255, c := 9, lit := none }) := by decide +kernel
theorem test_word_19_time : decodeTableWord 64 0b000000_0000_0000_000000000_000000000_000000000_000000110_1110_000100_00_01 = some (.time { scope := .lane, sel := 0, look := 0, modi := 0, dst := 6, a := 0, b := 0, c := 0, lit := none }) := by decide +kernel

/-- Why a check refuses. -/
def why {α : Type} : Except DecodeErr α → Option DecodeErr
  | .error x => some x
  | .ok _ => none

/-! ## Terms that the fetch unit refuses, one for each check (R46) -/

theorem test_refused_scope : why (Instr.check (.shfl { scope := .lane, sel := 0, look := 0, modi := 0, dst := 1, a := 2, b := 3, c := 0, lit := none })) = some .scope ∧ Instr.wf (.shfl { scope := .lane, sel := 0, look := 0, modi := 0, dst := 1, a := 2, b := 3, c := 0, lit := none }) = false := by decide +kernel
theorem test_refused_selector : why (Instr.check (.iadd { scope := .lane, sel := 14, look := 0, modi := 0, dst := 3, a := 1, b := 2, c := 0, lit := none })) = some .selector ∧ Instr.wf (.iadd { scope := .lane, sel := 14, look := 0, modi := 0, dst := 3, a := 1, b := 2, c := 0, lit := none }) = false := by decide +kernel
theorem test_refused_lookahead : why (Instr.check (.iadd { scope := .lane, sel := 0, look := 1, modi := 0, dst := 3, a := 1, b := 2, c := 0, lit := none })) = some .lookahead ∧ Instr.wf (.iadd { scope := .lane, sel := 0, look := 1, modi := 0, dst := 3, a := 1, b := 2, c := 0, lit := none }) = false := by decide +kernel
theorem test_refused_modifier : why (Instr.check (.fadd { scope := .lane, sel := 0, look := 0, modi := 48, dst := 3, a := 1, b := 2, c := 0, lit := none })) = some .modifier ∧ Instr.wf (.fadd { scope := .lane, sel := 0, look := 0, modi := 48, dst := 3, a := 1, b := 2, c := 0, lit := none }) = false := by decide +kernel
theorem test_refused_noLiteral : why (Instr.check (.iabs { scope := .lane, sel := 0, look := 0, modi := 0, dst := 3, a := 1, b := 0, c := 0, lit := some 0x0 })) = some .noLiteral ∧ Instr.wf (.iabs { scope := .lane, sel := 0, look := 0, modi := 0, dst := 3, a := 1, b := 0, c := 0, lit := some 0x0 }) = false := by decide +kernel
theorem test_refused_unusedField : why (Instr.check (.iadd { scope := .lane, sel := 0, look := 0, modi := 0, dst := 3, a := 1, b := 2, c := 1, lit := none })) = some .unusedField ∧ Instr.wf (.iadd { scope := .lane, sel := 0, look := 0, modi := 0, dst := 3, a := 1, b := 2, c := 1, lit := none }) = false := by decide +kernel
theorem test_refused_replacedField : why (Instr.check (.iadd { scope := .lane, sel := 0, look := 0, modi := 0, dst := 3, a := 1, b := 2, c := 0, lit := some 0x7 })) = some .unusedField ∧ Instr.wf (.iadd { scope := .lane, sel := 0, look := 0, modi := 0, dst := 3, a := 1, b := 2, c := 0, lit := some 0x7 }) = false := by decide +kernel
theorem test_refused_fieldRange : why (Instr.check (.kand { scope := .lane, sel := 0, look := 0, modi := 0, dst := 12, a := 1, b := 0, c := 0, lit := none })) = some .fieldRange ∧ Instr.wf (.kand { scope := .lane, sel := 0, look := 0, modi := 0, dst := 12, a := 1, b := 0, c := 0, lit := none }) = false := by decide +kernel
theorem test_refused_oddPair : why (Instr.check (.ld { scope := .lane, sel := 0, look := 0, modi := 0, dst := 16, a := 5, b := 0, c := 0, lit := none })) = some .fieldRange ∧ Instr.wf (.ld { scope := .lane, sel := 0, look := 0, modi := 0, dst := 16, a := 5, b := 0, c := 0, lit := none }) = false := by decide +kernel
theorem test_refused_special : why (Instr.check (.movsr { scope := .lane, sel := 0, look := 0, modi := 0, dst := 1, a := 1, b := 0, c := 0, lit := none })) = some .special ∧ Instr.wf (.movsr { scope := .lane, sel := 0, look := 0, modi := 0, dst := 1, a := 1, b := 0, c := 0, lit := none }) = false := by decide +kernel
theorem test_refused_readOnly : why (Instr.check (.movsw { scope := .lane, sel := 0, look := 0, modi := 0, dst := 1, a := 1, b := 0, c := 0, lit := none })) = some .special ∧ Instr.wf (.movsw { scope := .lane, sel := 0, look := 0, modi := 0, dst := 1, a := 1, b := 0, c := 0, lit := none }) = false := by decide +kernel
theorem test_refused_literalRequired : why (Instr.check (.movi { scope := .lane, sel := 0, look := 0, modi := 0, dst := 255, a := 0, b := 0, c := 0, lit := none })) = some .literalRequired ∧ Instr.wf (.movi { scope := .lane, sel := 0, look := 0, modi := 0, dst := 255, a := 0, b := 0, c := 0, lit := none }) = false := by decide +kernel
theorem test_refused_literalValue : why (Instr.check (.mmaw { scope := .block, sel := 0, look := 0, modi := 0, dst := 1, a := 2, b := 3, c := 0, lit := some 0xFFFFFFFF })) = some .literalValue ∧ Instr.wf (.mmaw { scope := .block, sel := 0, look := 0, modi := 0, dst := 1, a := 2, b := 3, c := 0, lit := some 0xFFFFFFFF }) = false := by decide +kernel
theorem test_refused_overlap : why (Instr.check (.mxenc { scope := .lane, sel := 0, look := 0, modi := 3, dst := 10, a := 20, b := 12, c := 0, lit := none })) = some .overlap ∧ Instr.wf (.mxenc { scope := .lane, sel := 0, look := 0, modi := 3, dst := 10, a := 20, b := 12, c := 0, lit := none }) = false := by decide +kernel
theorem test_refused_lengthCode : why (decode (bytesOf 12 3)) = some .lengthCode := by decide +kernel
theorem test_refused_unassigned : why (decode (bytesOf 12 0xC1)) = some .unassigned := by decide +kernel
theorem test_refused_noShortForm : why (decode (bytesOf 4 0x30)) = some .noShortForm := by decide +kernel
theorem test_refused_shortNop : why (decode (bytesOf 4 0x1C94)) = some .shortNop := by decide +kernel
theorem test_refused_truncated : why (decode (bytesOf 7 0x1)) = some .truncated := by decide +kernel

/-! ## Small states -/

/-- An F64 instruction's fields at lane scope. -/
def en (modi dst a b c : Nat) : Enc :=
  { scope := .lane, sel := 0, look := 0, modi := BitVec.ofNat 6 modi, dst := BitVec.ofNat 9 dst, a := BitVec.ofNat 9 a, b := BitVec.ofNat 9 b, c := BitVec.ofNat 9 c, lit := none }

/-- An F96 instruction's fields at lane scope. -/
def el (modi dst a b c : Nat) (x : Word) : Enc := { en modi dst a b c with lit := some x }

/-- The same at another scope. -/
def at_ (sc : Scope) (e : Enc) : Enc := { e with scope := sc }

/-- The fields of an F32 instruction at lane scope. -/
def sh (dst a b : Nat) : Short := { scope := .lane, dst := BitVec.ofNat 6 dst, a := BitVec.ofNat 6 a, b := BitVec.ofNat 6 b }

/-- A record: one warp of 16 lanes, 256 registers, 4 accumulator tiles' worth of x registers, 64 KiB of plain scratchpad, pool 0 of four tiles of 64 KiB and
pool 1 of four tiles of 1 KiB behind it, 64 lane-private bytes per lane. -/
def record : Attach := BitVec.ofNat 4096 (mkBody [(0, 2, 1), (8, 8, 0x100000), (0x20, 4, 1), (0x24, 4, 1), (0x28, 4, 1), (0x2D, 1, 1), (0x2E, 1, 4), (0x30, 2, 256),
  (0x90, 4, 0x10000), (0x94, 4, 64), (0xA4, 4, 0xFFFFFFFF), (0x100, 16, 0x20000 + 16 * 2 ^ 32 + 2 ^ 40 + 4 * 2 ^ 48), (0x110, 16, 0x60000 + 10 * 2 ^ 32 + 2 ^ 40 + 4 * 2 ^ 48)])

/-- A block of that record on core 0, with free tiles 1 and 2 in pool 1. -/
def block : Block := { ctx := 0, record := record, width := 16, core := 0, wids := [0], psize := 0x61000, started := true, free := [(12, [1, 2])] }

/-- One warp, whose turn it is, of that block: v1 = 0x80000001, v2 = 0xFFFFFFFF, v4 = 7 in lanes 0 and 1, s2 = 0x1_0000_0003, s4 = 0x100, k0 = {0}. -/
def stand : State :=
  let s := State.reset.placeFresh []
  { s with
    cur := some 0
    agenda := []
    blocks := [(0, block)]
    warps := s.warps.map fun (e : Nat × Warp) => (e.1, (((((((e.2.vset 1 0 0x80000001).vset 2 0 0xFFFFFFFF).vset 4 0 7).vset 4 1 7).sset 2 0x100000003).sset 4 0x100).kset 16 0 1)) }

/-- The same with the warp, the block or the context changed. -/
def standW (f : Warp → Warp) : State := stand.updWarp 0 f
def standB (f : Block → Block) : State := stand.updBlock 0 f
def standC (f : Ctx → Ctx) : State := stand.updCtx 0 f
def member (s : State) : State := s.updHytur fun h => { h with tables := { h.tables with chips := [(0, { st := .member, oseq := 0 }), (1, { st := .member, oseq := 0 }), (2, { st := .member, oseq := 0 })] } }

/-- Whether an instruction issues (`Issues`, `IssuesAs`), and what holds of the issue and of the state in which its effect acts. -/
def issuing (s : State) (i : Instr) (p : Cx → State → Bool := fun _ _ => true) : Bool :=
  match s.beginOf i with
  | .go cx t _ => cx.some_ && p cx t
  | _ => false

/-- Which says what it is meant to say. -/
theorem issuing_spec (s : State) (i : Instr) (p : Cx → State → Bool) (h : issuing s i p = true) : ∃ cx t, IssuesAs s i cx t ∧ Issues s i cx ∧ p cx t = true := by
  unfold issuing at h
  split at h
  · next cx t back hb =>
    simp only [Bool.and_eq_true] at h
    exact ⟨cx, t, ⟨back, hb, h.1⟩, ⟨t, back, hb, h.1⟩, h.2⟩
  · cases h

/-- Something of the state after an instruction. -/
def after {α : Type} (s : State) (i : Instr) (f : State → α) : Option α :=
  match exec i s with
  | .next u => some (f u)
  | _ => none

/-- Vector register 3 of lane 0 after an instruction. -/
def v3 (i : Instr) : Option Word := after stand i fun u => (u.warpD 0).vget 3 0

/-- Scalar register 3 after an instruction. -/
def s3 (i : Instr) : Option DWord := after stand i fun u => (u.warpD 0).sget 3

/-- Lane 0's bit of k3 after an instruction. -/
def k3 (i : Instr) : Option Bool := after stand i fun u => inSet ((u.warpD 0).kget 3) 0

/-! ## Registers: classes 0 to 6 -/

/-- R88 on 0x80000001 and 0xFFFFFFFF, or 7. -/
theorem test_integers : [v3 (.iadd (en 0 3 1 2 0)), v3 (.isub (en 0 3 1 2 0)), v3 (.imul (en 0 3 1 2 0)), v3 (.imulh (en 0 3 1 2 0)), v3 (.imulh (en 8 3 1 2 0)),
    v3 (.imad (en 0 3 1 2 4)), v3 (.imin (en 0 3 1 2 0)), v3 (.imax (en 0 3 1 2 0)), v3 (.iabs (en 0 3 1 0 0)), v3 (.ineg (en 0 3 1 0 0)),
    v3 (.lea (en 2 3 1 4 0)), v3 (.isub (en 16 3 1 4 0)), v3 (.sel (en 0 3 1 2 0)), v3 (.iaddF32 (sh 3 1 2)), v3 (.isubF32 (sh 3 1 2)), v3 (.imulF32 (sh 3 1 2)),
    v3 (.iminF32 (sh 3 1 2)), v3 (.imaxF32 (sh 3 1 2)), v3 (.iabsF32 (sh 3 1 0)), v3 (.inegF32 (sh 3 1 0)), v3 (.iadd (el 0 3 1 0 0 0xFFFFFFFF))] =
  [some 0x80000000, some 0x80000002, some 0x7FFFFFFF, some 0, some 0x80000000, some 0x80000006, some 0x80000001, some 0xFFFFFFFF, some 0x7FFFFFFF, some 0x7FFFFFFF,
    some 0x8000001D, some 0x80000000, some 0x80000001, some 0x80000000, some 0x80000002, some 0x7FFFFFFF, some 0x80000001, some 0xFFFFFFFF, some 0x7FFFFFFF, some 0x7FFFFFFF,
    some 0x80000000] := by decide +kernel

/-- R87, R88: ICMP .lt signed and unsigned; a scalar form. -/
theorem test_compare : k3 (.icmp (en 2 3 1 2 0)) = some true ∧ k3 (.icmp (en 2 3 2 1 0)) = some false ∧ s3 (.iadd (en 32 3 2 4 0)) = some 0x100000103 := by decide +kernel

/-- Hypotheses of IntegerInstructions: vector and scalar forms, .u off where R87 gives none. -/
theorem witness_IntegerInstructions :
    ([Instr.iadd (en 24 3 1 2 0), .iadd (en 56 3 2 4 0), .isub (en 0 3 1 2 0), .imul (en 0 3 1 2 0), .imulh (en 8 3 1 2 0), .imad (en 0 3 1 2 4), .imin (en 0 3 1 2 0), .imax (en 0 3 1 2 0), .lea (en 7 3 1 2 0),
      .icmp (en 5 3 1 2 0), .icmp (en 32 3 2 4 0), .sel (en 0 3 1 2 0), .sel (en 32 3 2 4 2), .iaddF32 (sh 3 1 2), .isubF32 (sh 3 1 2), .imulF32 (sh 3 1 2), .iminF32 (sh 3 1 2),
      .imaxF32 (sh 3 1 2)].all fun i => issuing stand i) = true ∧
    ([Instr.iabs (en 0 3 1 0 0), .iabs (en 32 3 2 0 0), .ineg (en 16 3 1 0 0), .iabsF32 (sh 3 1 0), .inegF32 (sh 3 1 0)].all fun i =>
      issuing stand i fun cx _ => cx.m / 8 % 2 != 1) = true := by decide +kernel

/-- R90 on 0x80000001 and 0xFFFFFFFF, or 7. -/
theorem test_bits : [v3 (.and (en 0 3 1 4 0)), v3 (.or (en 0 3 1 4 0)), v3 (.xor (en 0 3 1 4 0)), v3 (.andn (en 0 3 2 4 0)), v3 (.not (en 0 3 4 0 0)), v3 (.shl (en 0 3 1 4 0)),
    v3 (.shr (en 0 3 1 4 0)), v3 (.sar (en 0 3 1 4 0)), v3 (.rotl (en 0 3 1 4 0)), v3 (.popc (en 0 3 1 0 0)), v3 (.clz (en 0 3 4 0 0)), v3 (.ctz (en 0 3 4 0 0)), v3 (.brev (en 0 3 4 0 0)),
    v3 (.bfe (el 0 3 1 0 0 0x41C)), v3 (.bfe (el 16 3 1 0 0 0x41C)), v3 (.bperm (el 0 3 1 0 0 0xB3)), v3 (.andF32 (sh 3 1 4)), v3 (.orF32 (sh 3 1 4)), v3 (.xorF32 (sh 3 1 4)),
    v3 (.andnF32 (sh 3 2 4)), v3 (.notF32 (sh 3 4 0)), v3 (.shlF32 (sh 3 1 4)), v3 (.shrF32 (sh 3 1 4)), v3 (.sarF32 (sh 3 1 4))] =
  [some 1, some 0x80000007, some 0x80000006, some 0xFFFFFFF8, some 0xFFFFFFF8, some 0x80, some 0x1000000, some 0xFF000000, some 0xC0, some 2, some 29, some 0, some 0xE0000000,
    some 8, some 0xFFFFFFF8, some 0x101FF80, some 1, some 0x80000007, some 0x80000006, some 0xFFFFFFF8, some 0xFFFFFFF8, some 0x80, some 0x1000000, some 0xFF000000] := by decide +kernel

/-- Hypotheses of BitInstructions, vector and scalar. -/
theorem witness_BitInstructions :
    ([Instr.and (en 0 3 1 2 0), .or (en 32 3 2 4 0), .xor (en 0 3 1 2 0), .andn (en 0 3 1 2 0), .shl (en 0 3 1 4 0), .shr (en 32 3 2 4 0), .sar (en 0 3 1 4 0), .rotl (en 0 3 1 4 0), .not (en 0 3 1 0 0),
      .popc (en 0 3 1 0 0), .clz (en 32 3 2 0 0), .ctz (en 0 3 1 0 0), .brev (en 0 3 1 0 0), .bfe (en 16 3 1 4 0), .bperm (en 0 3 1 4 0), .bfi (en 0 3 1 4 2), .andF32 (sh 3 1 2), .orF32 (sh 3 1 2),
      .xorF32 (sh 3 1 2), .andnF32 (sh 3 1 2), .shlF32 (sh 3 1 2), .shrF32 (sh 3 1 2), .sarF32 (sh 3 1 2), .notF32 (sh 3 1 0)].all fun i => issuing stand i) = true := by decide +kernel

/-- R90: BFI puts the low four bits of 7 at bit 28 of 0xFFFFFFFF. -/
theorem test_bfi : v3 (.bfi (el 0 3 4 0 2 0x41C)) = some 0x7FFFFFFF := by decide +kernel

/-- R109 with k0 = lane 0. -/
theorem test_masks : [k3 (.kand (en 0 3 0 1 0)), k3 (.kor (en 0 3 0 1 0)), k3 (.kxor (en 0 3 0 0 0)), k3 (.knot (en 0 3 0 0 0)), k3 (.kmov (en 0 3 0 0 0)), k3 (.kandF32 (sh 3 0 1)),
    k3 (.korF32 (sh 3 0 1)), k3 (.kxorF32 (sh 3 0 1)), k3 (.knotF32 (sh 3 0 0)), k3 (.kmovF32 (sh 3 0 0))] =
  [some false, some true, some false, some false, some true, some false, some true, some true, some false, some true] ∧
  s3 (.kmov (en 1 3 0 0 0)) = some 1 ∧ k3 (.kmov (en 2 3 2 0 0)) = some true ∧ s3 (.kpop (en 0 3 0 0 0)) = some 1 ∧ s3 (.kfirst (en 0 3 1 0 0)) = some 64 := by decide +kernel

/-- Hypotheses of MaskInstructions, with KMOV's three directions. -/
theorem witness_MaskInstructions :
    ([Instr.kand (en 0 3 1 2 0), .kor (en 0 3 1 2 0), .kxor (en 0 3 1 2 0), .knot (en 0 3 1 0 0), .kpop (en 0 3 0 0 0), .kfirst (en 0 3 0 0 0), .kandF32 (sh 3 1 2), .korF32 (sh 3 1 2), .kxorF32 (sh 3 1 2),
      .knotF32 (sh 3 1 0), .kmovF32 (sh 3 1 0)].all fun i => issuing stand i) = true ∧
    ([0, 1, 2].all fun m => issuing stand (.kmov (en m 3 0 0 0)) fun cx _ => cx.m % 4 = m) = true := by decide +kernel

/-- R117, R118. -/
theorem test_moves : v3 (.mov (en 0 3 1 0 0)) = some 0x80000001 ∧ s3 (.mov (en 32 3 2 0 0)) = some 0x100000003 ∧ v3 (.movi (el 0 3 0 0 0 0x80000000)) = some 0x80000000 ∧
    s3 (.movi (el 32 3 0 0 0 0x80000000)) = some 0xFFFFFFFF80000000 ∧ s3 (.movi (el 33 3 0 0 0 0x12)) = some 0x1200000000 ∧ s3 (.v2s (en 0 3 1 0 0)) = some 0x80000001 ∧
    s3 (.v2s (en 1 3 1 0 0)) = some 0xFFFFFFFF80000001 ∧ v3 (.s2v (en 0 3 2 0 0)) = some 3 ∧ v3 (.s2v (en 1 3 2 0 0)) = some 1 := by decide +kernel

/-- Hypotheses of Moves, each clause. -/
theorem witness_Moves :
    (issuing stand (.mov (en 0 3 1 0 0)) fun cx _ => !cx.S && cx.m % 2 = 0) = true ∧ (issuing stand (.mov (en 1 6 4 0 0)) fun cx _ => !cx.S && cx.m % 2 = 1) = true ∧
    (issuing stand (.mov (en 32 3 2 0 0)) fun cx _ => cx.S) = true ∧ (issuing stand (.movi (el 0 3 0 0 0 1)) fun cx _ => !cx.S) = true ∧
    (issuing stand (.movi (el 32 3 0 0 0 1)) fun cx _ => cx.S && cx.m % 2 = 0) = true ∧ (issuing stand (.movi (el 33 3 0 0 0 1)) fun cx _ => cx.S && cx.m % 2 = 1) = true ∧
    issuing stand (.v2s (en 1 3 1 15 0)) = true ∧ issuing stand (.s2v (en 1 3 2 0 0)) = true := by decide +kernel

/-- R93 to R95 on FP32: v1 = −2^-149, v2 a NaN, v4 = 7 × 2^-149: FMIN, FMAX, FABS, FNEG and FCLASS (bit 2, a negative subnormal; bit 9, a quiet NaN). -/
theorem test_float_selection : [v3 (.fmin (en 0 3 1 4 0)), v3 (.fmax (en 0 3 1 4 0)), v3 (.fmin (en 0 3 1 2 0)), v3 (.fabs (en 0 3 1 0 0)), v3 (.fneg (en 0 3 4 0 0)), v3 (.fclass (en 0 3 1 0 0)),
    v3 (.fclass (en 0 3 2 0 0)), v3 (.fclass (en 1 3 1 0 0)), v3 (.fminF32 (sh 3 1 4)), v3 (.fmaxF32 (sh 3 1 4)), v3 (.fabsF32 (sh 3 1 0)), v3 (.fnegF32 (sh 3 4 0))] =
  [some 0x80000001, some 7, some 0xFFFFFFFF, some 1, some 0x80000007, some 4, some 0x200, some 8, some 0x80000001, some 7, some 1, some 0x80000007] ∧
  k3 (.fcmp (en 4 3 1 4 0)) = some true ∧ k3 (.fcmp (en 14 3 1 2 0)) = some true ∧ k3 (.fcmp (en 0 3 1 2 0)) = some false := by decide +kernel

/-- Hypotheses of FloatSelection: FP32 with .ftz, FP16 and BF16. -/
theorem witness_FloatSelection : ([Instr.fmin (en 1 3 1 4 0), .fmax (en 16 3 1 4 0), .fabs (en 32 3 1 0 0), .fneg (en 0 3 1 0 0), .fclass (en 0 3 1 0 0), .fcmp (en 15 3 1 4 0), .fminF32 (sh 3 1 4),
    .fmaxF32 (sh 3 1 4), .fabsF32 (sh 3 1 0), .fnegF32 (sh 3 1 0)].all fun i => issuing stand i) = true := by decide +kernel

/-- 1.5, 2 and −0.25 in lane 0 of v1, v2 and v4. -/
def floats : State := standW fun w => ((w.vset 1 0 0x3FC00000).vset 2 0 0x40000000).vset 4 0 0xBE800000

/-- Register 3 of lane 0 there. -/
def f3 (i : Instr) : Option Word := after floats i fun u => (u.warpD 0).vget 3 0

/-- R92, R96: 1.5 + 2, 1.5 − 2, 1.5 × 2, 1.5 × 2 − 0.25, 1.5 / 2, √2 (rounded to nearest), −0.25 rounded down; FDOT2 on FP16 halves. -/
theorem test_float_arithmetic : [f3 (.fadd (en 0 3 1 2 0)), f3 (.fsub (en 0 3 1 2 0)), f3 (.fmul (en 0 3 1 2 0)), f3 (.ffma (en 0 3 1 2 4)), f3 (.fdiv (en 0 3 1 2 0)), f3 (.fsqrt (en 0 3 2 0 0)),
    f3 (.frint (en 6 3 4 0 0)), f3 (.faddF32 (sh 3 1 2)), f3 (.fsubF32 (sh 3 1 2)), f3 (.fmulF32 (sh 3 1 2))] =
  [some 0x40600000, some 0xBF000000, some 0x40400000, some 0x40300000, some 0x3F400000, some 0x3FB504F3, some 0xBF800000, some 0x40600000, some 0xBF000000, some 0x40400000] := by decide +kernel

/-- R97: FDOT2 of (1, 2) and (1, 2) in FP16, plus −0.25. -/
theorem test_fdot2 : after (standW fun w => (w.vset 1 0 0x40003C00).vset 4 0 0xBE800000) (.fdot2 (en 16 3 1 1 4)) (fun u => (u.warpD 0).vget 3 0) = some 0x40980000 := by decide +kernel

/-- Hypotheses of FloatArithmetic, .sr among the modes. -/
theorem witness_FloatArithmetic : ([Instr.fadd (en 10 3 1 4 0), .fsub (en 42 3 1 4 0), .fmul (en 0 3 1 4 0), .fdiv (en 2 3 1 4 0), .fsqrt (en 4 3 1 0 0), .frint (en 6 3 1 0 0), .ffma (en 8 3 1 2 4), .fdot2 (en 26 3 1 2 4),
    .faddF32 (sh 3 1 4), .fsubF32 (sh 3 1 4), .fmulF32 (sh 3 1 4)].all fun i => issuing floats i) = true := by decide +kernel

/-- Hypotheses of SpecialValues: the largest finite code, an infinity and a NaN of each format that has them; NaN operands; a negative value. -/
theorem witness_SpecialValues : Fmt.isFloat .fp32 = true ∧ (0x7F7FFFFF : Nat) < 2 ^ Fmt.fp32.bits ∧ (decodeVal .fp32 0x7F7FFFFF).isNan = false ∧ (∀ n, decodeVal .fp32 0x7F7FFFFF ≠ .inf n) ∧
    decodeVal .fp32 0x7F800000 = .inf false ∧ (decodeVal .fp32 0x7F800001).isNan = true ∧ (decodeVal .fp16 0x7C01).isNan = true ∧ (decodeVal .bf16 0xFFC1).isNan = true ∧
    (decodeVal .fp32 1).isNan = false ∧ (decodeVal .fp32 0xBF800000) = .fin true { num := 2 ^ 23, exp := -23 } := by
  refine ⟨by decide +kernel, by decide +kernel, by decide +kernel, fun n => by cases n <;> decide +kernel, ?_⟩
  decide +kernel

/-- The operands of R104's example in lane 0. -/
def packed : State := standW fun w => ((((w.vset 8 0 0x447A0000).vset 9 0 0x40400000).vset 20 0 0x80000000).vset 21 0 0x3E99999A).vset 30 0 0x2A80447E

/-- R102 to R104: 1.5 to BF16 and FP16, and R104's example of PACK and UNPACK. -/
theorem test_conversions : f3 (.cvt (en 0 3 1 0 0)) = some 0x3FC0 ∧ f3 (.cvt (en 1 3 1 0 0)) = some 0x3E00 ∧
    after packed (.pack (en 0x13 30 8 20 0)) (fun u => (u.warpD 0).vget 30 0) = some 0x2A80447E ∧
    after packed (.pack (en 0x03 30 8 20 0)) (fun u => (u.warpD 0).vget 30 0) = some 0x2A80447F ∧
    after packed (.unpack (en 0x03 40 30 0 0)) (fun u => (List.range 4).map fun i => (u.warpD 0).vget (40 + i) 0) = some [0x43E00000, 0x40400000, 0x80000000, 0x3EA00000] := by decide +kernel

/-- Hypotheses of Conversions, .sr and the widest string among them. -/
theorem witness_Conversions : ([Instr.cvt (en 0x31 3 1 0 0), .pack (en 0x33 30 8 20 0), .pack (en 5 30 8 20 0), .unpack (en 5 40 30 0 0)].all fun i => issuing packed i) = true := by decide +kernel

/-- Hypotheses of SpecialFunctions. -/
theorem witness_SpecialFunctions : ([Instr.frcp (en 0 3 1 0 0), .frsq (en 16 3 1 0 0), .fexp2 (en 32 3 1 0 0), .flog2 (en 1 3 1 0 0), .fsin (en 0 3 1 0 0), .fcos (en 0 3 1 0 0), .ftanh (en 0 3 1 0 0), .rand (en 15 3 0 0 0)].all
    fun i => issuing floats i) = true := by decide +kernel

/-- R99: 1/0 of lane 3, whose v1 is 0, is an infinity; it waits in a window. -/
theorem test_reciprocal : after stand (.frcp (en 0 3 1 0 0)) (fun u => (u.warpD 0).windows.map fun x => (x.ready, x.done, x.writes.any fun y => match y with | .vec d l => d = 3 && l.contains (3, 0x7F800000) | _ => false)) =
    some [(true, false, true)] := by decide +kernel

/-- Hypotheses of BlockConversions. -/
theorem witness_BlockConversions : ([Instr.mxenc (en 3 40 0 80 0), .mxenc (en 0x26 40 0 80 0), .ixenc (en 0 40 0 80 0), .mxdec (en 5 40 0 80 0), .ixdec (en 0 40 0 80 0)].all fun i => issuing stand i) = true := by decide +kernel

/-- A window's one result. -/
def result (i : Instr) : Option (List RegWrite) := (after stand i fun u => ((u.warpD 0).windows.head?.map (·.writes)).getD [])

/-- R110 to R115 at warp scope, v4 = 7 in lanes 0 and 1. -/
theorem test_lanes : result (.vote (at_ .warp (en 33 3 4 0 0))) = some [.scal 3 2] ∧ result (.red (at_ .warp (en 32 3 4 0 0))) = some [.scal 3 14] ∧
    (after stand (.shfl (at_ .warp (el 1 3 4 0 0 1))) fun u => ((u.warpD 0).windows.map fun x => x.writes.map fun y => match y with | .vec _ l => [l.lookup 0, l.lookup 1, l.lookup 15] | _ => [])) =
      some [[[some 7, some 0, some 7]]] := by decide +kernel

/-- Hypotheses of LaneMoves: a literal, a vector and a scalar index. -/
theorem witness_LaneMoves : ([Instr.shfl (at_ .warp (el 1 3 4 0 0 1)), .shfl (at_ .warp (en 0 3 4 2 0)), .bcast (at_ .warp (en 0 3 4 2 0)), .bcast (at_ .warp (el 0 3 4 0 0 1))].all fun i =>
    issuing stand i) = true := by decide +kernel

/-- Hypotheses of LaneReductions, RED and SCAN in each of their operations, VOTE in each of its modes. -/
theorem witness_LaneReductions : (List.range 11).all (fun m => issuing stand (.red (at_ .warp (en m 3 4 0 0))) fun cx _ => cx.m % 16 = m) = true ∧
    (List.range 11).all (fun m => issuing stand (.scan (at_ .warp (en (m + 16) 3 4 0 0))) fun cx _ => cx.m % 16 = m) = true ∧
    ([0, 2, 3, 4, 5, 6].all fun m => issuing stand (.vote (at_ .warp (en m 3 4 0 0))) fun cx _ => cx.m % 8 = m && !cx.S) = true ∧
    ([32, 33].all fun m => issuing stand (.vote (at_ .warp (en m 3 4 0 0))) fun cx _ => cx.m % 8 = m - 32 && cx.S) = true ∧ issuing stand (.matchOp (at_ .warp (en 3 3 4 0 0))) = true := by decide +kernel

/-- R16: %lane in lane 5, %width, %tvec, %lclk. -/
theorem test_special_registers : after stand (.movsr (en 0 3 0 0 0)) (fun u => (u.warpD 0).vget 3 5) = some 5 ∧ s3 (.movsr (en 32 3 9 0 0)) = some 16 ∧ s3 (.movsr (en 32 3 14 0 0)) = some 1 ∧
    after stand (.movsw (en 32 16 2 0 0)) (fun u => (u.warpD 0).tvec) = some 0x100000000 := by decide +kernel

/-- Hypotheses of SpecialRegisters: each special register. -/
theorem witness_SpecialRegisters : ([0, 13].all fun n => issuing stand (.movsr (en 0 3 n 0 0)) fun cx _ => cx.parts.length = 1 && cx.e.a.toNat = n) = true ∧
    ([1, 2, 3, 4, 5, 6, 7, 8, 9, 10, 11, 12, 14, 15, 16, 17, 18, 19, 20, 21, 22].all fun n => issuing stand (.movsr (en 32 3 n 0 0)) fun cx _ => cx.parts.length = 1 && cx.e.a.toNat = n && !cx.joint) = true ∧
    ([16, 17, 20].all fun n => issuing stand (.movsw (en 32 n 2 0 0)) fun cx _ => cx.parts.length = 1 && cx.e.dst.toNat = n && !cx.joint && (stand.warpD 0).loops.isEmpty && (stand.warpD 0).parks.isEmpty) = true := by decide +kernel

/-! ## That a fault area entry can be written, without writing it -/

/-- Context 0's tables stand as placed, and global memory holds nothing back. -/
def mapped (s : State) : Bool := s.rootOf 0 = 0x10000 && s.readNum 0x10000 8 = 0x20001 && s.readNum 0x20000 8 = 0x1F && s.homes.isEmpty && s.aliasQ.isEmpty && s.cores.all fun e => e.2.exact.isEmpty && e.2.l1.all fun x => x.2.ops.isEmpty

/-- Addresses of the fault area are then mapped for writing. -/
theorem mapped_translate (s : State) (va : Nat) (h : mapped s = true) (h2 : va < 0x8000000) : s.translateEngine 0 va .write = .ok va := by
  simp only [mapped, Bool.and_eq_true, decide_eq_true_eq] at h
  obtain ⟨⟨⟨⟨⟨h3, h4⟩, h5⟩, -⟩, -⟩, -⟩ := h
  have e1 : levelIndex 1 va = 0 := by unfold levelIndex; simp; omega
  have e2 : levelIndex 2 va = 0 := by unfold levelIndex; simp; omega
  have e3 : va % 536870912 = va := Nat.mod_eq_of_lt (by omega)
  simp [State.translateEngine, State.walkCtx, State.walk, h3, e1, h4, e2, h5, State.pageOk, pageBits, dramTop, useLeaf, rightsOk, physical, e3]

/-- Bytes outside a write are as they were. -/
theorem readBytes_writeBytes_out (s : State) (pa a n : Nat) (bs : List Byte) (h : a + n ≤ pa) : (s.writeBytes pa bs).readBytes a n = s.readBytes a n := by
  induction n generalizing a with
  | zero => rfl
  | succ n ih => rw [State.readBytes, State.readBytes, readByte_writeBytes_out _ _ _ _ (.inl (by omega)), ih _ (by omega)]

/-- What a key finds in a map is listed. -/
theorem mem_of_find {α : Type} (m : Map α) (k : Nat) (x : α) (h : Map.find m k = some x) : (k, x) ∈ m := by
  induction m with
  | nil => cases h
  | cons e r ih =>
    simp only [Map.find] at h
    split at h
    · next hk => cases h; subst hk; exact List.mem_cons_self ..
    · exact List.mem_cons_of_mem _ (ih h)

/-- No line is combined where no L1 holds an update-only copy or a contribution. -/
theorem combineLines_still (s : State) (h : s.cores.all (fun e => e.2.exact.isEmpty && e.2.l1.all fun x => x.2.ops.isEmpty) = true) (n line : Nat) : s.combineLines line n = s := by
  have g : ∀ l, s.combineLine l = s := by
    intro l
    have : s.gathering l = false := by
      simp only [List.all_eq_true, Bool.and_eq_true, List.isEmpty_iff] at h
      simp only [State.gathering, List.any_eq_false, Bool.or_eq_true, not_or]
      intro e he
      obtain ⟨h1, h2⟩ := h e he
      refine ⟨by simp [h1], ?_⟩
      cases hf : Map.find e.2.l1 l with
      | none => simp
      | some x => simpa using h2 _ (mem_of_find _ l x hf)
    simp [State.combineLine, this]
  induction n generalizing line with
  | zero => rfl
  | succ n ih => rw [State.combineLines, g, ih]

/-- What a write of bytes keeps. -/
theorem writeBytes_kept (s : State) (pa : Nat) (bs : List Byte) : (s.writeBytes pa bs).ctxs = s.ctxs ∧ (s.writeBytes pa bs).homes = s.homes ∧ (s.writeBytes pa bs).aliasQ = s.aliasQ ∧
    (s.writeBytes pa bs).cores = s.cores := by
  unfold State.writeBytes State.clearErrors State.mapErrors
  split <;> exact ⟨rfl, rfl, rfl, rfl⟩

/-- A store above the tables leaves them. -/
theorem mapped_store (s : State) (pa : Nat) (bs : List Byte) (h : mapped s = true) (h1 : 0x1000000 ≤ pa) (h2 : pa < 0x8000000) : mapped (s.storeGlb pa bs) = true := by
  have hm := h
  simp only [mapped, Bool.and_eq_true] at hm
  simp only [mapped, Bool.and_eq_true, decide_eq_true_eq, List.isEmpty_iff] at h
  obtain ⟨⟨⟨⟨⟨h3, h4⟩, h5⟩, h6⟩, h7⟩, h8⟩ := h
  have hs : ∀ w, s.settleWord w = s := by
    intro w
    have hp : s.exactParts w = [] := by
      simp only [State.exactParts, List.filterMap_eq_nil_iff]
      intro e he
      have := (Bool.and_eq_true _ _ ▸ (List.all_eq_true.mp hm.2 e he)).1
      rw [List.isEmpty_iff.mp this]
      rfl
    simp [State.settleWord, hp, State.slotOf, State.home, h6, Map.get]
  have hw : ∀ n w, s.settleWords w n = s := by
    intro n
    induction n with
    | zero => intro w; rfl
    | succ n ih => intro w; rw [State.settleWords, hs, ih]
  have hp : inAperture pa = false := by
    have hl : ¬ apertureLo ≤ pa := by unfold apertureLo; omega
    simp [inAperture, hl]
  have e : s.settle pa bs.length = s := by
    unfold State.settle
    split
    · rfl
    · rw [combineLines_still s hm.2, hw]
  have a : s.aliasDone = s := by simp [State.aliasDone, h7]
  have e2 : s.storeGlb pa bs = { s.writeBytes pa bs with ringClock := (s.writeBytes pa bs).ringClock.clear (pa / 8) ((pa + bs.length + 7) / 8) } := by
    simp only [State.storeGlb, hp, a, e]
    rfl
  have r : ∀ a, a + 8 ≤ pa → (s.storeGlb pa bs).readNum a 8 = s.readNum a 8 := by
    intro a ha
    rw [e2]
    exact congrArg numOf (readBytes_writeBytes_out s pa a 8 bs ha)
  simp only [mapped, Bool.and_eq_true, decide_eq_true_eq, List.isEmpty_iff]
  refine ⟨⟨⟨⟨⟨?_, (r _ (by omega)).trans h4⟩, (r _ (by omega)).trans h5⟩, ?_⟩, ?_⟩, ?_⟩
  · rw [e2]; exact (congrArg (fun c => (Map.get ({} : Ctx) c 0).root) (writeBytes_kept s pa bs).1).trans h3
  · rw [e2]; exact (writeBytes_kept s pa bs).2.1.trans h6
  · rw [e2]; exact (writeBytes_kept s pa bs).2.2.1.trans h7
  · rw [e2]; exact (writeBytes_kept s pa bs).2.2.2 ▸ h8

/-- A run of bytes of the fault area is mapped, and its pieces lie in it. -/
theorem mapped_runs (bs : List Byte) (s : State) (va : Nat) (h : mapped s = true) (h1 : 0x1000000 ≤ va) (h2 : va + bs.length ≤ 0x8000000) :
    ∃ l, s.virtRuns 0 va bs = some l ∧ ∀ r ∈ l, 0x1000000 ≤ r.1 ∧ r.1 < 0x8000000 := by
  induction bs generalizing va with
  | nil => exact ⟨[], rfl, by simp⟩
  | cons b r ih =>
    simp only [List.length_cons] at h2
    obtain ⟨l, hl, hr⟩ := ih (va + 1) (by omega) (by omega)
    simp only [State.virtRuns, mapped_translate s va h (by omega), Nat.mod_eq_of_lt (show va + 1 < 2 ^ 54 by omega), hl, Option.map_some]
    refine ⟨_, rfl, fun x hx => ?_⟩
    have hv : 0x1000000 ≤ va ∧ va < 0x8000000 := ⟨h1, by omega⟩
    cases l with
    | nil => simp at hx; subst hx; exact hv
    | cons y l =>
      simp only at hx
      split at hx <;> simp only [List.mem_cons] at hx hr
      · rcases hx with rfl | hx
        · exact hv
        · exact hr x (.inr hx)
      · rcases hx with rfl | rfl | hx
        · exact hv
        · exact hr _ (.inl rfl)
        · exact hr x (.inr hx)

/-- A run of bytes in the fault area can be written. -/
theorem mapped_writeVirt (bs : List Byte) (s : State) (va : Nat) (h : mapped s = true) (h1 : 0x1000000 ≤ va) (h2 : va + bs.length ≤ 0x8000000) :
    ∃ z, s.writeVirt 0 va bs = some z ∧ mapped z = true := by
  obtain ⟨l, hl, hr⟩ := mapped_runs bs s va h h1 h2
  refine ⟨_, by rw [State.writeVirt, hl, Option.map_some], ?_⟩
  clear hl
  induction l generalizing s with
  | nil => exact h
  | cons x l ih => exact ih _ (mapped_store s x.1 x.2 h (hr x (by simp)).1 (hr x (by simp)).2) fun y hy => hr y (by simp [hy])

/-- A warp's fault area entry can be written. -/
theorem mapped_writeEntry (s : State) (wid : Nat) (recs : List Rec) (w : Warp) (hw : s.warp? wid = some w) (hb : (s.block w.blk).ctx = 0) (h : mapped s = true)
    (h1 : 0x1000000 ≤ s.faultEntry (s.block w.blk) wid ∧ s.faultEntry (s.block w.blk) wid + 0x200000 ≤ 0x8000000) (h2 : (s.frameImage w (s.block w.blk) (faultingLanes recs)).length ≤ 0x100000)
    (h3 : (groupBytes (s.block w.blk) wid recs.length 0 recs).length ≤ 0x100000) : ∃ z, s.writeEntry wid recs = some z := by
  obtain ⟨y, hy, my⟩ := mapped_writeVirt (s.frameImage w (s.block w.blk) (faultingLanes recs)) s (s.faultEntry (s.block w.blk) wid) h (by omega) (by omega)
  obtain ⟨z, hz, -⟩ := mapped_writeVirt (groupBytes (s.block w.blk) wid recs.length 0 recs) y (s.faultEntry (s.block w.blk) wid + 0x2C0) my (by omega) (by omega)
  simp [State.writeEntry, hw, hb, hy, hz]

/-- The conditions of `mapped_writeEntry`. -/
def entryB (s : State) (wid : Nat) (recs : List Rec) : Bool :=
  (s.warp? wid).any fun w => (s.block w.blk).ctx = 0 && mapped s && 0x1000000 ≤ s.faultEntry (s.block w.blk) wid && s.faultEntry (s.block w.blk) wid + 0x200000 ≤ 0x8000000 &&
    (s.frameImage w (s.block w.blk) (faultingLanes recs)).length ≤ 0x100000 && (groupBytes (s.block w.blk) wid recs.length 0 recs).length ≤ 0x100000

/-- Which say that the entry can be written. -/
theorem entryB_spec (s : State) (wid : Nat) (recs : List Rec) (h : entryB s wid recs = true) : ∃ z, s.writeEntry wid recs = some z := by
  simp only [entryB, Option.any_eq_true, Bool.and_eq_true, decide_eq_true_eq] at h
  obtain ⟨w, hw, ⟨⟨⟨⟨hb, hm⟩, h0⟩, h1⟩, h2⟩, h3⟩ := h
  exact mapped_writeEntry s wid recs w hw hb hm ⟨h0, h1⟩ h2 h3

/-! ## Control flow and exceptions: class 7 -/

/-- `Cx.free`. -/
def freeB (cx : Cx) (t : State) : Bool :=
  cx.W ≤ 64 && cx.parts.all fun p => (t.warp? p.wid).isSome && p.lanes &&& ~~~ p.sel = 0 && p.sel &&& ~~~ (t.warpD p.wid).live = 0 && p.sel &&& ~~~ allSet cx.W = 0 &&
    ((List.range 12).all fun n => (t.warpD p.wid).parks.all (fun q => q.place != .wait n) || !(t.warpD p.wid).waitDone n) && (t.warpD p.wid).parks.all fun q => q.lanes &&& p.sel = 0

/-- Which says so. -/
theorem freeB_spec (cx : Cx) (t : State) (h : freeB cx t = true) : cx.free t := by
  simp only [freeB, Bool.and_eq_true, Bool.or_eq_true, Bool.not_eq_true', decide_eq_true_eq, List.all_eq_true, bne_iff_ne, ne_eq, List.mem_range] at h
  refine ⟨h.1, fun p hp => ?_⟩
  obtain ⟨⟨⟨⟨⟨h1, h2⟩, h3⟩, h4⟩, h5⟩, h6⟩ := h.2 p hp
  refine ⟨h1, h2, h3, h4, ?_, h6⟩
  rintro n hn ⟨q, hq, e⟩
  rcases h5 n hn with h | h
  · exact absurd e (h q hq)
  · exact h

/-- `Cx.noLoopEnd`. -/
def noEndB (cx : Cx) (t : State) : Bool := cx.parts.all fun p => (t.warpD p.wid).loops.all fun x => x.stop != cx.pc

/-- A TrapReady of a lone warp at the state that the effect acts in, or behind the instruction. -/
def readyB (cx : Cx) (t : State) (code info : Nat) : Bool :=
  match cx.parts with
  | [p] => (t.warpD p.wid).frame.isNone && (t.block (t.warpD p.wid).blk).kind != .shadow && (t.trapHold [p.wid]).isNone &&
      entryB (t.flushWarp p.wid) p.wid [{ cx.rec_ t code info with lanes := p.lanes }]
  | _ => false

/-- Which gives one. -/
theorem readyB_spec (cx : Cx) (t : State) (code info : Nat) (h : readyB cx t code info = true) : ∃ p z, TrapReady cx t p [] (cx.rec_ t code info) t z := by
  unfold readyB at h
  split at h
  · next p hp =>
    simp only [Bool.and_eq_true, Option.isNone_iff_eq_none, bne_iff_ne, ne_eq] at h
    obtain ⟨⟨⟨h1, h2⟩, h3⟩, h4⟩ := h
    obtain ⟨z, hz⟩ := entryB_spec _ _ _ h4
    exact ⟨p, z, hp, by simp, h1, ⟨h2, h2⟩, by rw [hp]; exact h3, rfl, hz⟩
  · cases h

/-- R151, R128: BRA on k0 = lane 0 moves it to PC + 4 × 5, the rest to the next instruction, and pins the side that .lk names. -/
theorem test_bra : after stand (.bra (el 1 0 0 0 0 5)) (fun u => ((u.warpD 0).pc 0, (u.warpD 0).pc 1, (u.warpD 0).pin)) = some (0x100014, 0x10000C, 1) := by decide +kernel

/-- Hypotheses of Jumps (BRA): each hint, both senses, a split and none. -/
theorem witness_Branch : ([0, 1, 2, 5].all fun m => issuing stand (.bra (el m 0 0 0 0 5)) fun cx t => cx.parts.length = 1 && freeB cx t && cx.m % 4 != 3) = true ∧
    (issuing stand (.bra (el 3 0 1 0 0 5)) fun cx t => freeB cx t && (stand.warpD 0).kget 1 = 0) = true := by decide +kernel

/-- R152: CALL to PC − 4 leaves its return address in s63; RET to s63. -/
theorem test_call : after stand (.call (el 0 0 0 0 0 0xFFFFFFFF)) (fun u => ((u.warpD 0).pc 3, (u.warpD 0).sget 63)) = some (0xFFFFC, 0x10000C) ∧
    after (standW fun w => w.sset 63 0x200) (.ret (en 0 0 0 0 0)) (fun u => (u.warpD 0).pc 3) = some 0x200 ∧
    after stand (.jmp (en 0 0 4 0 0)) (fun u => (u.warpD 0).pc 15) = some 0x100 := by decide +kernel

/-- Hypotheses of Jumps: a literal and an aligned register. -/
theorem witness_Jumps : ([Instr.jmp (el 0 0 0 0 0 5), .call (el 0 0 0 0 0 5)].all fun i => issuing stand i fun cx t => freeB cx t && cx.lit.isSome) = true ∧
    ([Instr.jmp (en 0 0 4 0 0), .call (en 0 0 4 0 0), .ret (en 0 0 0 0 0)].all fun i => issuing stand i fun cx t => freeB cx t && cx.lit.isNone && (cx.sval stand 4).toNat % 4 = 0 && (cx.sval stand 63).toNat % 4 = 0) = true := by decide +kernel

/-- A warp in a loop whose last instruction stands at its PC. -/
def looping (n : Nat) : State := standW fun w => { w with loops := [{ start := 0xFFF00, stop := 0x100000, remaining := BitVec.ofNat 32 n }] }

/-- R156, R159: LOOP 3 pushes two branches back; a NOP at the end goes back, or leaves. -/
theorem test_loop : after stand (.loop (at_ .warp (el 1 0 3 0 0 5))) (fun u => (u.warpD 0).loops) = some [{ start := 0x10000C, stop := 0x100014, remaining := 2 }] ∧
    after (looping 1) (.nop (en 0 0 0 0 0)) (fun u => ((u.warpD 0).pc 2, (u.warpD 0).loops.length)) = some (0xFFF00, 1) ∧
    after (looping 0) .nopF32 (fun u => ((u.warpD 0).pc 2, (u.warpD 0).loops.length)) = some (0x100004, 0) := by decide +kernel

/-- Hypotheses of LoopEntry: a count of 0 and of 3, and the instruction at the end can be read. -/
theorem witness_LoopEntry : ([0, 3].all fun n => issuing stand (.loop (at_ .warp (el 1 0 n 0 0 5))) fun cx t => cx.parts.length = 1 && freeB cx t && noEndB cx t &&
    (match t.fetchWord 0 0 0x100014 with | .ok bs _ => lengthOf (numOf bs) = some 4 | _ => false)) = true := by decide +kernel

/-- Hypotheses of Advance: no loop, a loop with branches left and one with none. -/
theorem witness_Advance : ([Instr.nop (en 0 0 0 0 0), .nopF32, .yield (at_ .warp (en 0 0 0 0 0))].all fun i =>
    issuing stand i (fun cx t => cx.parts.length = 1 && freeB cx t && noEndB cx t) && issuing (looping 0) i (fun cx t => freeB cx t && cx.parts.all fun p => p.sel != 0) &&
    issuing (looping 1) i (fun cx t => freeB cx t && cx.parts.all fun p => p.sel != 0)) = true := by decide +kernel

/-- R153 to R155: JOIN and LEAVE of k0; WAIT on k0 = {0} passes; on k0 = {0, 1} with lane 1 elsewhere, lane 0 parks. -/
theorem test_join : after stand (.join (en 0 0 0 0 0)) (fun u => (u.warpD 0).kget 0) = some 0xFFFF ∧ after stand (.leave (en 0 0 0 0 0)) (fun u => (u.warpD 0).kget 0) = some 0 ∧
    after stand (.wait (en 0 0 0 0 0)) (fun u => ((u.warpD 0).pc 0, (u.warpD 0).parks.length)) = some (0x100008, 0) ∧
    after (standW fun w => { w.kset 16 0 3 with pcs := w.pcs.set 1 0x200000 }) (.wait (en 0 0 0 0 0)) (fun u => (u.warpD 0).parks.map fun q => (q.lanes, q.place)) = some [(1, .wait 0)] := by decide +kernel

/-- Lane 1 parked at a WAIT on k0 = {0, 1} elsewhere. -/
def waiting1 : State := standW fun w => { w.kset 16 0 3 with pcs := w.pcs.set 1 0x200000, parks := [{ lanes := 2, pc := 0x200000, len := 8, place := .wait 0, clock := 0 }] }

/-- R155: the arrival of lane 0 meets it, and each lane stands behind its own WAIT. -/
theorem test_wait_met : after waiting1 (.wait (en 0 0 0 0 0)) (fun u => ((u.warpD 0).pc 0, (u.warpD 0).pc 1, (u.warpD 0).parks.length)) = some (0x100008, 0x200008, 0) := by decide +kernel

/-- Hypotheses of Reconvergence: a WAIT that is met, one where lane 1 had parked, one that is not met, and one outside whose mask every lane stands. -/
theorem witness_Reconvergence : (issuing waiting1 (.wait (en 0 0 0 0 0)) fun cx t => cx.parts.length = 1 && cx.len = 8 && freeB cx t && noEndB cx t && (t.warpD 0).loops.isEmpty &&
      (t.warpD 0).parks.length = 1 && ((t.warpD 0).parks.all fun q => q.lanes &&& ~~~ ((t.warpD 0).live &&& allSet cx.W) = 0)) = true ∧ issuing stand (.join (en 0 11 0 0 0)) = true ∧ issuing stand (.leave (en 0 0 0 0 0)) = true ∧
    ([stand, standW fun w => { w.kset 16 0 3 with pcs := w.pcs.set 1 0x200000 }, standW fun w => w.kset 16 0 0].all fun s => issuing s (.wait (en 0 0 0 0 0)) fun cx t =>
      cx.parts.length = 1 && cx.len = 8 && freeB cx t && noEndB cx t) = true := by decide +kernel

/-- R161: EXIT of lane 0 leaves fifteen lanes live; EXIT of all ends the block. -/
theorem test_exit : after stand (.exit { en 0 0 0 0 0 with sel := 1 }) (fun u => ((u.warpD 0).live, (u.warpD 0).kget 0)) = some (0xFFFE, 0) ∧
    after stand (.exit (en 0 0 0 0 0)) (fun u => u.warps.length) = some 0 := by decide +kernel

/-- Hypotheses of Exit: not the last lanes, and the last. -/
theorem witness_Exit : (issuing stand (.exit { en 0 0 0 0 0 with sel := 1 }) fun cx t => cx.parts.length = 1 && (t.warpD 0).blk = cx.blk && !cx.exitsLast t) = true ∧
    (issuing stand (.exit (en 0 0 0 0 0)) fun cx t => cx.exitsLast t && !t.strictAbandoned (t.block cx.blk) && (t.block? cx.blk).isSome && (t.block cx.blk).kind = .kernel && !(t.block cx.blk).flag 2) = true := by decide +kernel

/-- R270, R271: the record of TRAP 9 at 0x100000 by 16 lanes: code 0x38, width 0, lane scope, the PC, the warp, the number and the lanes. -/
theorem test_record : let bs := groupBytes block 0 1 0 [{ code := 0x38, info := 9, pc := 0x100000, lanes := 0xFFFF }]
    bs.length = 64 ∧ bs.take 18 = [0x38, 0xFF, 0, 0, 0, 0, 1, 0, 0, 0, 0x10, 0, 0, 0, 0, 0, 0, 0] ∧ (bs.drop 0x20).take 10 = [9, 0, 0, 0, 0, 0, 0, 0, 0xFF, 0xFF] := by decide +kernel

/-- R164: the handler's lanes stand at %tvec, the frame keeps the places. -/
theorem test_handler : let w := ({ stand.warpD 0 with tvec := 0x4000, pin := 1 }).startHandler 16
    w.pc 15 = 0x4000 ∧ w.pin = 0 ∧ w.frame.map (fun f => (f.pcs.get 0 15, f.pin)) = some (0x100000, 1) := by decide +kernel

/-- Hypotheses of TrapInstructions. -/
theorem witness_TrapInstructions : ([(Instr.trap (en 0 0 0 9 0), 0x38, 9), (.bkpt (en 0 0 0 511 0), 0x39, 511), (.halt (at_ .warp (en 0 0 0 0 0)), 0x39, 0x200)].all fun x =>
    issuing stand x.1 fun cx t => (t.ctx 0).claim.isNone && (cx.parts.all fun p => !p.pass) && (t.warpD 0).frame.isNone && readyB cx (t.advance cx) x.2.1 x.2.2) = true := by decide +kernel

/-- Four loops. -/
def deep : State := standW fun w => { w with loops := List.replicate 4 { start := 0xFFF00, stop := 0x300000, remaining := 1 } }

/-- Hypotheses of PreciseFaults, each of its faults. -/
theorem witness_PreciseFaults :
    (issuing stand (.bra (el 3 0 0 0 0 5)) fun cx t => readyB cx t 0x09 0 && cx.m % 4 = 3 && cx.parts.all fun p => p.lanes &&& (t.warpD 0).kget 0 != 0 && p.sel &&& ~~~ (p.lanes &&& (t.warpD 0).kget 0) != 0) = true ∧
    ([Instr.jmp (en 0 0 2 0 0), .call (en 0 0 2 0 0)].all fun i => issuing stand i fun cx t => readyB cx t 0x05 0 && cx.lit.isNone && (cx.sval stand 2).toNat % 4 != 0) = true ∧
    (issuing (standW fun w => w.sset 63 1) (.ret (en 0 0 0 0 0)) fun cx t => readyB cx t 0x05 0) = true ∧
    (issuing deep (.loop (at_ .warp (el 1 0 3 0 0 5))) fun cx t => readyB cx t 0x0A 0 && 4 ≤ (t.warpD 0).loops.length) = true ∧
    (issuing stand (.tret (at_ .warp (en 0 0 0 0 0))) fun cx t => readyB cx t 0x01 0) = true := by decide +kernel

/-- A warp in trap mode, on a member. -/
def trapped : State := (member stand).updWarp 0 fun w => { w with frame := some { pcs := w.pcs.set 0 0x5000, parks := [], pin := 0, loops := [] }, loops := List.replicate 4 { start := 0xFFF00, stop := 0x300000, remaining := 1 } }

/-- Hypotheses of DoubleFaults. -/
theorem witness_DoubleFaults : ([Instr.trap (en 0 0 0 9 0), .bkpt (en 0 0 0 9 0), .halt (at_ .warp (en 0 0 0 0 0)), .jmp (en 0 0 2 0 0), .loop (at_ .warp (el 1 0 3 0 0 5))].all fun i => issuing trapped i fun cx t =>
    cx.parts.length = 1 && (t.warpD 0).frame.isSome && (t.warpD 0).blk = cx.blk && (t.block? cx.blk).any (fun b => !b.ended && b.kind != .shadow) && (t.ctx 0).claim.isNone && !t.entryMigrating 0 &&
      (cx.parts.all fun p => !p.pass) && t.isMember && !t.hytur.fenced && !t.originFull && (t.virtRuns 0 0x10002C0 (bytesOf 64 0)).isSome) = true := by decide +kernel

/-- R165, R274: its FAULT event names code 0x3E, and the record of code 0x3E stands in the entry behind those of the group. -/
theorem test_double_fault : after trapped (.trap (en 0 0 0 9 0)) (fun u => (u.outbox.map fun o => (match o with | .datagram x => (msgType x.msg, bodyField x.msg 2 1, bodyField x.msg 0x10 8) | _ => (0, 0, 0)), u.readByte 0x10002C0)) =
    some ([(5, 0x3E, 0x1000000)], 0x3E) := by decide +kernel

/-- R165: a TRAP in trap mode ends the block. R168: TRET .all goes back to the frame. -/
theorem test_tret : after trapped (.trap (en 0 0 0 9 0)) (fun u => u.warps.length) = some 0 ∧
    after trapped (.tret (at_ .warp (en 0 0 0 0 0))) (fun u => ((u.warpD 0).frame.isNone, (u.warpD 0).pc 0, (u.warpD 0).pc 1)) = some (true, 0x5000, 0x100000) := by decide +kernel

/-- Hypotheses of TrapReturn: .all, .kill and .abort. -/
theorem witness_TrapReturn : ([0, 1, 2].all fun m => issuing trapped (.tret (at_ .warp (en m 0 0 0 0))) fun cx t => cx.parts.length = 1 && (t.warpD 0).frame.isSome && cx.m % 4 = m && (t.block? cx.blk).isSome) = true := by decide +kernel

/-- A claimed context. -/
def claimed : State := standC fun c => { c with claim := some { kind := 0, ring := 0 } }

/-- Hypotheses of DebugStops: a BKPT that a resumed warp passes, one that stops, and HALT. -/
theorem witness_DebugStops : (issuing (claimed.updWarp 0 fun w => { w with pass := some 0x100000 }) (.bkpt (en 0 0 0 9 0)) fun cx t => cx.parts.all (fun p => p.pass) && cx.parts.length = 1 && (t.ctx 0).claim.isSome && (t.warpD 0).blk = cx.blk) = true ∧
    ([Instr.bkpt (en 0 0 0 9 0), .halt (at_ .warp (en 0 0 0 0 0))].all fun i => issuing claimed i fun cx t => cx.parts.all (fun p => !p.pass) && cx.parts.length = 1 && (t.ctx 0).claim.isSome && (t.warpD 0).frame.isNone && freeB cx t && noEndB cx t) = true := by decide +kernel

/-- R407, R363: a BKPT under a claim leaves its warp halted at the BKPT, HALT behind it. -/
theorem test_debug_stop : after claimed (.bkpt (en 0 0 0 9 0)) (fun u => ((u.warpD 0).halted, (u.warpD 0).pc 0)) = some (true, 0x100000) ∧
    after claimed (.halt (at_ .warp (en 0 0 0 0 0))) (fun u => ((u.warpD 0).halted, (u.warpD 0).pc 0)) = some (true, 0x100008) := by decide +kernel

/-- R128, R154: lanes 0 and 1 are pinned; lane 0 parks at the WAIT, for lane 5 elsewhere has not come, and leaves the pin. -/
theorem test_wait_pin : after (standW fun w => { w.kset 16 1 0b100001 with pin := 3, pcs := w.pcs.set 5 0x4000 }) (.wait (en 0 0 1 0 0)) (fun u => ((u.warpD 0).pin, (u.warpD 0).parks.map (·.lanes), (u.warpD 0).pc 1)) = some (2, [1], 0x100008) := by decide +kernel

/-! ## Memory: classes 8 to 10 -/

/-- `State.plainMem`. -/
def plainB (t : State) : Bool :=
  t.aliasQ.isEmpty && t.homes.isEmpty && t.platform.errors.isEmpty && t.cores.all fun e => e.2.exact.isEmpty && e.2.l1.all fun x => x.2.ops.isEmpty

/-- Which says so. -/
theorem plainB_spec (t : State) (h : plainB t = true) : t.plainMem := by
  simp only [plainB, Bool.and_eq_true, List.isEmpty_iff, List.all_eq_true] at h
  refine ⟨h.1.1.1, by simp [State.home, h.1.1.2, Map.get], fun c => ?_, h.1.2⟩
  unfold State.core Map.get
  cases hf : Map.find t.cores c with
  | none => exact ⟨rfl, fun x hx => by cases hx⟩
  | some x => exact h.2 _ (mem_of_find _ c x hf)

/-- `State.unwatched`. -/
def unwatchedB (t : State) (blk : Nat) : Bool := (t.ctxs.all fun c => c.2.watches.isEmpty) && !(t.ctx (t.block blk).ctx).dmode && !(t.ctx (t.block blk).ctx).detect

/-- Which says so. -/
theorem unwatchedB_spec (t : State) (blk : Nat) (h : unwatchedB t blk = true) : t.unwatched blk := by
  simp only [unwatchedB, Bool.and_eq_true, List.all_eq_true, List.isEmpty_iff, Bool.not_eq_true'] at h
  exact ⟨h.1.1, h.1.2, h.2⟩

/-- `Reaches`. -/
def reachesB (t : State) (op : MemOp) : Bool := op.lanes.all fun a => (t.placeOf op a).any t.locPresent

/-- Which says so. -/
theorem reachesB_spec (t : State) (op : MemOp) (h : reachesB t op = true) : Reaches t op := by
  simp only [reachesB, List.all_eq_true, Option.any_eq_true] at h
  exact h

/-- All three. -/
def freely (t : State) (op : MemOp) : Bool := plainB t && unwatchedB t op.blk && reachesB t op && op.lanes.length = 16

/-- v8 = 8 × lane, v9 = 0, v10 = 0x01020300 + lane, s6 = 0x40, s8 = 0x1001, s10 = 0x0000_0005_0000_0002. -/
def lanes : State := standW fun w => (((List.range 16).foldl (fun (w : Warp) l => (w.vset 8 l (BitVec.ofNat 32 (8 * l))).vset 10 l (BitVec.ofNat 32 (0x01020300 + l))) w).sset 6 0x40).sset 8 0x1001 |>.sset 10 0x500000002

/-- With four bytes at 8 of the block's partition. -/
def filled : State := lanes.setCore 0 { lanes.core 0 with spad := [(8, 0x78), (9, 0x56), (10, 0x34), (11, 0x12), (64, 1), (65, 2)] }

/-- The values that the windows of warp 0 hold for its lanes 0 and 1, or for a scalar register. -/
def awaited (u : State) : List (List (Nat × Word) × DWord) :=
  (u.warpD 0).windows.flatMap fun x => x.writes.map fun r => match r with
    | .vec _ ws => (ws.filter (fun z => z.1 < 2), 0)
    | .scal _ v => ([], v)
    | _ => ([], 0)

/-- R229, R232: LD .spad reads lane 1's word at 8, little-endian; LD .s reads eight bytes. -/
theorem test_ld : after filled (.ld (en 8 3 8 0 0)) awaited = some [([(0, 0), (1, 0x12345678)], 0)] ∧ after filled (.ld (en 11 3 6 0 0)) awaited = some [([], 0x201)] := by decide +kernel

/-- Hypotheses of Loads: vector forms of three widths, a consuming one, a scalar one and one of global memory. -/
theorem witness_Loads :
    ([0, 1, 2].all fun f => issuing filled (.ld (el (8 + f) 32 8 0 0 0x100)) fun cx t => f != 0 || freely t (cx.memOp t (.load 1 false false) cx.space 4 (cx.laneAccs t cx.space 4 cx.e.a.toNat noWords noWords))) = true ∧
    (issuing filled (.ld (en 11 4 6 0 0)) fun cx t => let op := cx.memOp t (.load 2 true false) cx.space 8 (cx.scalarAcc t cx.space 8 cx.e.a.toNat [] []); plainB t && unwatchedB t cx.blk && reachesB t op && op.lanes.length = 1) = true ∧
    (issuing filled (.ld (el 0 4 8 0 0 0x200000)) fun cx t => freely t (cx.memOp t (.load 1 false false) cx.space 4 (cx.laneAccs t cx.space 4 cx.e.a.toNat noWords noWords))) = true := by decide +kernel

/-- Tile 0 of pool 1 allocated for three reads. -/
def allocated : State := lanes.updBlock 0 fun b => { b with tiles := [(tileKey 1 0, { count := 3, pend := 0, free := false })], handles := [0x20000000] }

/-- Hypotheses of Loads' consuming form: one word per lane within the tile at 0x60000. -/
theorem witness_Loads_consuming : (issuing allocated (.ld (el 12 4 8 0 0 0x60000)) fun cx t =>
    let op := cx.memOp t (.load 1 false true) cx.space 4 (cx.laneAccs t cx.space 4 cx.e.a.toNat noWords noWords)
    freely t op && match t.consumed (t.located op) with | some (key, pool, tile) => !(t.block key).overread pool tile none | none => false) = true := by decide +kernel

/-- R232: ST .spad puts lane 1's word at 8. -/
theorem test_st : after lanes (.st (en 8 0 8 10 0)) (fun u => (u.core 0).readSpad 8 5) = some [1, 3, 2, 1, 0] := by decide +kernel

/-- Hypotheses of Stores. -/
theorem witness_Stores : ([(8, 1, 0), (9, 2, 0), (8, 1, 0x200)].all fun x => issuing lanes (.st (el x.1 0 8 10 0 (BitVec.ofNat 32 x.2.2))) fun cx t =>
    let op := cx.memOp t (.store x.2.1 false false) cx.space (4 * x.2.1) (cx.laneAccs t cx.space (4 * x.2.1) cx.e.a.toNat (vecWords cx.e.b.toNat x.2.1) noWords)
    freely t op && (t.block cx.blk).kind != .shadow && (t.core 0).marks.isEmpty) = true := by decide +kernel

/-- A single access of one width in one space. -/
def probe (space width x : Nat) (k : AccKind := .load 1 false false) : Nat :=
  match lanes.checkLane { blk := 0, kind := k, space := space, width := width } { wid := 0, lane := 3, e := 3, addr := x } with
  | .ok (.spad _ (w :: _)) => w
  | .ok (.spad _ []) => 0
  | .ok (.glb pa) => pa
  | .ok (.die a) => a
  | .bad c => 2 ^ 60 + c
  | _ => 2 ^ 61

/-- R170 to R176, R230 where the clauses of AccessPlaces meet: alignment (0x0C), the end of the partition, of the plain bytes in the cluster window, of the die window
(empty), of the lane-private bytes (0x0D), the chip field (0x0E), an unmapped address (0x0F). -/
theorem witness_AccessPlaces :
    [probe 1 4 2, probe 1 4 0x60FFC, probe 1 4 0x61000, probe 1 8 0x60FF8] = [2 ^ 60 + Code.misaligned, 0x60FFC, 2 ^ 60 + Code.spaceRange, 0x60FF8] ∧
    [probe 2 4 0xFFFC, probe 2 4 0x10000, probe 3 4 0, probe 4 4 60, probe 4 4 64] =
      [0xFFFC, 2 ^ 60 + Code.spaceRange, 2 ^ 60 + Code.spaceRange, 0x10000 + (15 * 16 + 3) * 4, 2 ^ 60 + Code.spaceRange] ∧
    [probe 0 4 0x1FFFFFFC, probe 0 4 0x20000000, probe 0 4 (2 ^ 54), probe 0 4 2] = [0x1FFFFFFC, 2 ^ 60 + Code.pageFault, 2 ^ 60 + Code.remoteDirect, 2 ^ 60 + Code.misaligned] := by decide +kernel

/-- R312: an entry without its write bit. -/
theorem witness_AccessPlaces_permission : let s := lanes.writeBytes 0x20000 (bytesOf 8 0x17)
    s.translate 0 0 0x100 .write = .permission ∧ s.translate 0 0 0x100 .read = .ok 0x100 := by decide +kernel

/-- Hypotheses of CacheLines, of lanes and of a scalar address. -/
theorem witness_CacheLines : issuing lanes (.prf (el 0 0 8 0 0 0x30000000)) = true ∧
    ([Instr.cfl (el 0 0 8 0 0 0x200000), .cinv (el 0 0 8 0 0 0x200000), .cfl (el 3 0 6 0 0 0x200000), .cinv (el 3 0 6 0 0 0x200000)].all fun i => issuing lanes i fun cx t =>
      (t.laneFaults (cx.lineOp t)).isEmpty && (t.laneMig (cx.lineOp t)).isNone && (cx.lineOp t).lanes.length != 0) = true := by decide +kernel

/-- R247: every lane of ATOM .add on one word sees what the lanes before it have left: 16 lanes add 0x01020300 + lane at 0x200000. -/
theorem test_atom : after (lanes.updWarp 0 fun w => (List.range 16).foldl (fun (w : Warp) l => w.vset 8 l 0x200000) w) (.atom (en 0 32 8 10 0)) (fun u => (awaited u, u.readNum 0x200000 4)) =
    some ([([(0, 0), (1, 0x1020300)], 0)], (16 * 0x01020300 + 120) % 2 ^ 32) := by decide +kernel

/-- Hypotheses of Atomics: word, exchange, compare-and-swap, and the scalar forms. -/
theorem witness_Atomics : ([0, 1, 2, 3].all fun m => issuing lanes (.atom (el (8 + m) 32 8 10 10 0x200)) fun cx t =>
      freely t (cx.memOp t (.atom m) cx.space 4 (cx.laneAccs t cx.space 4 cx.e.a.toNat (vecWords cx.e.b.toNat 1) noWords)) && (t.block cx.blk).kind != .shadow && (t.core 0).marks.isEmpty) = true ∧
    (issuing lanes (.atom (el 4 32 8 10 10 0x200000)) fun cx t =>
      freely t (cx.memOp t (.atom 4) cx.space 4 (cx.laneAccs t cx.space 4 cx.e.a.toNat (vecWords cx.e.b.toNat 1) noWords)) && cx.space = 0) = true ∧
    ([5, 6, 7].all fun m => issuing lanes (.atom (el m 32 6 10 12 0x200000)) fun cx t =>
      let op := cx.memOp t (.atom m) cx.space 8 (cx.scalarAcc t cx.space 8 cx.e.a.toNat [] [])
      plainB t && unwatchedB t op.blk && reachesB t op && op.lanes.length = 1) = true := by decide +kernel

/-- R247, R248: MRED .or of 16 lanes at one word of the scratchpad. -/
theorem test_mred : after (lanes.updWarp 0 fun w => (List.range 16).foldl (fun (w : Warp) l => w.vset 8 l 0x100) w) (.mred (en 10 0 8 10 0)) (fun u => numOf ((u.core 0).readSpad 0x100 4)) = some 0x0102030F := by decide +kernel

/-- Hypotheses of Reductions. -/
theorem witness_Reductions : ([0, 1, 2, 3, 4, 5, 6].all fun m => issuing lanes (.mred (el (8 + m) 0 8 10 0 0x200)) fun cx t =>
    freely t (cx.memOp t (.mred m) cx.space 4 (cx.laneAccs t cx.space 4 cx.e.a.toNat (vecWords cx.e.b.toNat 1) noWords)) && (t.block cx.blk).kind != .shadow && (t.core 0).marks.isEmpty) = true ∧
    (issuing lanes (.mred (el 7 0 8 10 0 0x200000)) fun cx t => freely t (cx.memOp t (.mred 7) cx.space 4 (cx.laneAccs t cx.space 4 cx.e.a.toNat (vecWords cx.e.b.toNat 1) noWords)) && cx.space = 0) = true := by decide +kernel

/-- R79, R183: 16 exact adds of 1 to a word that holds 2^24 sum to 2^24 + 16, where adds that round each would stay at 2^24. -/
theorem test_mred_exact : after ((lanes.updWarp 0 fun w => (List.range 16).foldl (fun (w : Warp) l => (w.vset 8 l 0x200000).vset 10 l 0x3F800000) w).writeBytes 0x200000 [0, 0, 0x80, 0x4B]) (.mred (en 7 0 8 10 0))
    (fun u => u.bytesAt 4 (some (.glb 0x200000))) = some 0x4B800008 := by decide +kernel

/-- A matrix entry of the block in its core's queue. -/
def queued : State := stand.setCore 0 { stand.core 0 with mq := [{ blk := 0, id := 5, op := 3, started := true, type := 0, shape := 0, tile := 0, k := 1, ext := 0, a := 0, pitchA := 0, b := 0, pitchB := 0, scalesA := [], scalesB := [], dst := 0, sb := 0, ranks := [], wins := [], readA := none, readB := none }] }

/-- R252: QFENCE .matrix waits for the entry, QFENCE .porter does not. -/
theorem test_qfence : after queued (.qfence (en 1 0 0 0 0)) (fun u => ((u.warpD 0).waits, (u.warpD 0).fence.isSome)) = some ([5], true) ∧
    after queued (.qfence (en 8 0 0 0 0)) (fun u => ((u.warpD 0).waits, (u.warpD 0).fence.isSome)) = some ([], false) ∧
    after stand (.stage (en 1 0 7 0 0)) (fun u => (u.block 0).stage) = some 7 := by decide +kernel

/-- Hypotheses of FencesAndStage; `queued` has an operation that QFENCE .matrix names and none that .porter names. -/
theorem witness_FencesAndStage : ([Instr.fence (en 0 0 0 0 0), .stage (en 0 0 2 0 0), .stage (en 1 0 7 0 0)].all fun i => issuing stand i) = true ∧
    (issuing queued (.qfence (en 1 0 0 0 0)) fun cx _ => (queued.core 0).mq.any fun x => x.blk = cx.blk && x.id = 5) = true ∧
    (issuing queued (.qfence (en 8 0 0 0 0)) fun cx _ => cx.m = 8 && queued.queues.isEmpty) = true := by decide +kernel

/-- R243, R244: MBINIT with a count of 4,097 makes 4,096; the only arrival of epoch 0 begins epoch 1. -/
theorem test_barriers : after lanes (.mbinit (en 8 0 6 8 0)) (fun u => ((u.barObj 0 0x40).need, (u.barObj 0 0x40).left)) = some (4096, 4096) ∧
    after (lanes.updCore 0 fun c => { c with spad := [(0x43, 4), (0x44, 0x80)] }) (.mbarr (en 8 0 6 0 0)) (fun u => (u.core 0).readSpad 0x40 8) = some [0, 0, 0, 4, 0x80, 0, 0x10, 0] := by decide +kernel

/-- The one place of a barrier instruction at s6. -/
def barPlace (t : State) (op : MemOp) : Bool := plainB t && unwatchedB t op.blk && op.lanes.length = 1 &&
  (op.lanes.all fun a => t.placeOf op a = some (.spad 0 [0x40, 0x44])) && t.locPresent (.spad 0 [0x40, 0x44])

/-- Hypotheses of Barriers. -/
theorem witness_Barriers : ([(Instr.mbinit (en 8 0 6 8 0), AccKind.mbinit 1), (.mbarr (en 8 0 6 0 0), .mbarr), (.mbexp (en 8 0 6 8 0), .mbexp 0x1001), (.mbwait (en 8 0 6 8 0), .mbwait 1),
    (.mbtest (en 8 4 6 8 0), .mbtest 1 false), (.mbtest (en 9 4 6 8 0), .mbtest 1 true)].all fun x => issuing lanes x.1 fun cx t =>
      barPlace t (cx.memOp t x.2 cx.space 8 (cx.scalarAcc t cx.space 8 cx.e.a.toNat [] []))) = true := by decide +kernel

/-- R237, R238: ACP of 16 pieces of four bytes. -/
theorem test_acp : after lanes (.acp (el 0 0 8 8 0 0x200000)) (fun u => ((u.block 0).acp.map fun x => (x.pieces.take 2).map fun y => y.2, (u.core 0).inflight.get 0 1, (u.core 0).inflight.get 0 2)) =
    some ([[0, 8]], 1, 0) := by decide +kernel

/-- Hypotheses of CopyIssue, without and with a barrier object. -/
theorem witness_CopyIssue : ([0, 1].all fun m => issuing lanes (.acp (el m 0 8 8 6 0x200000)) fun cx t =>
    let op := cx.memOp t (.load 0 false false) cx.space 4 (cx.laneAccs t cx.space 4 cx.e.b.toNat noWords noWords)
    op.lanes.length = 16 && (op.lanes.all fun a => (match t.placeOf op a with | some (.glb _) => true | _ => false) && a.lane * 8 + 4 ≤ (lanes.block cx.blk).psize) &&
    (cx.sval lanes cx.e.c.toNat).toNat = 0x40 && (lanes.core 0).inflight.isEmpty && (lanes.block? cx.blk).isSome) = true := by decide +kernel

/-! ## Tiles and the matrix engine: classes 11 and 12 -/

/-- Tile 0 of pool 1, of generation 0, with two reads left; s16 = its handle. -/
def tiled : State := (standB fun b => { b with tiles := [(tileKey 1 0, { count := 2, pend := 0, gen := 0, free := false })] }).updWarp 0 fun w => w.sset 16 0x20000000

/-- R190, R192, R193: TALLOC answers pool 1, tile 1; TDROP of the last read makes the tile generation 1 and last in its free list. -/
theorem test_tiles : after stand (.talloc (en 0 30 1 2 0)) awaited = some [([], 0x20040000)] ∧
    after tiled (.tdrop (en 1 0 16 0 0)) (fun u => ((u.block 0).free.get [] 12, ((u.block 0).tile (tileKey 1 0)).gen)) = some ([1, 2, 0], 1) ∧
    after tiled (.textend (en 0 0 16 3 0)) (fun u => ((u.block 0).tile (tileKey 1 0)).count) = some 5 ∧ after tiled (.tquery (en 1 30 16 0 0)) awaited = some [([], 0x60000)] := by decide +kernel

/-- Hypotheses of Tiles: an allocation, one that waits, and the instructions on a good handle. -/
theorem witness_Tiles :
    ([1, 2].all fun n => issuing stand (.talloc (en (n % 2) 30 1 n 0)) fun cx _ => (stand.block? cx.blk).isSome && !(stand.ctx 0).dmode && (poolOf block.record 1).valid &&
      ((poolOf block.record 1).part (allocPart block 1 0 (cx.m % 2 = 1))).2 != 0 && (block.free.get [] 12 = [1, 2]) && (block.waiters.get [] 12).isEmpty && allocPart block 1 0 (cx.m % 2 = 1) = 4) = true ∧
    (issuing (standB fun b => { b with free := [] }) (.talloc (en 0 30 1 2 0)) fun cx t => ((t.block cx.blk).free.get [] 12).isEmpty) = true ∧
    ([Instr.tdrop (en 0 0 16 0 0), .tdrop (en 1 0 16 0 0), .textend (en 0 0 16 3 0), .tquery (en 0 30 16 0 0), .tquery (en 1 30 16 0 0)].all fun i => issuing tiled i fun cx _ =>
      let b := tiled.block cx.blk
      b.handle? (cx.sval tiled cx.e.a.toNat) = some (1, 0, 0) && !b.overread 1 0 (some 0) && (b.tile (tileKey 1 0)).count = 2 && (b.tile (tileKey 1 0)).pend = 0 && !tiled.tileBusy b 1 0 && (b.waiters.get [] 12).isEmpty) = true ∧
    ([2, 3].all fun m => issuing tiled (.tquery (en m 30 1 0 0)) fun cx _ => cx.m % 4 = m && (poolOf block.record cx.e.a.toNat).valid) = true ∧ (issuing allocated (.tquery (en 3 30 0 0 0)) fun _ t => !(t.block 0).handles.isEmpty) = true := by decide +kernel

/-- A good plain operand. -/
def goodOperand (c : MtxCheck) : Bool := match c with | .ok o => o.cons.isNone | _ => false

/-- s20 = 0, an operand at partition offset 0; s22 = the descriptor of tile 0 of pool 0; s24 = an ADRAIN to the scratchpad, s26 to a register range, s28 to a tile. -/
def matrix : State := stand.updWarp 0 fun w => (((w.sset 22 0x8000000000000000).sset 24 0).sset 26 0x100).sset 28 0x100

/-- Hypotheses of MatrixIssue: chunks 1 and the operand rows of each shape, MMAS's scales, ALD's two formats, ADRAIN's three destinations, and a full queue. -/
theorem witness_MatrixIssue :
    ([0, 16, 32, 48].all fun m => issuing matrix (.mma (at_ .warp (en m 1 20 20 0))) fun cx _ => let b := matrix.block cx.blk
      goodOperand (b.checkOperand (cx.sval matrix 20) (if m / 32 % 2 = 1 then 64 else 128) (4 * mtxWidth (cx.m % 16)) (m / 32 % 2 = 0) false) &&
      goodOperand (b.checkOperand (cx.sval matrix 20) (if m / 16 % 2 = 1 then 64 else 128) (4 * mtxWidth (cx.m % 16)) (m / 16 % 2 = 0) false)) = true ∧
    (issuing matrix (.aclr (at_ .warp (en 0 1 0 0 0))) fun cx _ => (matrix.core (matrix.block cx.blk).core).mq.isEmpty && (matrix.core (matrix.block cx.blk).core).mwait.isEmpty) = true ∧
    ([0, 1, 2].all fun m => issuing matrix (.ald (at_ .warp (en m 1 20 0 0))) fun cx _ => goodOperand ((matrix.block cx.blk).checkOperand 0 128 (if m = 0 then 512 else 256) true false)) = true ∧
    issuing matrix (.msync (at_ .warp (en 0 0 0 0 0))) = true ∧
    (issuing (matrix.setCore 0 { matrix.core 0 with mq := List.replicate 16 { id := 1, blk := 0, op := 3 } }) (.msync (at_ .warp (en 0 0 0 0 0))) fun cx t => (t.core (t.block cx.blk).core).mq.length = 16) = true := by decide +kernel

/-- Further hypotheses of MatrixIssue: MMAW's window on a halo tile, MMAS's scales, ADRAIN to registers, to the scratchpad and to a tile, with and without a free tile. -/
theorem witness_MatrixIssue_more :
    (issuing matrix (.mmaw (at_ .warp (el 0 1 20 22 0 0))) fun cx _ => let b := matrix.block cx.blk
      !(Window2.of 0).bad 32 (mtxWidth 0) (poolOf b.record 0).size && goodOperand (b.checkOperand 0 128 (4 * mtxWidth (cx.m % 16)) true false) && goodOperand (b.checkOperand (cx.sval matrix 22) 128 (4 * mtxWidth (cx.m % 16)) true true)) = true ∧
    (issuing matrix (.mmas (at_ .warp (el 3 1 20 20 0 0))) fun cx _ => let b := matrix.block cx.blk
      (cx.rangeBad matrix (matrix.rangeUses b cx.wid cx.op cx.e)).isNone && !cx.scaleExited matrix 128 &&
      goodOperand (b.checkOperand 0 128 (4 * mtxWidth (cx.m % 16)) true false)) = true ∧
    (issuing matrix (.adrain (at_ .warp (en 0 32 1 26 0))) fun cx _ => (cx.rangeBad matrix (matrix.rangeUses (matrix.block cx.blk) cx.wid cx.op cx.e)).isNone) = true ∧
    (issuing matrix (.adrain (at_ .warp (en 16 0 1 24 0))) fun cx _ => !scaleBad (matrix.block cx.blk) (cx.m % 16) 0 && 127 * (16 * convWidth 0) + 16 * convWidth 0 ≤ (matrix.block cx.blk).psize) = true ∧
    ([[3], []].all fun l => issuing (matrix.updBlock 0 fun b => { b with free := [(4, l)] }) (.adrain (at_ .warp (en 32 30 1 28 0))) fun cx t => let b := t.block cx.blk
      (poolOf b.record 0).valid && ((poolOf b.record 0).part (allocPart b 0 0 false)).2 != 0 && allocPart b 0 0 false = 4 && b.free.get [] 4 = l && (cx.sval matrix 28).toNat = 0x100 &&
      !scaleBad b (cx.m % 16) 0x100 && 128 * (16 * convWidth 0) ≤ (poolOf b.record 0).size) = true := by decide +kernel

/-- A core whose oldest matrix entry, that of `e`, has started, with two accumulator words, 1.5 as BF16 at 0 and 2 as BF16 at 0x1000 of its scratchpad. -/
def entering (e : MEntry) : State := stand.setCore 0 { stand.core 0 with
  mq := [{ e with started := true }], acc := [(accKey 1 0 0, 5), (accKey 2 0 0, 6)], spad := [(0, 0xC0), (1, 0x3F), (0x1001, 0x40)] }

/-- R215: 1.5 × 2 on top of 0.25 in BF16 is 3.25; R207: an entry that completes leaves its queue. -/
theorem test_matrix_entries :
    (entering { id := 1, blk := 0, op := 0 }).mmaWord { id := 1, blk := 0, op := 0, type := 1, tile := 1, k := 1, a := 0, pitchA := 64, b := 0x1000, pitchB := 64 } 0 0 0x3E800000 = 0x40500000 ∧
    after (entering { id := 1, blk := 0, op := 3, tile := 1 }) (.matrixEntryComplete 0) (fun u => (u.core 0).mq.length) = some 0 := by decide +kernel

/-- Hypotheses of MatrixEntries: an entry that starts, one that waits for a granule, entries of every kind that complete, and a consuming read that ends. -/
theorem witness_MatrixEntries :
    (let s := queued; (s.core 0).mq.length = 1 ∧ (s.readRanges ((s.core 0).mq.headD { id := 0, blk := 0, op := 0 }) ++ s.writeRanges ((s.core 0).mq.headD { id := 0, blk := 0, op := 0 })).length = 0) ∧
    ([0, 2, 3, 4, 5, 6].all fun op => let s := entering { id := 1, blk := 0, op := op, type := 0, tile := 1 }
      (s.block 0).core = 0 && s.platform.errors.isEmpty && (s.ctxs.all fun c => c.2.watches.isEmpty) && s.parkedOps.isEmpty && ((s.core 0).mq.all fun e => e.started && e.readA.isNone && e.readB.isNone)) = true ∧
    (let s := tiled.updBlock 0 fun b => { b with tiles := [(tileKey 1 0, { count := 0, pend := 1, gen := 0, free := false })], reads := [{ id := 7, tile := tileKey 1 0, clock := 0 }] }
     (s.block? 0).isSome = true ∧ (s.block 0).ended = false ∧ s.parkedOps.length = 0 ∧ s.tileBusy (s.block 0) 1 0 = false ∧
     after s (.consumingReadComplete 0 7) (fun u => (u.block 0).free.get [] 12) = some [1, 2, 0]) := by decide +kernel

/-! ## The porter, rings and system instructions: classes 13 and 14 -/

/-- Queues 3 and 4 bound by the context, v8 and v10 pairs of addresses, s30 = 0x200000, s32 = 0x201000, s34 = 64. -/
def networked : State := { (lanes.updWarp 0 fun w => ((w.sset 30 0x200000).sset 32 0x201000).sset 34 64) with
  queues := [(3, { st := .ready, inc := 1, slot := 0, gen := 1, port := 16 }), (4, { st := .ready, inc := 1, slot := 0, gen := 1, port := 16 })] }

/-- R323, R344: a PUT joins its queue with its addresses and length; POST, with an all-zero body, joins the posted requests. -/
theorem test_put : after networked (.put (en 1 34 3 30 32)) (fun u => (u.queue 3).cmds.map fun c => (c.remote, c.local_, c.len, c.cpl, c.cseq)) = some [(0x200000, 0x201000, 64, true, 0)] ∧
    after networked (.post (en 0 0 3 32 34)) (fun u => u.posted.map fun r => (r.queue, r.tag, r.number)) = some [(3, 64, 0)] := by decide +kernel

/-- Hypotheses of PorterCommands: plain and tagged, of each lane and of one, room and none. -/
theorem witness_PorterCommands :
    ([Instr.put (en 1 34 3 30 32), .put (en 2 34 3 30 32), .put (el 4 0 3 8 8 4), .get (en 0 34 3 30 32), .patom (en 32 36 3 30 34), .patom (en 1 40 3 8 16), .pcount (at_ .warp (en 0 0 3 4 34))].all fun i => issuing networked i fun cx _ =>
      let b := networked.block cx.blk
      b.kind != .shadow && (networked.queue cx.e.a.toNat).slot = b.ctx && (networked.queue cx.e.a.toNat).gen = (networked.ctx b.ctx).gen && (cx.netLanes networked (cx.m / 4 % 2 = 1)).length != 0 &&
      ((cx.netLanes networked true).all fun l => l.c.toNat / 2 ^ 54 = networked.chip)) = true ∧
    (issuing networked (.post (en 0 0 3 32 34)) fun cx t => plainB t && t.posted.length = 0 &&
      (match t.checkGlb (coreOf cx.wid) 0 64 .read false (cx.sval networked cx.e.b.toNat).toNat with | .ok (.glb pa) => pa = 0x201000 && (cx.postFault t (BitVec.ofNat 512 (t.bytesAt 64 (some (.glb pa))))).isNone | _ => false)) = true ∧
    (issuing (networked.updQueue 3 fun x => { x with cmds := List.replicate 1024 { id := 9, kind := .get, remote := 0, local_ := 0, len := 1, cpl := false, blk := none, issuers := [], site := (0, 0, 0), cseq := 0 } }) (.put (en 1 34 3 30 32)) fun cx t =>
      1024 < ((t.queue 3).cmds.filter fun c => !c.forward).length + (cx.netLanes t false).length) = true := by decide +kernel

/-- A ring of 16 slots of 64 bytes, one consumer, at 0x300000, s36 = its address; s38 = the address of a zero record. -/
def ringed (tail cursor : Nat) : State :=
  (lanes.updWarp 0 fun w => (((w.sset 36 0x300000).sset 62 0x300000).sset 38 0x301000).sset 40 tail).writeBytes 0x300000
    (bytesOf 128 (mkBody [(0, 8, 0x310000), (8, 1, 4), (9, 1, 6), (10, 1, 1), (0x10, 8, tail), (0x40, 8, cursor)]))

/-- Something of a valid header. -/
def headed (t : State) (f : Ring → State → Bool) : Bool := match t.readRing 0 0x300000 with | .ok r v => f r v && r.ncons = 1 && r.lgs = 6 | _ => false

/-- R354: RCUR reads a cursor, a tail and the address of the slot at the cursor. -/
theorem test_rings : [0, 16, 8].map (fun m => after (ringed 5 3) (.rcur (at_ .warp (en m 30 36 0 0))) awaited) = [some [([], 3)], some [([], 5)], some [([], 0x3100C0)]] := by decide +kernel

/-- R354: RWAIT for data passes where the slot holds its sequence, and parks otherwise. -/
theorem test_rwait : after (ringed 0 0) (.rwait (en 0 0 36 40 0)) (fun u => (u.warpD 0).parks.length) = some 0 ∧ after (ringed 2 2) (.rwait (en 0 0 36 40 0)) (fun u => (u.warpD 0).parks.length) = some 1 := by decide +kernel

/-- That k slots from n on are mapped for an access. -/
def slotsOk (v : State) (r : Ring) (n k : Nat) (acc : Access) : Bool := (List.range k).all fun j => match v.translateEngine r.ctx (r.slot (n + j)) acc with | .ok _ => true | _ => false

/-- That the one source of an RPUSH .s can be copied. -/
def sourceOk (cx : Cx) (t v : State) : Bool := (cx.netLanes t (!cx.S)).all fun l =>
  (match t.checkGlb (coreOf l.wid) 0 8 .read false l.b.toNat with | .ok _ => true | _ => false) && (v.readVirt 0 (va54 l.b) 56).1.isSome

/-- Hypotheses of RingInstructions: a ring with room, a full one, one with a record and one without, RWAIT's two conditions, RCUR's three, and SVC. -/
theorem witness_RingInstructions :
    (issuing (ringed 5 3) (.rpush (en 32 0 36 38 0)) fun cx t => plainB t && (t.block cx.blk).kind != .shadow && (cx.netLanes t (!cx.S)).length = 1 && headed t fun r v =>
      sourceOk cx t v && r.tail + 1 ≤ r.cursors.getD 0 0 + 16 && slotsOk v r r.tail 1 .write && (v.claim r 1).isSome) = true ∧
    (issuing (ringed 19 3) (.rpush (en 32 0 36 38 0)) fun cx t => plainB t && headed t fun r v => sourceOk cx t v && !(r.tail + 1 ≤ r.cursors.getD 0 0 + 16)) = true ∧
    (issuing (ringed 5 0) (.rpop (en 32 30 36 0 0)) fun _ t => headed t fun r v => slotsOk v r 0 1 .read && v.slotSeq r 0 = 0 && (v.writeVirt r.ctx (r.header + 0x40) (bytesOf 8 1)).isSome) = true ∧
    (issuing (ringed 5 3) (.rpop (en 32 30 36 0 0)) fun _ t => headed t fun r v => slotsOk v r 3 1 .read && v.slotSeq r 3 != 3) = true ∧
    ([0, 1].all fun m => issuing (ringed 2 2) (.rwait (en m 0 36 40 0)) fun cx t => headed t fun r v => (cx.sval t cx.e.b.toNat).toNat = 2 && slotsOk v r 2 1 .read && v.slotSeq r 2 != 2 && 2 < r.cursors.getD 0 0 + 16) = true ∧
    (issuing (ringed 19 3) (.rwait (en 1 0 36 40 0)) fun _ t => headed t fun r _ => r.cursors.getD 0 0 + 16 ≤ 19) = true ∧
    (issuing (ringed 5 3) (.rcur (at_ .warp (en 0 30 36 0 0))) fun cx t => headed t fun r _ => cx.m % 8 < r.ncons) = true := by decide +kernel

/-- Hypotheses of RingInstructions for SVC by one lane: 64 bytes of payload do not fit 56, 120 do. -/
theorem witness_RingInstructions_svc : (issuing ((ringed 5 3).writeBytes 0x300009 [7]) (.svc { en 0 0 8 0 0 with sel := 1 }) fun cx t => plainB t && (t.block cx.blk).kind != .shadow && !t.originFull && cx.parts.length = 1 &&
    (cx.parts.all fun p => 32 + 32 * (cx.lanesOf p).length ≤ 2 ^ 7 - 8) && freeB cx t && noEndB cx t &&
    (t.warpD 0).blk = cx.blk && match t.readRing 0 (cx.sval t 62) with | .ok r v => r.lgs = 7 && r.tail + 1 ≤ r.cursors.getD 0 0 + 16 && slotsOk v r r.tail 1 .write && (v.claim r 1).isSome | _ => false) = true := by decide +kernel

/-- The test record as a launch record: with its digest field filled. -/
def launching : State := ((member lanes).updWarp 0 fun w => ((w.sset 42 0x400000).sset 44 0x401000).sset 46 0x100000000000000).writeBytes 0x400000 (bytesOf 512 (record.toNat + 2 ^ (8 * 0x180)))
  |>.writeBytes 0x401000 (bytesOf 64 (mkMsg 0 0 9 0 0 0).toNat)

/-- R361: TIME, CLK, and CTXQ's slot and generation; R359: the event of a LAUNCH carries the record with its site. -/
theorem test_system : after lanes (.ctxq (en 0 30 0 0 0)) awaited = some [([], 0x10000)] ∧
    after launching (.launch (at_ .warp (en 0 0 42 0 0))) (fun u => (u.readNum 0x400040 8, u.outbox.length, (u.controls.get {} (controlOf 0)).commands)) = some (0x100000, 1, 1) := by decide +kernel

/-- Hypotheses of SystemInstructions. -/
theorem witness_SystemInstructions :
    (issuing launching (.launch (at_ .warp (en 0 0 42 0 0))) fun cx t => launching.isMember && !launching.hytur.fenced && !launching.originFull && (t.block cx.blk).kind != .shadow &&
      match cx.readRecord t (cx.sval launching 42) 8 with | .ok (n, _, v) => recordValid (BitVec.ofNat 4096 n) && v.translate (coreOf cx.wid) 0 0x400040 .write = .ok 0x400040 | _ => false) = true ∧
    (issuing launching (.evsub (at_ .warp (en 0 0 44 0 0))) fun cx t => match cx.readRecord t (cx.sval launching 44) 1 with | .ok (n, _, _) => evsubOk (BitVec.ofNat 512 n) 0 | _ => false) = true ∧
    (issuing lanes (.launch (at_ .warp (en 0 0 42 0 0))) fun _ t => !t.isMember) = true ∧
    (issuing launching (.evwait (at_ .warp (en 0 30 46 0 0))) fun cx _ => (cx.sval launching 46).toNat / 2 ^ 56 = 1 && ((launching.controls.get {} (controlOf 0)).outcome 0).isNone) = true ∧
    (issuing { launching with controls := [(controlOf 0, { commands := 1, outcomes := [(0, 1, 7)] })] } (.evwait (at_ .warp (en 0 30 46 0 0))) fun _ t => (t.controls.get {} (controlOf 0)).outcome 0 = some 7) = true ∧
    ([Instr.time (en 0 30 0 0 0), .time (en 32 30 0 0 0), .clk (en 0 30 0 0 0), .clk (en 32 30 0 0 0), .ctxq (en 0 30 7 0 0), .dgread (en 0 30 3 0 0)].all fun i => issuing lanes i) = true := by decide +kernel

/-! ## Faults and results that come by themselves -/

/-- A TrapOpen of a warp. -/
def openB (t : State) (recs : List Rec) (wid : Nat := 0) : Bool :=
  (t.warp? wid).isSome && (t.warpD wid).frame.isNone && (t.block (t.warpD wid).blk).kind != .shadow && (t.trapHold [wid]).isNone && entryB (t.flushWarp wid) wid recs

/-- Which gives one. -/
theorem openB_spec (t : State) (recs : List Rec) (wid : Nat) (h : openB t recs wid = true) : ∃ z, TrapOpen t wid recs z := by
  simp only [openB, Bool.and_eq_true, Option.isNone_iff_eq_none, bne_iff_ne, ne_eq] at h
  obtain ⟨⟨⟨⟨h0, h1⟩, h2⟩, h3⟩, h4⟩ := h
  obtain ⟨z, hz⟩ := entryB_spec _ _ _ h4
  exact ⟨z, h0, h1, h2, h3, hz⟩

/-- R271: a record that carries 32 bytes of its own. -/
theorem witness_FaultRecord : let bs := Rec.bytes { code := 0x40, body := some (List.replicate 32 7), addr := some 0x123, space := 2 } block 0 1 2
    bs.drop 0x1E = [0x82, 0] ++ List.replicate 32 7 ∧ bs.take 8 = [0x40, 0xFF, 0, 0, 1, 0, 2, 0] := by decide +kernel

/-- A block that holds a fault, and a context whose warps have been stuck for 2^20 issues. -/
def faulting : State := standB fun b => { b with held := [{ code := 0x3A, info := 5 }] }

/-- Hypotheses of EventTraps: at the PC, by a held fault, whose record the warp takes at its boundary. -/
theorem witness_EventTraps :
    (stand.cur = some 0 ∧ (stand.nextPc 0).map (·.1) = some 0x100000) ∧
    openB (stand.updWarp 0 fun w => { w with lclk := w.lclk + 1 }) [{ code := 0x01, pc := 0x100000, lanes := (stand.warpD 0).selected 16 }] = true ∧
    openB (stand.updWarp 0 fun w => { w with lclk := w.lclk + 1 }) [{ code := 0x04, pc := 0x100000, addr := some 0x20000000, lanes := (stand.warpD 0).selected 16 }] = true ∧
    ((faulting.block 0).held.length = 1 ∧ (faulting.block 0).wids = [0] ∧ (faulting.warpD 0).suspended = none ∧ faulting.atBoundary 0 = true) ∧
    openB (faulting.updBlock 0 fun b => { b with held := [] }) [{ code := 0x3A, info := 5 }] = true ∧
    (standB fun b => { b with held := [{ code := 0x3A }], started := false }).atBoundary 0 = false := by decide +kernel

/-- The block as a stream program on its home control core, no issue for 2^4 counts. -/
def hung : State :=
  let s := standC fun c => { c with hang := 4, hangCount := 16 }
  { s with warps := [(widOf 128 0, s.warpD 0)], blocks := [(0, { block with core := 128, wids := [widOf 128 0], kind := .stream })] }

/-- Hypotheses of EventTraps for a HANG. -/
theorem witness_EventTraps_hang : (hung.ctxs.find 0).isSome = true ∧ 2 ^ (hung.ctx 0).hang ≤ (hung.ctx 0).hangCount ∧ (hung.ctx 0).hangFired = false ∧ hung.hangTarget 0 = some (widOf 128 0) ∧
    ((hung.hangGraph 0).take 4096).flatMap id = [] ∧ hung.atBoundary (widOf 128 0) = true := by decide +kernel

/-- A warp whose window 3 has v5's result for lanes 0 and 1. -/
def resulting (ws : List RegWrite) : State := standW fun w => { w with windows := [{ id := 3, lanes := 3, ready := true, writes := ws }] }

/-- R135: the result reaches its register, once. -/
theorem test_result : after (resulting [.vec 5 [(0, 7), (1, 8)]]) (.longLatencyResult 0 3) (fun u => ((u.warpD 0).vget 5 1, (u.warpD 0).vget 5 2)) = some (8, 0) ∧
    after (resulting [.scal 9 77]) (.longLatencyResult 0 3) (fun u => (u.warpD 0).sget 9) = some 77 := by decide +kernel

/-- Hypotheses of ResultDelivery: each kind of write. -/
theorem witness_ResultDelivery : ([[RegWrite.vec 5 [(0, 7), (1, 8)]], [.scal 9 77], [.mask 2 3 1]].all fun ws => ((resulting ws).warp? 0).isSome &&
    (((resulting ws).warpD 0).windows.find? fun x => x.id = 3 && x.ready && !x.done).isSome) = true := by decide +kernel

/-! ## Blocks on cores -/

/-- The tables of a pod of chips 0 to 2, with grid 0 of the test record (stream: its stream program) and its block 0 waiting for this chip. -/
def gridded (stream : Bool) : State :=
  let s := member (standC fun c => { c with cloak := 0x8000000, cloaksz := 0x4000000 })
  { s with warps := [], blocks := [], hytur := { s.hytur with tables := { s.hytur.tables with
      grids := [(0, { st := .running, ctxRow := 64, record := record, stream := stream, arg := 9 })], blocks := [{ grid := 0, bid := 0, st := .placed, chip := 0 }] } } }

/-- R122, R304: an admitted block's warp stands at the record's entry; a stream's argument is in s0. -/
theorem test_admission : after (gridded false) (.blockAdmission 0 0 5) (fun u => u.warps.map fun w => (w.1, w.2.pc 15, w.2.live, w.2.sget 0)) = some [(widOf 5 0, 0x100000, 0xFFFF, 0)] ∧
    after (gridded true) (.blockAdmission 0 0 128) (fun u => u.warps.map fun w => (w.1, w.2.pc 0, w.2.live, w.2.sget 0)) = some [(widOf 128 0, 0x100000, 1, 9)] := by decide +kernel

/-- Hypotheses of BlockAdmission: a kernel's block, a stream's, and a D-mode block on its own core. -/
theorem witness_BlockAdmission :
    (let s := gridded false; (s.hytur.tables.grids.find 0).any (fun g => (s.seat 0 0 g 5 .kernel 0 id).isSome) = true ∧ s.awaits 0 0 = true ∧ s.ctxRuns 64 = true ∧ s.rerunning 0 = false ∧ (s.core 5).readmit.length = 0) ∧
    (let s := gridded true; (s.hytur.tables.grids.find 0).any (fun g => (s.seat 0 0 g 128 .stream 0 id).isSome) = true ∧ s.awaits 0 0 = true) ∧
    (let s := (gridded false).updCtx 0 fun c => { c with dmode := true }
     s.savedAhead 0 (s.dcore record 0) = false ∧ (s.positions.get (0, 0) (positionKey 0 (s.dcore record 0) (s.turnOf 0 0 (s.dcore record 0) record).1)).1 = (s.turnOf 0 0 (s.dcore record 0) record).2.1 ∧ s.dcore record 0 < 128 ∧
     (s.hytur.tables.grids.find 0).any (fun g => (s.seat 0 0 g (s.dcore record 0) .kernel 0 id).isSome) = true) ∧ after stand (.blockStart 0) (fun u => (u.block 0).started) = some true := by decide +kernel

/-- An image of the block, whose warp has left the core. -/
def imaged : State :=
  let s := gridded false
  { s with images := [{ key := 0, block := block, warps := [(0, stand.warpD 0)] }] }

/-- Hypotheses of BlockSaves: a block that is to leave and is ready, an image that comes back, a parked warp whose registers fit, and the slice of a context. -/
theorem witness_BlockSaves :
    (let s := standB fun b => { b with victim := true }; (s.block 0).copies.length = 0 ∧ (s.block 0).acp.length = 0 ∧ (s.block 0).reads.length = 0 ∧ s.halfPerformed 0 = false) ∧
    (let s := imaged; (s.images.find? fun x => x.block.grid = 0 && x.block.bid = 0 && s.mayReturn x && s.ownRoom x).isSome = true ∧ s.images.all (fun x => !s.imageError x && x.block.rerun != 3) = true) ∧
    (let s := (standW fun w => { w with offcore := some 4 }).updCore 0 fun c => { c with readmit := [0] }; s.usedRegs 0 + 16 * budgetOf block.record 0 * 4 ≤ 2 ^ 20 ∧
      after s (.warpReadmission 0) (fun u => ((u.warpD 0).offcore, (u.core 0).readmit)) = some (none, [])) ∧
    (stand.blocks.map (·.1)).Nodup := by decide +kernel

/-! ## Engines around a core -/

/-- A block whose itinerary has one copy: 2 rows of 1 granule from 0x200000 to 0x400 of the partition, at stage 1. -/
def travelling (stage kind : Nat) : State := (standB fun b => { b with free := [], itin := [(mkBody [(0, 8, 0x200000), (0x18, 4, 2), (0x1C, 2, 2), (0x1E, 2, 1), (0x20, 4, 1), (0x24, 2, 1), (0x28, 4, 0x400), (0x2C, 1, kind), (0x2D, 1, 1), (0x2E, 1, 2), (0x2F, 1, 0xFF)])], stage := stage }).writeBytes 0x200080 [7, 8]

/-- R185 to R187: the copy issues at its stage into two granules; its second granule lands with the bytes two granules on. -/
theorem test_itinerary : after (travelling 0 0) (.itineraryCopyIssue 0) (fun u => (u.block 0).copies.length) = some 0 ∧
    after (travelling 1 0) (.itineraryCopyIssue 0) (fun u => ((u.block 0).copies.map (·.left), (u.core 0).inflight.get 0 0x10)) = some ([[0, 1]], 1) ∧
    after (((travelling 1 0).updBlock 0 fun b => { b with copies := [{ id := 9, entry := 0, rep := 0, base := 0x400, left := [0, 1], clock := 0 }] }).updCore 0 fun c => { c with inflight := [(0x10, 1), (0x11, 1)] })
      (.itineraryCopyLanding 0 9 1) (fun u => ((u.core 0).readSpad 0x440 3, (u.core 0).inflight.get 0 0x11, (u.block 0).copies.map (·.left))) = some ([7, 8, 0], 0, [[0]]) := by decide +kernel

/-- Hypotheses of ItineraryCopies: before its stage, at it, into a full granule, into a tile, and a granule that lands. -/
theorem witness_ItineraryCopies : (([(0, 0), (1, 0), (1, 1)] : List (Nat × Nat)).all fun x => let s := travelling x.1 x.2
      (s.block 0).nextCopy = some (1, 0, 0) && !(s.block 0).itinOff && !(s.block 0).waiting && (s.block 0).waiters.isEmpty && !(s.block 0).ended && s.parkedOps.isEmpty && plainB s && (s.ctxs.all fun c => c.2.watches.isEmpty) &&
      !(s.ctx 0).dmode && (s.core 0).inflight.isEmpty) = true ∧ ((travelling 1 1).block 0).free.get [] 12 = [] ∧
    (let s := travelling 1 0
     match s.copyPlace (s.block 0) ((s.block 0).itinEntry 0) { id := 9, entry := 0, rep := 0, base := 0x400, left := [0, 1], clock := 0 } ((s.block 0).copySource ((s.block 0).itinEntry 0) 0 1) with
      | some (.inl (.glb pa, _)) => pa = 0x200080 && !inAperture pa
      | _ => false) = true := by decide +kernel

/-- The block with an ACP copy of two pieces and an object at 0x40 that expects it, and a window request. -/
def landing : State :=
  let s := (standB fun b => { b with acp := [{ id := 9, wid := 0, die := false, size := 4, srcs := [0x200000, 0x200010], pieces := [(0x200000, 0x80), (0x200010, 0x90)], granules := [2], object := some 0x40, pc := 0, clock := 0 }] }).writeBytes 0x200010 [1, 2, 3, 4]
  { s with cores := [(0, { s.core 0 with inflight := [(2, 1)], spad := [(0x40, 1), (0x43, 4), (0x44, 0x80)] })] }

/-- R238, R239: the second piece stands at its destination, the granule is free, the object expects nothing more. -/
theorem test_acp_landing : after landing (.acpCopyLanding 0) (fun u => ((u.core 0).readSpad 0x90 5, (u.core 0).inflight.get 0 2, (u.barObj 0 0x40).due, (u.block 0).acp.length)) = some ([1, 2, 3, 4, 0], 0, 0, 0) := by decide +kernel

/-- Hypotheses of CopyLanding. -/
theorem witness_CopyLanding : ((landing.oldestAcp 0).map (·.1) = some 0 ∧ plainB landing = true ∧ landing.ctxs.all (fun c => c.2.watches.isEmpty) = true ∧ landing.parkedOps.length = 0 ∧ (landing.block? 0).isSome = true ∧
      (landing.block 0).ended = false ∧ (landing.block 0).waiters.length = 0) ∧ (stand.oldestAcp 0).isNone = true := by decide +kernel

/-- A window of E4M3 blocks, packed at 0x200000, scales at 0x300000, with one write request of 32 ones. -/
def windowed (on : Bool) : State := { stand with
  windows := [(2, { ctx := 0, entry := 2, on := on, alias_ := 2 ^ 46, packed := 0x200000, scales := 0x300000, size := 1, elem := 3, scale := 11 })],
  aliasQ := [{ window := 2, sector := 1, mask := BitVec.allOnes 64, data := (List.replicate 32 [0x80, 0x3F]).flatten }] }

/-- R318: block 1's codes stand at 0x200020 and its scale at 0x300001; a window that is off drops the request. -/
theorem test_window : after (windowed true) (.aliasSectorWrite 2) (fun u => (u.readByte 0x200020 = u.readByte 0x20003F && u.readByte 0x200020 != 0, u.readByte 0x300001 != 0, u.readByte 0x200040, u.aliasQ.length)) = some (true, true, 0, 0) ∧
    after (windowed false) (.aliasSectorWrite 2) (fun u => (u.readByte 0x200020, u.aliasQ.length)) = some (0, 0) := by decide +kernel

/-- Further hypotheses of CopyLanding: the windows' requests. -/
theorem witness_CopyLanding_windows : ([true, false].all fun on => let s := windowed on
    (s.aliasQ.find? fun r => r.window = 2).isSome && (s.windows.find 2).any (fun w => w.on = on && w.packed + 1 * blockBytes w.elem + blockBytes w.elem ≤ w.scales && 5 < w.size * 1024) && s.aliasQ.all fun r => r.window != 3) = true := by decide +kernel

/-- An ordered MRED .add of 5, and the state that has it, behind a floor or below it. -/
def ordering (k : AccKind) (w : Nat) (clock : DWord) : State := { standC (fun c => { c with dmode := true, floors := [(0, some 10)] }) with
  ordered := [{ point := .home 3, blk := 0, bid := 0, index := 0, clock := clock, op := { blk := 0, kind := k, space := 0, width := w, dst := 6, wins := [(0, 4)] }, acc := { wid := 0, lane := 1, e := 1, addr := 0x200000, loc := .glb 0x200000, data := [5], cmp := [0] } }],
  warps := [(0, { stand.warpD 0 with windows := [{ id := 4, lanes := 2, ready := false }] })], hytur := { stand.hytur with tables := { stand.hytur.tables with grids := [(0, { st := .running, ctxRow := 64, record := record })] } } }

/-- R375: an operation at clock 9 is performed below the floor of 10, one at clock 10 is not. -/
theorem test_ordered : after (ordering (.mred 0) 4 9) (.orderedOperationPerform (.home 3)) (fun u => (u.readNum 0x200000 4, u.ordered.length)) = some (5, 0) ∧
    after (ordering (.mred 0) 4 10) (.orderedOperationPerform (.home 3)) (fun u => (u.readNum 0x200000 4, u.ordered.length)) = some (0, 1) ∧
    after (ordering (.mred 0) 4 10) .floorPublication (fun u => (u.ctx 0).floors.find 0) = some (some (some 0)) := by decide +kernel

/-- Hypotheses of OrderedOperations. -/
theorem witness_OrderedOperations : (([(.mred 0, 4), (.atom 0, 4), (.atom 5, 8)] : List (AccKind × Nat)).all fun x => let s := ordering x.1 x.2 9
    plainB s && (s.ctxs.all fun c => c.2.watches.isEmpty) && (s.block 0).kind != .shadow && !inAperture 0x200000 && (firstOrdered (s.ordered.filter fun o => o.point = .home 3)).isSome && (s.ordered.all fun o => s.floorAbove (s.block o.blk) o.clock) &&
    ((s.warpD 0).windows.any fun y => y.id = 4)) = true ∧ (let s := ordering (.mred 0) 4 10; s.ordered.all (fun o => !s.floorAbove (s.block o.blk) o.clock) = true ∧ (s.floorGrids 0).length = 1) := by decide +kernel

/-- A completion record that waits for its ring. -/
def claiming (tail cursor lgs : Nat) : State := { (ringed tail cursor).writeBytes 0x300009 [BitVec.ofNat 8 lgs] with jobs := [{ id := 8, ctx := 0, header := 0x300000, record := [1, 2, 3], queue := some 3, inc := 1 }], queues := networked.queues }

/-- R337, R338: the record is behind the sequence in its slot; on a full ring it waits. -/
theorem test_ring_claim : after (claiming 5 3 6) (.engineRingClaim 8) (fun u => (u.readNum 0x310140 8, u.readNum 0x310148 4, u.jobs.length)) = some (5, 0x30201, 0) ∧
    after (claiming 19 3 6) (.engineRingClaim 8) (fun u => u.jobs.length) = some 1 := by decide +kernel

/-- Hypotheses of EngineEvents for rings: room, none, and a header that is not valid. -/
theorem witness_EngineEvents_rings :
    (let s := claiming 5 3 6; (match s.readRing 0 0x300000 with | .ok r v => r.lgs = 6 && r.tail + 1 ≤ r.cursors.getD 0 0 + 16 && ((v.claim r 1).bind fun x => x.fillSlot r r.tail [1, 2, 3]).isSome | _ => false) = true) ∧
    (let s := claiming 19 3 6; (match s.readRing 0 0x300000 with | .ok r _ => r.cursors.getD 0 0 + 16 < r.tail + 1 | _ => false) = true) ∧
    (let s := claiming 5 3 3; (match s.readRing 0 0x300000 with | .invalid => true | _ => false) = true ∧ (s.queue 3).inc = 1 ∧ (s.queue 3).st = .ready) := by decide +kernel

/-- Hypotheses of EngineEvents for re-runs, shadow runs and cluster stops. -/
theorem witness_EngineEvents :
    (let s := { gridded false with blocks := [(0, { block with rerun := 1 })] }; s.engineBusy 0 = false ∧ (s.ctx 0).suspended = false ∧
      (s.hytur.tables.grids.find 0).any (fun g => (s.seat 0 0 g 0 .rerun 0 fun b => { b with rerunOf := 0 }).isSome) = true) ∧
    (let s := { gridded false with shadows := [{ grid := 0, bid := 0, observed := 1, expected := 2, subject := 1, since := 0 }] }
     (s.ctx 0).usable = true ∧ s.ctxRuns 64 = true ∧ s.isMember = true ∧ (s.hytur.tables.grids.find 0).any (fun g => s.waitsFit 0 (.shadow { grid := 0, bid := 0, observed := 1, expected := 2, subject := 1, since := 0 } g) &&
       (s.seat 0 0 g 0 .shadow 0 fun b => { b with started := true }).isSome) = true) ∧
    after (standC fun c => { c with stopping := [(1, [0, 5]), (2, [7])] }) (.clusterStop 0) (fun u => ((u.warpD 0).halted, (u.ctx 0).stopping)) = some (true, [(1, [5]), (2, [7])]) := by decide +kernel

/-! ## Management, tracing and the platform -/

/-- A booted member with context 0 open at generation 1. -/
def managed : State := let s := member stand; ({ s with platform := { s.platform with boot := .member, config := { s.platform.config with inject := true } } } : State).bindWellKnown

/-- The command that a well-known queue pair is to send to the host. -/
def hostSends (u : State) (k : Nat) : Option (List Byte) := ((u.queue (256 + k)).cmds.getLast?).map (·.data)

/-- A management message: opcode, context 0, generation 1, entry, address, and the word at 0x10. -/
def order (op entry va n : Nat) : Msg := BitVec.ofNat 512 (mkBody [(0, 1, op), (1, 1, 0), (2, 2, 1), (4, 1, entry), (8, 8, va), (0x10, 8, n)])

/-- R404, R424: a comparator is set, an address above 2^54 refused with status 1, a budget is kept for the next grant period. -/
theorem test_management : after managed (.comparator (order 8 2 0x100 1)) (fun u => ((u.ctx 0).comps.map fun x => (x.1, x.2.pc), (u.queue 257).cmds.length)) = some ([(2, 0x100)], 1) ∧
    after managed (.comparator (order 8 2 (2 ^ 54) 1)) (fun u => ((u.ctx 0).comps.length, hostSends u 1)) = some (0, some (bytesOf 64 (setField (order 8 2 (2 ^ 54) 1).toNat 5 1 1))) ∧
    after managed (.setBudget (order 14 0 1500 0)) (fun u => (u.platform.nextBudget, u.platform.budget)) = some (some 1500, 3000) := by decide +kernel

/-- Hypotheses of Management: the open context, a chip that is a member, and one of each command's own conditions. -/
theorem witness_Management : managed.isMember = true ∧ managed.hytur.fenced = false ∧ managed.manage = [] ∧ (managed.ctxs.find 0).map (·.gen) = some 1 ∧ fieldAt (order 6 2 0x300000 0).toNat 2 2 = 1 ∧
    watchOk (order 9 0 0x20000 0x40000) = true ∧ watchOk (order 9 0 0x100 0x40000) = false ∧ (managed.ctx 0).claim.isNone = true ∧
    (match (managed.writeBytes 0x300000 (bytesOf 128 (mkBody [(0, 8, 0x310000), (8, 1, 4), (9, 1, 7), (10, 1, 1)]))).readRing 0 0x300000 with | .ok r _ => 7 ≤ r.lgs | _ => false) = true ∧
    ((managed.aliasDone.dropTranslations 0 0x10000 0x10000).rangeBusy 0 0x10000 0x10000 = false) ∧ ((managed.aliasDone.dropTranslations 0 0 (2 ^ 54)).rangeBusy 0 0 (2 ^ 54) = false) ∧ managed.platform.signed < 2 ^ 20 := by decide +kernel

/-- Hypotheses of Management for windows, resumes and steps. -/
theorem witness_Management_more :
    (let s := { managed with windows := (windowed true).windows }; s.windowSlot 0 2 = some (2, ((windowed true).windows.head?.map (·.2)).getD { ctx := 0, entry := 0, on := false, alias_ := 0, packed := 0, scales := 0, size := 0, elem := 0, scale := 0 }) ∧ (s.windowSlot 0 3).isNone = true) ∧
    (let s := (managed.updBlock 0 fun b => { b with halted := true }).updCtx 0 fun c => { c with claim := some { kind := 0, ring := 0 } }
     (s.block 0).halted = true ∧ (s.block 0).grid = 0 ∧ (s.block 0).ended = false ∧ (s.warp? 0).isSome = true ∧ ((s.warpD 0).live != 0) = true ∧ (s.nextPc 0).isSome = true ∧ (s.stepTarget (order 11 0 0 0)).map (·.1) = some 0) := by decide +kernel

/-- R418, R425, R428: a latch clears the counters; grants take context switches first; a scrub counts once. -/
theorem test_platform : after (stand.updCore 0 fun c => { c with counters := [(3, 9)] }) (.powerGrant [100, 3000, 10, 20]) (fun u => u.platform.grants.map (·.1)) = some [100, 2900, 0, 0] ∧
    after { stand with platform := { stand.platform with errors := [.dram 5] } } (.scrub (.dram 5)) (fun u => u.platform.uncorrected.get 0 (unitOf (.dram 5))) = some 1 ∧
    after stand .idcode (fun u => u.outbox) = some [.scanOut 0x04480A5B] := by decide +kernel

/-- Hypotheses of PlatformEvents: a sampling tick and a latch that are due. -/
theorem witness_PlatformEvents : (let s := { standC (fun c => { c with sampling := { k := 10, ring := 0, lastTick := 1023 } }) with clock := { stand.clock with time := 1024 }, series := { k := 10, ring := 0, lastTick := 0 } }
      ((s.ctx 0).sampling.lastTick < s.clock.time / 2 ^ 10 * 2 ^ 10 ∧ s.series.lastTick < s.clock.time / 2 ^ 10 * 2 ^ 10) ∧ (s.ctxs.find 0).isSome = true ∧ after s .counterLatch (fun u => u.series.lastTick) = some 1024) ∧
    stand.platform.boot = .rom ∧ managed.platform.boot ≠ .rom ∧ (stand.platform.uncorrected.get 0 (unitOf (.dram 5)) ≠ BitVec.allOnes 32) := by decide +kernel

/-! ## The pod -/

/-- A member of a view of chips 0 to 2, at tick 2,000,000, with its peers heard up to tick 900. -/
def podded : State := { managed with
  clock := { managed.clock with time := 2000000, locked := true }
  hytur := { managed.hytur with peers := [(1, { horizon := 900, lastHeard := 1999000 }), (2, { horizon := 900, lastHeard := 10 })] } }

/-- A message of chip 1. -/
def from1 (stamp type oseq body : Nat) : Msg := mkMsg stamp 0 type oseq 1 body

/-- A message in a datagram whose headers are R279's. -/
def dg (m : Msg) : Datagram := { head := { port := 0, hop := 255, dport := 47211, sum := true, linkLocal := true, pcp := 7 }, msg := m }

/-- The state with the order service changed. -/
def podH (f : Hytur → Hytur) : State := podded.updHytur f

/-- Events that waits for its key: chip 1's first. -/
def pending : State := podH fun h => { h with undelivered := [{ msg := from1 800 10 0 0 }] }

/-- R284, R285: a submission is stamped, numbered and sent; R287: a lantern; R286: an event heard for the first time is kept and goes on. -/
theorem test_order : after podded (.hostSubmission (mkMsg 0 5 1 0 0 3)) (fun u => (u.hytur.nextOseq, u.hytur.minStamp, u.outbox.length, u.hytur.undelivered.map fun e => (msgStamp e.msg, msgType e.msg))) = some (1, 2000001, 1, [(2000000, 1)]) ∧
    after podded .lanternEmit (fun u => (u.hytur.lastLantern, u.outbox.length)) = some (2000000, 1) ∧
    after podded (.hyturEventMessage (dg (from1 1000 10 0 0)) none) (fun u => (u.hytur.undelivered.length, (u.peer 1).horizon, u.outbox.length)) = some (1, 1000, 1) ∧
    after pending .eventDelivery (fun u => (u.hytur.undelivered.length, u.hytur.delivered)) = some (0, 800) := by decide +kernel

/-- Hypotheses of OrderService. -/
theorem witness_OrderService :
    (podded.platform.boot = .member ∧ podded.isMember = true ∧ podded.hytur.fenced = false ∧ podded.hytur.join = .none ∧ podded.schedError = false ∧ podded.hytur.lastLantern + 1250 ≤ podded.clock.time) ∧
    (msgField (mkMsg 0 5 1 0 0 3) 8 8 / 2 ^ 62 = 0 ∧ msgField (mkMsg 0 5 1 0 0 3) 0x38 4 = 0 ∧ msgType (mkMsg 0 5 1 0 0 3) = 1 ∧ bodyField (mkMsg 0 5 1 0 0 3) 0 1 = 3) ∧
    (datagramOk (dg (from1 1000 0 0 0)) = true ∧ msgType (from1 1000 0 0 0) = 0 ∧ msgOrigin (from1 1000 0 0 0) = 1 ∧ msgStamp (from1 1000 0 0 0) ∉ (podded.peer 1).lanterns) ∧
    (evOk (from1 1000 10 0 0) none = true ∧ podded.cutOff (from1 1000 10 0 0) = false ∧ podded.hasEvent (from1 1000 10 0 0) = false ∧ pending.hasEvent (from1 800 10 0 0) = true) ∧
    (datagramOk (dg (from1 9 0x10 0 (mkBody [(0, 2, 1), (8, 8, 0), (0x10, 8, 3)]))) = true) ∧
    ((pending.peer 1).horizon = 900 ∧ (pending.peer 2).horizon = 900 ∧ pending.hytur.tables.view = [0, 1, 2] ∧ pending.images.length = 0) ∧
    (let s := podded.updHytur fun h => { h with peers := [(1, { gapSince := some (1995000, 4) })] }; (s.peer 1).gapSince = some (1995000, 4) ∧ 1995000 + 5000 ≤ s.clock.time) := by decide +kernel

/-- Chip 2 silent for longer than 1 ms, with a roll call called 20 µs ago that chip 1 has answered. -/
def calling : State := podH fun h => { h with suspects := [(2, 100)], call := some { r := 0, at_ := 1975000, suspects := [2], answers := [(0, [900]), (1, [950])] }, calls := [(0, 1, [2], 0)] }

/-- R393, R394: a silent chip is suspected and a CALL sent; two of three answers decide that chip 2's events end before 950. -/
theorem test_roll_call : after podded (.suspicion 2) (fun u => (u.hytur.suspects, u.outbox.length, u.hytur.call.isSome)) = some ([(2, 2000000)], 1, true) ∧
    after calling .decideTimeout (fun u => u.hytur.decisions.map fun d => (d.caller, d.cut, d.words.take 2)) = some [(0, 949, [950, 0])] ∧
    after calling .rollCallFence (fun u => (u.hytur.fenced, u.blocks.length)) = some (true, 0) := by decide +kernel

/-- A DECIDE of chip 1's roll call 0, and a decision that chips 0 and 1 have confirmed. -/
def decided : State := podH fun h => { h with decisions := [{ r := 0, caller := 1, cut := 949, digest := 7, words := [950], suspects := some [2] }], confirms := [(0, 7, 0)], calls := [(0, 1, [2], 0)] }

/-- R395: the second of three confirmations cuts chip 2 off at 950 and inserts its LOSS event. -/
theorem test_confirm : after decided (.confirm (dg (from1 5 0x23 0 (mkBody [(0, 4, 0), (8, 8, 7)])))) (fun u => (u.hytur.cuts, u.hytur.r, u.hytur.undelivered.map fun e => (msgType e.msg, msgOrigin e.msg))) = some ([(2, 950)], 1, [(6, 2)]) := by decide +kernel

/-- Hypotheses of RollCall. -/
theorem witness_RollCall :
    ((podded.peer 2).lastHeard + 62500 ≤ podded.clock.time ∧ podded.hytur.suspects.length = 0 ∧ podded.hytur.cuts.length = 0 ∧ 2 ∈ podded.hytur.tables.view) ∧
    ([0x20, 0x21, 0x22, 0x23].all fun t => datagramOk (dg (from1 5 t 0 0)) && msgType (from1 5 t 0 0) = t && msgOrigin (from1 5 t 0 0) != podded.chip && podded.hytur.tables.view.contains (msgOrigin (from1 5 t 0 0))) = true ∧
    (1975000 + 25000 ≤ calling.clock.time ∧ calling.hytur.suspects.length = 1 ∧ 100 + 1250000 ≤ calling.clock.time ∧ max 100 1975000 + 125000 > calling.clock.time) ∧
    (let ws := decideWords [(2, 950)]; let m := from1 5 0x22 0 (mkBody [(0, 4, 0), (8, 8, 949), (0x10, 8, (decisionDigest ws 949).toNat)])
     calling.hytur.r ≤ bodyField m 0 4 ∧ BitVec.ofNat 64 (bodyField m 0x10 8) = decisionDigest ws (bodyField m 8 8)) ∧
    (let h := decided.hytur; (h.calls.find? fun x => x.1 = 0 && x.2.1 = 1).isSome = true ∧ h.decisions.length = 1 ∧ (decided.peer 2).horizon < 950 ∧ h.tables.view.length < 2 * 2) ∧
    ((datagramOk (dg (mkMsg 0 0 0x24 0 9 (mkBody [(0, 2, 9)]))) = true) ∧ podded.hytur.tables.chipSt 9 ≠ .member) ∧
    (let s := podH fun h => { h with sponsoring := [(9, some 4)] }; (s.hytur.sponsoring.find 9).isSome = true ∧ datagramOk (dg (mkMsg 0 0 0x26 0 9 0)) = true ∧ datagramOk (dg (mkMsg 0 0 0x27 0 9 (mkBody [(0, 2, 9)]))) = true) ∧
    (let s := podH fun h => { h with join := .asked, sponsor := 1, joinAt := 0, fenced := true }; 0 + 12500000 > s.clock.time ∧ datagramOk (dg (from1 0 0x25 0 (mkBody [(0x18, 2, 1)]))) = true) := by decide +kernel

/-- A chip that joins: locked, none of its neighbours tried; and one that founds its pod. -/
def joiner (found : Bool) : State := { stand with blocks := [], warps := [], clock := { stand.clock with time := 20000000, locked := true, lockedAt := 5 }, platform := { stand.platform with boot := .joining, config := { stand.platform.config with founding := found, neighbours := [(0, 1, 0)] } }, hytur := { stand.hytur with tables := { stand.hytur.tables with chips := [(1, { st := .member, oseq := 0 })] } } }

/-- R397, R277: the joiner asks chip 1; a founding chip becomes the pod's first member. -/
theorem test_joining : after (joiner false) .rejoinAsk (fun u => (u.hytur.join, u.hytur.sponsor, u.outbox.length)) = some (.asked, 1, 1) ∧
    after (joiner true) .founding (fun u => (u.platform.boot, u.isMember)) = some (.member, true) := by decide +kernel

/-- A clock that port H's master is to lock: its priority stands before the chip's own. -/
def slaved : State := { podded with
  platform := { podded.platform with config := { podded.platform.config with prio1 := 128 } }
  clock := { time := 1000, good := 15, locked := false, masters := [(16, { prio1 := 0, quality := (0, 0, 0), prio2 := 0, identity := 7, steps := 1 })] } }

/-- R277: port H hears the better clock and is the slave, a fabric port a master; a worse clock leaves port H disabled. -/
theorem test_clock_roles : slaved.ptpRole 16 = .slave ∧ slaved.ptpRole 3 = .master ∧
    ({ slaved with clock := { slaved.clock with masters := [(16, { prio1 := 255, quality := (0, 0, 0), prio2 := 0, identity := 7, steps := 1 })] } } : State).ptpRole 16 = .disabled := by decide +kernel

/-- Further hypotheses of RollCall: asking, founding, a clock that unlocks, PTP. -/
theorem witness_RollCall_more : ((joiner false).platform.boot = .joining ∧ (joiner false).hytur.fenceAt = 0 ∧ (joiner false).neighbours = [1] ∧ (joiner false).hytur.tables.view = [1] ∧ (joiner true).queues.length = 0 ∧ (joiner true).aliasQ.length = 0 ∧
      (joiner true).clock.lockedAt + 12500000 ≤ (joiner true).clock.time ∧ (joiner true).hytur.peers.length = 0) ∧
    (let s := { podded with clock := { podded.clock with locked := false, since := 0 } }; s.clock.since + 1250000 ≤ s.clock.time ∧ s.isMember = true) ∧ podded.clock.syncAt.length = 0 ∧
    after { slaved with platform := { slaved.platform with boot := .locking }, clock := slaved.clock } (.ptpMessage (.offset 16 40)) (fun u => (u.clock.time, u.clock.locked, u.platform.boot)) = some (950, true, .joining) := by decide +kernel

/-! ## The porter on the wire -/

/-- A control message: opcode, queue 3, context 0, port 2, generation 1, chip 1, remote QPN, start PSN, expected PSN, R_Key. -/
def control (op : Nat) : Msg := BitVec.ofNat 512 (mkBody [(0, 1, op), (1, 1, 3), (2, 1, 0), (3, 1, 2), (4, 2, 1), (6, 2, 1), (8, 4, 0x105), (0xC, 4, 10), (0x10, 4, 20), (0x14, 4, 0x40)])

/-- A bound queue towards chip 1 with the command given. -/
def wired (cmds : List Cmd) : State := { podded with queues := [(3, { st := .ready, inc := 1, slot := 0, gen := 1, port := 2, chip := 1, rqpn := 0x105, rkey := 0x40, cmds := cmds, spsn := 10, epsn := 20, rate := 400, bucket := 40960000, filledAt := 0 })] }

/-- A PUT of 8 bytes from 0x200000, and a GET. -/
def putCmd : Cmd := { id := 5, kind := .put none, remote := 2 ^ 54 + 0x300000, local_ := 0x200000, len := 8 }
def getCmd : Cmd := { id := 5, kind := .get, remote := 2 ^ 54 + 0x300000, local_ := 0x200000, len := 8 }

/-- A packet for queue 3's first incarnation. -/
def packet (psn : Nat) (p : Packet := emptyPacket) : Packet := { p with qpn := 0x103, psn := BitVec.ofNat 24 psn }

/-- R324, R328: a bind answers incarnation 1; the PUT goes as a WRITE of PSN 10; a WRITE at the expected PSN is stored; one out of sequence is refused. -/
theorem test_porter : after podded (.bind (control 1)) (fun u => ((u.queue 3).st, (u.queue 3).inc, (u.queue 3).epsn, (u.queue 258).cmds.length)) = some (.ready, 1, 20, 1) ∧
    after (wired [putCmd]) (.pacedPacketSend 3) (fun u => ((u.queue 3).spsn, (u.queue 3).times.length, u.outbox.length)) = some (11, 1, 1) ∧
    after (wired []) (.rdmaWrite (packet 20 { emptyPacket with addr := 0x200000, rkey := 0x40, len := 2, data := [7, 8] })) (fun u => (u.readNum 0x200000 2, (u.queue 3).epsn)) = some (0x807, 21) ∧
    after (wired []) (.rdmaWrite (packet 21)) (fun u => ((u.queue 3).naked, (u.queue 3).epsn, u.outbox.length)) = some (some 20, 20, 1) := by decide +kernel

/-- Chunks that are one run. -/
def oneRun (c : Chunks) (pa n : Nat) : Bool := match c with | .ok l => l = [(pa, n)] | _ => false

/-- Hypotheses of PorterQueues. -/
theorem witness_PorterQueues :
    ((podded.ctxs.find 0).map (·.gen) = some 1 ∧ (podded.queue 3).st = .unbound ∧ podded.binds.length = 0 ∧ (podded.queue 3).unboundAt = none ∧ ((wired []).queue 3).st = .ready) ∧
    (let s := { podded with queues := [(3, { unboundAt := some 1999000 })] }; (s.queue 3).st = .unbound ∧ s.clock.time < 1999000 + 1250000 ∧ ({ s with binds := [control 1] } : State).bindWaits (control 1) = true) ∧
    (let s := wired [putCmd]; (nextToSend (s.queue 3).cmds).map (·.id) = some 5 ∧ s.recordWaits 3 = false ∧ oneRun (s.rangeOf 0 .read putCmd (va54 putCmd.local_) 8) 0x200000 8 = true ∧
      (match s.payload ((s.queue 3).fill 2000000) putCmd with | .ok 1 p _ _ => p.data.length * 10000 ≤ 40960000 | _ => false) = true) ∧
    (let s := (wired [{ putCmd with sent := 1 }]).updQueue 3 fun x => { x with times := [1000], ackDue := some 4, resend := some 5 }; 1000 + 40000 ≤ s.clock.time ∧ (s.queue 3).retries < 7 ∧ s.heldFrom 3 = none ∧ (s.queue 3).periodAt + 68750 ≤ s.clock.time) := by decide +kernel

/-- Hypotheses of PorterPackets: a request that hits, in sequence, ahead and behind, an open key, an access in range, one that is refused, an atomic; answers to the oldest command. -/
theorem witness_PorterPackets :
    (256 ≤ (packet 20).qpn.toNat ∧ (packet 20).qpn.toNat / 256 = ((wired []).queue 3).inc ∧ (packet 20).intact = true ∧ (packet 20).pkey = 0xFFFF ∧ (packet 20).form = true ∧ psnSub 20 20 = 0 ∧ psnSub 21 20 = 1 ∧ 2 ^ 23 ≤ psnSub 19 20) ∧
    ((wired []).openGen (0x40 % 64) (0x40 / 64) = true ∧ (wired []).openGen 5 0 = false) ∧
    (let t := (wired []).heardPacket 3 (packet 20); oneRun (t.range 0 .write 0x200000 2) 0x200000 2 = true ∧ oneRun (t.range 0 .read 0x200000 8) 0x200000 8 = true ∧ t.translateEngine 0 0x200000 .atom = .ok 0x200000 ∧ plainB t = true ∧
      (match t.range 0 .read 0x20000000 8 with | .bad c _ => c != 0 | _ => false) = true) ∧
    (let s := (wired [{ putCmd with sent := 1 }]).updQueue 3 fun x => { x with times := [1999000], spsn := 11 }; (s.queue 3).oldest = 10 ∧ (s.queue 3).oldestCmd.map (·.id) = some 5 ∧ psnSub (psnAdd 10 1) (s.queue 3).oldest = 1) ∧
    (let s := (wired [{ getCmd with sent := 1 }]).updQueue 3 fun x => { x with times := [1999000], spsn := 11 }; (s.queue 3).oldestCmd.map (·.kind) = some .get ∧ oneRun (s.rangeOf 0 .write getCmd (va54 getCmd.local_) 8) 0x200000 8 = true) ∧
    (let s := { wired [] with posted := [{ queue := 3, inc := 1, tag := 0x99, number := 0, blk := some 0, armed := true, body := BitVec.ofNat 512 (mkBody [(0x10, 4, 64)]) }] }
     (s.posted.find? fun r => r.queue = 3 && r.inc = 1 && r.tag = 0x99 && r.armed).isSome = true ∧ s.posted.all (fun r => !r.flag 0 && !r.flag 1 && !r.flag 2 && !r.flag 3 && 8 ≤ fieldAt r.body.toNat 0x10 4) = true ∧
     s.openGen ((BitVec.ofNat 32 ((s.queue 3).gen * 64 + (s.queue 3).slot)).toNat % 64) ((BitVec.ofNat 32 ((s.queue 3).gen * 64 + (s.queue 3).slot)).toNat / 64) = true) := by decide +kernel

/-- A packet for a well-known queue pair of port H that holds a message. -/
def hostPacket (k : Nat) (m : Msg) : Packet := { emptyPacket with qpn := BitVec.ofNat 24 (0x10 + k), data := bytesOf 64 m.toNat }

/-- R321, R322, R329: the first packet of a SEND is kept and no request is consumed; a message for the porter control queue pair is acknowledged and
binds; one of another length is refused. -/
theorem test_sends : after (wired []) (.taggedSend (packet 20 { emptyPacket with last := false, data := bytesOf 12 0x99 })) (fun u => ((u.queue 3).sending.length, (u.queue 3).epsn, u.outbox.length)) = some (12, 21, 0) ∧
    after podded (.taggedSend (hostPacket 2 (control 1))) (fun u => ((u.queue 3).st, (u.queue 258).epsn, u.outbox.length, (u.queue 258).cmds.length)) = some (.ready, 1, 1, 1) ∧
    after podded (.taggedSend { hostPacket 1 0 with data := [1, 2] }) (fun u => ((u.queue 257).epsn, u.outbox.length, hostSends u 1)) = some (1, 1, some (bytesOf 64 (setField 0 5 1 1))) := by decide +kernel

/-- Hypotheses of PorterPackets: a SEND of several packets, and a message on a well-known queue pair. -/
theorem witness_PorterPackets_more : (let p := packet 20 { emptyPacket with last := false, data := bytesOf 12 0x99 }; psnSub p.psn.toNat ((wired []).queue 3).epsn = 0 ∧ p.form = true ∧ p.intact = true ∧ p.pkey = 0xFFFF) ∧
    (let p := hostPacket 2 (control 1); wellKnownOf p = some 2 ∧ p.intact = true ∧ p.pkey = 0xFFFF ∧ p.form = true ∧ p.first = true ∧ p.last = true ∧ p.data.length = 64 ∧ psnSub p.psn.toNat (podded.queue 258).epsn = 0 ∧
      podded.platform.boot = .member) := by decide +kernel

/-- R316, R322: a management command that is not listed is answered 1. -/
theorem test_unlisted : after managed (.comparator (order 0 0 0 0)) (fun u => hostSends u 1) = some (some (bytesOf 64 (setField (order 0 0 0 0).toNat 5 1 1))) := by decide +kernel

/-- Hypotheses of the clauses on a full origin queue, on room kept for a waiter, and on an itinerary copy with its tile. -/
theorem witness_waits : ({ launching with hytur := { launching.hytur with queued := 4096 } } : State).originFull = true ∧ launching.originFull = false ∧ stand.originFull = false ∧
    (gridded false).barred 5 0 0 = false ∧ (gridded true).barred 128 0 0 = false ∧ imaged.barred 0 0 0 = false ∧
    (let s := (travelling 1 1).updBlock 0 fun b => { b with waiting := true, alloc := some (1, 0) }; (s.block 0).itinOff = false ∧ (s.block 0).itinWait = none ∧ ((s.block 0).nextCopy).isSome = true ∧ (s.core 0).inflight.length = 0) := by decide +kernel

/-! ## Steps -/

/-- A fetched instruction at the warp's PC, its turn next. -/
def stepping (w : Nat) : State := { (stand.writeBytes 0x100000 (bytesOf 8 w)) with agenda := [.issue 0], cur := none }

/-- R18, R47: a step on the warp's turn decodes IADD v3 = v1 + v2 and runs it; bytes that are no instruction take the trap's event. -/
theorem test_step : (match step (stepping 0b000000_0000_0000_000000000_000000010_000000001_000000011_0000_000000_00_01) with
    | .next u => ((u.warpD 0).vget 3 0, (u.warpD 0).pc 0, u.agenda.length, u.cur)
    | _ => (0, 0, 0, none)) = (0x80000000, 0x100008, 0, none) := by decide +kernel

/-- Hypotheses of StepRunsDecoded: a turn whose bytes decode, one whose bytes do not, a fetch that fails, turns of events, of time and of upsets. -/
theorem witness_StepRunsDecoded :
    (let s := { stepping 0x2420301 with agenda := [] }
     stand.platform.frozen = false ∧ s.faultDue 0 = false ∧ s.canIssue 0 = true ∧ (s.nextPc 0).map (·.1) = some 0x100000 ∧ s.comparatorAt 0 0x100000 = none ∧ (s.warpD 0).stepping = false) ∧
    (match (stepping 0b000000_0000_0000_000000000_000000010_000000001_000000011_0000_000000_00_01).fetch 0 0 0x100000 with | .ok bs _ => (match decode bs with | .ok (_, 8) => true | _ => false) | _ => false) = true ∧
    (match (stepping 0x3).fetch 0 0 0x100000 with | .ok bs _ => (match decode bs with | .error _ => true | _ => false) | _ => false) = true ∧
    (match (stepping 0).fetch 0 0 0x20000000 with | .fault a => a = 0x20000000 | _ => false) = true ∧
    ((standW fun w => { w with halted := true }).canIssue 0 = false ∧ (Instr.idcode).fetched = false) := by decide +kernel

/-- Hypotheses of LaneScopeIssues: some lanes and none, in the F64 and the F32 form, with no loop, no window and no budget broken. -/
theorem witness_LaneScopeIssues : stand.cur = some 0 ∧ (stand.nextPc 0) = some (0x100000, false) ∧ (stand.block 0).onControl = false ∧ (stand.warpD 0).loops.length = 0 ∧ (stand.warpD 0).windows.length = 0 ∧
    badReg (budgetOf block.record 0) block.xcount (fieldUses .iadd (en 0 3 1 2 0)) = none ∧ badReg (budgetOf block.record 0) block.xcount (fieldUses .iadd ((sh 3 1 2).toEnc false)) = none ∧
    ((stand.warpD 0).selected 16 &&& (stand.warpD 0).kget 0 = 1) ∧ ((stand.warpD 0).selected 16 &&& (stand.warpD 0).kget 1 = 0) := by decide +kernel

/-- StepsGoOn: a frozen chip takes no event but those of the test access port. -/
theorem witness_StepsGoOn : (match step { stand with platform := { stand.platform with frozen := true }, agenda := [.event .idcode, .issue 0] } with
    | .next u => (u.platform.frozen, u.outbox.length, (u.warpD 0).pc 0)
    | _ => (false, 0, 0)) = (true, 1, 0x100000) := by decide +kernel

/-- Hypotheses of MemoryStaysCanonical, in a state whose memory lists bytes: the step of an ADD. -/
theorem witness_MemoryStaysCanonical : (let s := stepping 0b000000_0000_0000_000000000_000000010_000000001_000000011_0000_000000_00_01
    Memory.wf s.mem && !s.mem.isEmpty && (match step s with | .next _ => true | _ => false)) = true := by decide +kernel

/-! ## Hypotheses of clauses, at their boundaries -/

/-- An access of one width at a register's value and an offset: the first word of its place, or 2^60 and its fault. -/
def probeAt (space width v : Nat) (off : Int) : Nat :=
  let x := effAddr space v width off
  match lanes.checkLane { blk := 0, kind := .load 1 false false, space := space, width := width } { wid := 0, lane := 3, e := 3, addr := x.1, bad := x.2 } with
  | .ok (.spad _ (w :: _)) => w
  | .bad c => 2 ^ 60 + c
  | _ => 2 ^ 61

/-- R170, R230: an address value beyond 2^32, an effective address below 0, a .cls offset that leaves its window at either end, and global addresses
below 0 and at 2^64. -/
theorem witness_AccessPlaces_values :
    [probeAt 1 4 (2 ^ 32) 0, probeAt 1 4 0 (-4), probeAt 2 4 (2 ^ 23) 0, probeAt 2 4 0 (-4), probeAt 2 4 (2 ^ 21 - 4) 4, probeAt 0 4 0 (-4), probeAt 0 4 (2 ^ 64 - 4) 4] =
      List.replicate 7 (2 ^ 60 + Code.spaceRange) ∧
    [probeAt 1 4 8 (-4), probeAt 1 4 0 (-2)] = [4, 2 ^ 60 + Code.misaligned] := by decide +kernel

/-- Context 0's first page lies on a format window. -/
def aliased : State := { lanes.writeBytes 0x20000 (bytesOf 8 (2 ^ 46 + 0x1F)) with
  windows := [(2, { ctx := 0, entry := 2, on := true, alias_ := 2 ^ 46, packed := 0x200000, scales := 0x300000, size := 8192, elem := 3, scale := 11 })] }

/-- R230, R318: an atomic of that page is FORMAT_ATOMIC. -/
theorem witness_AccessPlaces_alias : (match aliased.translate 0 0 0x100 .atom with | .ok pa => inAperture pa | _ => false) = true ∧
    (match aliased.checkLane { blk := 0, kind := .atom 0, space := 0, width := 4 } { wid := 0, lane := 3, e := 3, addr := 0x100 } with | .bad c => c = Code.formatAtomic | _ => false) = true := by decide +kernel

/-- CacheLines: no contribution in any L1. -/
theorem witness_CacheLines_exact : lanes.cores.all (fun e => e.2.exact.isEmpty) = true ∧ issuing lanes (.prf (el 3 0 6 0 0 0x200000)) = true := by decide +kernel

/-- A D-mode context whose grid has published no floor. -/
def dmoded : State := standC fun c => { c with dmode := true }

/-- Hypotheses of Tiles, MatrixIssue and ItineraryCopies in D-mode: the floor is not above the request, nor above one that waits. -/
theorem witness_floorHolds :
    (issuing dmoded (.talloc (en 0 30 1 2 0)) fun cx _ => let b := dmoded.block cx.blk; !dmoded.floorAbove b cx.clock && !b.alone && (b.waiters.get [] 12).isEmpty) = true ∧
    (let s := matrix.updCtx 0 fun c => { c with dmode := true }
     issuing s (.adrain (at_ .warp (en 32 30 1 28 0))) fun cx _ => !s.floorAbove (s.block cx.blk) cx.clock && !(s.block cx.blk).alone && ((s.block cx.blk).waiters.get [] 4).isEmpty) = true ∧
    (let s := (travelling 1 1).updCtx 0 fun c => { c with dmode := true }
     !s.floorAbove (s.block 0) ((s.block 0).stageClock 1) && !(s.block 0).alone && ((s.block 0).nextCopy).isSome && ((s.block 0).waiters.get [] 12).isEmpty) = true := by decide +kernel

/-- s22 = the consuming descriptor of tile 0 of pool 0, which has two reads. -/
def consuming : State := (matrix.updBlock 0 fun b => { b with tiles := [(tileKey 0 0, { count := 2, pend := 0, free := false })] }).updWarp 0 fun w => w.sset 22 0xC000000000000000

/-- Whether a check takes n reads of tile 0 where both operands are the checked one. -/
def takes (c : MtxCheck) (n : Nat) : Bool := match c with | .ok o => o.cons = some (0, 0, 0) && takesOf [o, o] (tileKey 0 0) = n | _ => false

/-- R193, R213: MMA takes one read of its consuming A operand, which the entry then holds. -/
theorem test_consuming : after consuming (.mma (at_ .warp (en 0 1 22 20 0))) (fun u => (((u.block 0).tile 0).count, ((u.block 0).tile 0).pend, (u.block 0).reads.length, (u.core 0).mq.length)) = some (1, 1, 1, 1) := by decide +kernel

/-- Hypotheses of MatrixIssue for consuming operands, two of one tile among them. -/
theorem witness_MatrixIssue_consuming : ((consuming.block 0).overread 0 0 (some 0) = false ∧ ((consuming.block 0).tile (tileKey 0 0)).count = 2) ∧
    (issuing consuming (.mma (at_ .warp (en 0 1 22 22 0))) fun cx _ => takes ((consuming.block cx.blk).checkOperand (cx.sval consuming 22) 128 (4 * mtxWidth (cx.m % 16)) true false) 2) = true ∧
    (issuing consuming (.mmaw (at_ .warp (el 0 1 20 22 0 0))) fun cx _ => takes ((consuming.block cx.blk).checkOperand (cx.sval consuming 22) 128 (4 * mtxWidth (cx.m % 16)) true true) 2) = true ∧
    (issuing consuming (.mmas (at_ .warp (el 3 1 22 20 0 0))) fun cx _ => takes ((consuming.block cx.blk).checkOperand (cx.sval consuming 22) 128 (4 * mtxWidth (cx.m % 16)) true false) 2) = true ∧
    (issuing consuming (.ald (at_ .warp (en 1 1 22 0 0))) fun cx _ => takes ((consuming.block cx.blk).checkOperand (cx.sval consuming 22) 128 256 true false) 2) = true := by decide +kernel

/-- An ADRAIN .vreg as BF16 to lanes 0 and 1 that has started: 1 and 2 are elements 2 and 3 of row 0. -/
def draining : State := ((entering { id := 1, blk := 0, op := 5, shape := 0, type := 1, tile := 1, ext := 16, sb := 0, dst := 8, wins := [(0, 4)], ranks := [(0, 0, 3)] }).updWarp 0 fun w =>
  { w with windows := [{ id := 4, lanes := 3, ready := false }] }).updCore 0 fun c => { c with acc := [(accKey 1 0 2, 0x3F800000), (accKey 1 0 3, 0x40000000)] }

/-- R226: a register of the 16-bit fragment holds two elements, the lower in its low half; hypotheses of MatrixEntries for it. -/
theorem witness_MatrixEntries_halves : after draining (.matrixEntryComplete 0) (fun u => (u.warpD 0).windows.map fun x => (x.ready, x.writes.take 1)) = some [(true, [RegWrite.vec 8 [(0, 0), (1, 0x40003F80)]])] ∧
    plainB draining && draining.parkedOps.isEmpty && (draining.ctxs.all fun c => c.2.watches.isEmpty) = true := by decide +kernel

/-- RingInstructions: no result is owed to the warp of an SVC. -/
theorem witness_RingInstructions_owed : (issuing ((ringed 5 3).writeBytes 0x300009 [7]) (.svc { en 0 0 8 0 0 with sel := 1 }) fun _ t => !t.resultsOwed 0) = true := by decide +kernel

/-- The same stream program, with a warp of another block that waits; context 0's leaf as given. -/
def hungWaiting (leaf : Nat) : State := { (hung.writeBytes 0x20000 (bytesOf 8 leaf)) with
  blocks := hung.blocks ++ [(1, { block with bid := 1 })]
  warps := (0, { stand.warpD 0 with blk := 1, parks := [{ lanes := 0xFFFF, pc := 0x100000, len := 8, place := .wait 0, clock := 0 }] }) :: hung.warps }

/-- Hypotheses of EventTraps for a HANG whose graph has a triple: on a migrating page, and where it is written and the stream program takes the fault. -/
theorem witness_EventTraps_graph : let at_ := fun (s : State) => (s.ctx 0).faultBase + 0x2400000
    ((hungWaiting 0x3F).migratingIn 0 (at_ (hungWaiting 0x3F)) (((hungWaiting 0x3F).hangGraph 0).flatMap id).length).isSome = true ∧
    (let s := hungWaiting 0x1F
     let bytes := (s.hangGraph 0).flatMap id
     (s.hangGraph 0).length = 1 ∧ s.migratingIn 0 (at_ s) bytes.length = none ∧
     (match s.writeVirt 0 (at_ s) bytes with
      | some v => v.hangTarget 0 = some (widOf 128 0) && (v.warpD (widOf 128 0)).suspended.isNone && v.atBoundary (widOf 128 0) &&
          openB (v.updCtx 0 fun c => { c with hangHeld := none, hangWaits := none, hangFired := true }) [{ code := 0x3B, pc := 0x100000, info := 1, lanes := (v.warpD (widOf 128 0)).live }] (widOf 128 0)
      | none => false) = true) := by decide +kernel

/-- ResultDelivery: a warp off-core. -/
theorem witness_ResultDelivery_offcore : ((standW fun w => { w with offcore := some 4, windows := [{ id := 3, lanes := 3, ready := true, writes := [.scal 9 77] }] }).warpD 0).offcore.isSome = true ∧
    after (standW fun w => { w with offcore := some 4, windows := [{ id := 3, lanes := 3, ready := true, writes := [.scal 9 77] }] }) (.longLatencyResult 0 3) (fun u => (u.warpD 0).sget 9) = some 0 := by decide +kernel

/-- BlockAdmission: the core's saved image has no error; a saved stream program's slots stay its own. -/
theorem witness_BlockAdmission_room : (gridded false).coreError 0 5 = false ∧
    ({ gridded true with images := [{ key := 7, block := { block with core := 128, wids := [widOf 128 3], kind := .stream }, warps := [] }] } : State).heldSlots 128 = [3] := by decide +kernel

/-- A block that is to leave, quiet; its image when it has left. -/
def leaving : State := standB fun b => { b with victim := true }
def left : State := { gridded false with images := [{ key := 0, block := { block with core := 0 }, warps := [(0, { stand.warpD 0 with windows := [] })], base := 0x8000000 }] }

/-- Hypotheses of BlockSaves for what an image holds. -/
theorem witness_BlockSaves_image :
    (leaving.warps.all fun e => e.2.windows.isEmpty && e.2.fence.isNone && e.2.waits.isEmpty && e.2.offcore.isNone && e.2.index = 0 && (e.2.v.map (·.1)).Nodup) = true ∧ leaving.warps.length = 1 ∧
    leaving.ordered.length = 0 ∧ leaving.parkedOps.length = 0 ∧ (leaving.core 0).mq.length = 0 ∧ (leaving.core 0).readmit.length = 0 ∧ ((leaving.core 0).spad.map (·.1)).Nodup ∧
    leaving.resultsDue (leaving.block 0) = false ∧ leaving.halfPerformed 0 = false ∧
    ((List.range 4).all fun i => (leaving.block 0).xcount ≤ budgetOf block.record i && budgetOf block.record i ≤ 512) = true ∧
    (left.images.all fun x => left.mayReturn x && left.ownRoom x && !left.imageError x && recField x.block.record 0xA0 4 ≤ x.block.itin.length && x.warps.all fun e => e.2.offcore.isNone && e.2.parks.isEmpty && e.2.frame.isNone) = true ∧
    (let s := left.updCore 0 fun c => { c with lastCtx := some 64 }; (s.core 0).lastCtx = some ((s.ctx 0).gen * 64 + 0)) ∧ left.coreError 0 0 = false ∧ Memory.wf left.mem = true := by decide +kernel

/-- A TIME_SLICE that is due, and one that is not. -/
theorem witness_BlockSaves_slice : (let s := { stand with clock := { stand.clock with time := 5000 }, sliceAt := 3750 }; s.sliceAt + 1250 ≤ s.clock.time) ∧
    (let s := { stand with clock := { stand.clock with time := 5000 }, sliceAt := 3751 }; s.clock.time < s.sliceAt + 1250) := by decide +kernel

/-- ItineraryCopies: a tile's copy finds its tile, and one that has it issues. -/
theorem witness_ItineraryCopies_tiles :
    (let s := (travelling 1 1).updBlock 0 fun b => { b with free := [(12, [1, 2])] }; (s.block 0).free.get [] 12 = [1, 2] ∧ (s.ctx 0).dmode = false ∧ (s.core 0).inflight.length = 0) ∧
    (let s := (travelling 1 1).updBlock 0 fun b => { b with waiting := true, alloc := some (1, 0) }
     after s (.itineraryCopyIssue 0) (fun u => (u.block 0).copies.map fun x => (x.base, x.left)) = some [(0x60400, [0, 1])]) := by decide +kernel

/-- A request that waits at pool 1 of a D-mode block whose floor of 10 is above its clock. -/
def pooling (who : Allocator) (clock : DWord) : State := (((travelling 1 1).updCtx 0 fun c => { c with dmode := true, floors := [(0, some 10)] }).updBlock 0 fun b =>
  { b with free := [(12, [1, 2])], waiters := [(12, [{ id := 5, who := who, reads := 2, clock := clock, index := 0 }])] }).updWarp 0 fun w =>
  { w with parks := [{ lanes := 0xFFFF, pc := 0x100000, len := 8, place := .talloc 5, clock := 9 }], windows := [{ id := 4, lanes := 0xFFFF, ready := false }] }

/-- R376: at its point TALLOC's tile is given, its window gets the handle and its lanes go on; at clock 10 nothing happens. -/
theorem test_pool_point : after (pooling (.talloc 1 30 [(0, 4)]) 9) (.orderedOperationPerform (.pool 0)) (fun u => (awaited u, (u.block 0).free.get [] 12, (u.warpD 0).parks.length)) = some ([([], 0x20040000)], [2], 0) ∧
    after (pooling (.talloc 1 30 [(0, 4)]) 10) (.orderedOperationPerform (.pool 0)) (fun u => (u.block 0).free.get [] 12) = some [1, 2] := by decide +kernel

/-- Hypotheses of OrderedOperations at a pool unit, of a TALLOC, an ADRAIN and an itinerary copy. -/
theorem witness_OrderedOperations_pool : ([Allocator.talloc 1 30 [(0, 4)], .adrain 1 { id := 1, blk := 0, op := 5, wins := [(0, 4)], dst := 30 }, .copy 0 0].all fun who => let s := pooling who 9
    let b := s.block 0
    (s.block? 0).isSome && b.core = 0 && (s.blocks.map (·.1)).Nodup && (b.waiters.map (·.1)).Nodup && (s.ctx 0).dmode && !b.alone && (b.waiters.get [] 12).length = 1 && b.free.get [] 12 = [1, 2] &&
      s.floorAbove b 9 && b.nextCopy = some (1, 0, 0) && !b.itinOff && (s.core 0).inflight.isEmpty && (s.core 0).mq.isEmpty && (s.core 0).mwait.isEmpty) = true ∧
    (let s := pooling (.talloc 1 30 [(0, 4)]) 10; s.floorAbove (s.block 0) 10 = false) := by decide +kernel

/-- A completion record of queue 3 whose header is at an unmapped address; one whose header lies on a migrating page. -/
def losing : State := { stand with jobs := [{ id := 8, ctx := 0, header := 0x30000000, record := [1, 2, 3], queue := some 3, inc := 1, blk := some 0 }], queues := networked.queues }
def stuckJob : State := (claiming 5 3 6).writeBytes 0x20000 (bytesOf 8 0x3F)

/-- R434: the record is lost, its queue is in ERROR and the block's fault is held. -/
theorem test_lost_record : after losing (.engineRingClaim 8) (fun u => (u.jobs.length, (u.queue 3).st, (u.block 0).held.map fun f => (f.code, f.info))) = some (0, .error, [(Code.porter, 7 + 256 * 3)]) := by decide +kernel

/-- Hypotheses of EngineEvents: unusable headers, a migrating one, and the cores of a re-run and of a shadow run. -/
theorem witness_EngineEvents_more :
    ((match losing.readRing 0 0x30000000 with | .fault .pageFault => true | _ => false) = true ∧ (losing.queue 3).inc = 1 ∧ (losing.queue 3).st = .ready ∧ (losing.queue 3).cmds.length = 0 ∧ (losing.block 0).ended = false) ∧
    (match stuckJob.readRing 0 0x300000 with | .fault .migrating => true | _ => false) = true ∧
    (let s := { gridded false with blocks := [(0, { block with rerun := 1 })] }; (s.core 0).readmit.length = 0 ∧ s.coreError 0 0 = false ∧ s.blocks.all (fun e => e.2.rerun != 2) = true) ∧
    (let x : Shadow := { grid := 0, bid := 0, observed := 1, expected := 2, subject := 1, since := 0 }
     let s := { gridded false with shadows := [x] }
     (s.hytur.tables.grids.find 0).any (fun g => ((List.range 128).find? fun c => (s.core c).readmit.isEmpty && !s.savedAhead 0 c && !s.barred c 0 0 && s.waitsFit c (.shadow x g)) = some 0) = true ∧ s.coreError 0 0 = false ∧
     ({ s with ctxs := [] } : State).ctxs.length = 0 ∧ s.originFull = false) := by decide +kernel

/-- A context under a claim. -/
def underClaim : State := managed.updCtx 0 fun c => { c with claim := some { kind := 0, ring := 0 } }

/-- Hypotheses of Management: answers are sent; resumes with no target and of a cluster; the columns that are 0. -/
theorem witness_Management_resume : (managed.queue 257).st = .ready ∧ (underClaim.blocks.all fun e => !e.2.isTarget 0 (order 10 0 0 0)) = true ∧ underClaim.images.length = 0 ∧ zeroColumns (order 10 0 0 0) = true ∧
    zeroColumns (order 10 0 8 0) = false ∧ (underClaim.ctx 0).claim.isSome = true ∧ fieldAt (order 10 0 0 0).toNat 0x20 8 / 2 ^ 63 = 0 ∧
    fieldAt (BitVec.ofNat 512 (mkBody [(0, 1, 10), (2, 2, 1), (0x27, 1, 0x80)])).toNat 0x20 8 / 2 ^ 63 = 1 := by decide +kernel

/-- A chip whose ROM waits for an image through port H, some bytes of which are there. -/
def loading : State := { stand with platform := { stand.platform with boot := .rom, waits := true, loading := [(0, 7)] } }
def bootPacket (psn : Nat) : Packet := { emptyPacket with qpn := 0x30, psn := BitVec.ofNat 24 psn, data := [8, 9], addr := 1 }

/-- R432: a WRITE's bytes stand at their places of the image. -/
theorem test_boot_write : after loading (.rdmaWrite (bootPacket 0)) (fun u => ((List.range 4).map (u.platform.loading.get 0), (u.queue 259).epsn, u.outbox.length)) = some ([7, 8, 9, 0], 1, 1) := by decide +kernel

/-- R423, R425, R428: codes, a grant that is too early, a latent error that a scrub corrects, steps of bring-up. -/
theorem test_platform_more : (stand.scanIr 0x55).platform.jtagIr = 0xFF ∧ (stand.scanIr 0x21).platform.frozen = true ∧
    after { stand with platform := { stand.platform with grantAt := some 0 } } (.powerGrant [100]) (fun u => u.platform.grants) = some [] ∧
    after { stand with platform := { stand.platform with latent := [.dram 5] } } (.scrub (.dram 5)) (fun u => (u.platform.latent, u.platform.corrected.get 0 (unitOf (.dram 5)))) = some ([], 1) ∧
    (loading.bringUp false).platform.held = false ∧ (({ loading with platform := { loading.platform with waits := false } } : State).bringUp false).platform.held = true := by decide +kernel

/-- Hypotheses of PlatformEvents: grants in time and too early, a scrub's three cases, packets of queue pair 0x30 in turn, ahead and behind, and bring-up. -/
theorem witness_PlatformEvents_more : stand.platform.grantAt.isNone = true ∧ stand.clock.time < 0 + 1250 ∧ ([Locus.dram 5] : List Locus).Nodup ∧ stand.platform.errors.length = 0 ∧ stand.platform.latent.length = 0 ∧
    (loading.platform.boot = .rom ∧ loading.platform.waits = true ∧ (bootPacket 0).intact = true ∧ (bootPacket 0).pkey = 0xFFFF ∧ (bootPacket 0).qpn = 0x30 ∧ (bootPacket 0).form = true ∧ (bootPacket 0).first = true) ∧
    (psnSub (bootPacket 0).psn.toNat (loading.queue 259).epsn = 0 ∧ psnSub (bootPacket 1).psn.toNat (loading.queue 259).epsn = 1 ∧ 2 ^ 23 ≤ psnSub (bootPacket (2 ^ 24 - 1)).psn.toNat (loading.queue 259).epsn ∧ (loading.queue 259).naked = none) ∧
    (stand.platform.held = false ∧ stand.platform.waits = false ∧ stand.platform.boot = .rom ∧ (0x55 : BitVec 8) ∉ [0x01#8, 0x21, 0x22, 0x23]) := by decide +kernel

/-- Chip 2 is cut off at 950, its events asked for a while ago and held only to 900. -/
def lacking : State := podH fun h => { h with cuts := [(2, 950)], peers := [(1, { horizon := 900, lastHeard := 1999000 }), (2, { horizon := 900, lastHeard := 10, asked := some 1000, answerer := 1 })] }

/-- A joiner that replays what chip 1 forwards, and the LOSS of chip 0 itself. -/
def replaying : State := podH fun h => { h with join := .replaying, sponsor := 1 }
def ownLoss : Ev := lossEvent { r := 0, caller := 1, cut := 949, digest := 7, words := [950], suspects := some [0] } (0, 950)

/-- R286: the events of a lost chip are asked for again; R322: a submission waits while the origin queue is full. -/
theorem test_order_more : after lacking (.retransmitGapTimeout 2) (fun u => ((u.peer 2).asked, u.outbox.length)) = some (some 2000000, 1) ∧
    after (podH fun h => { h with queued := 4096 }) (.hostSubmission (mkMsg 0 5 1 0 0 3)) (fun u => (u.submits.length, u.outbox.length)) = some (1, 0) ∧
    after podded (.hyturEventMessage { dg (from1 1000 10 0 0) with head := { (dg 0).head with hop := 254 } } none) (fun u => u.hytur.undelivered.length) = some 0 := by decide +kernel

/-- Hypotheses of OrderService: a full origin queue, a lost chip's events, requests that end and that this chip answers, a joiner's events and lanterns. -/
theorem witness_OrderService_more :
    (podded.submits.length = 0 ∧ podded.originFull = false ∧ (podH fun h => { h with queued := 4096 }).originFull = true) ∧
    (lacking.hytur.cuts.find 2 = some 950 ∧ (lacking.peer 2).asked = some 1000 ∧ (lacking.peer 2).horizon < 950 ∧ (lacking.peer 2).endAt = none ∧ 1000 + 5000 ≤ lacking.clock.time ∧ lacking.isMember = true) ∧
    ([mkBody [(0, 2, 2), (2, 2, 0xFFFE), (8, 8, 3)], mkBody [(0, 2, 2), (2, 2, 0), (8, 8, 0), (0x10, 8, 3), (0x18, 8, 900)]].all fun b => datagramOk (dg (from1 9 0x10 0 b))) = true ∧ (lacking.peer 2).horizon = 900 ∧ lacking.chip = 0 ∧
    (datagramOk (dg (from1 1000 0 0 0)) = true ∧ msgStamp (from1 1000 0 0 0) ∉ (replaying.peer 1).lanterns ∧ replaying.hytur.join = .replaying ∧ 0 ≤ replaying.hytur.tables.position + 64) ∧
    (headOk (dg 0).head = true ∧ evOk (from1 1000 10 0 0) none = true ∧ (replaying.hytur.tables.apply { msg := from1 1000 10 0 0 }).2.contains (Effect.out 0) = false) ∧
    ((replaying.hytur.tables.apply ownLoss).2.contains (Effect.out 0) = true ∧ msgType ownLoss.msg = 6) ∧
    (let s := podH fun h => { h with history := [(7, 5)], peers := [(1, {}), (2, { agree := some (false, 1999000) })] }
     let m := from1 1000 0 0 (mkBody [(0, 8, 6), (8, 8, 7)])
     datagramOk (dg m) = true ∧ (s.hytur.history.find? fun x => x.1 = bodyField m 8 8) = some (7, 5) ∧ (5 : DWord) ≠ BitVec.ofNat 64 (bodyField m 0 8) ∧ msgStamp m = 1000 ∧ s.hytur.tables.view.length < 2 * 2) := by decide +kernel

/-- R397, R400: a snapshot's sponsor is kept; a joiner that is asked for another's answer turns it down. -/
theorem test_snapshot : ((podded.sendSnapshot 9).hytur.sponsoring.find 9) = some (some 0) ∧ ((podded.sendSnapshot 9).queue (512 + 9)).cmds.length = 1 ∧
    after replaying (.snapshot (dg (mkMsg 0 0 0x25 0 2 (mkBody [(0x18, 2, 2)])))) (fun u => u.outbox.length) = some 1 := by decide +kernel

/-- R277, R278: a master port says Announce, Sync and its delay request; port H with a better clock asks for its delay alone. -/
theorem test_ptp : after podded (.ptpSyncInterval 3) (fun u => u.outbox.length) = some 4 ∧
    after { slaved with clock := { slaved.clock with time := 20000000 } } (.ptpSyncInterval 16) (fun u => u.outbox) = some [.ptp 16 .delayReq] ∧
    after podded (.ptpMessage (.pdelayReq 3)) (fun u => u.outbox.length) = some 2 := by decide +kernel

/-- Hypotheses of RollCall: a snapshot turned down, a decision whose CALL has not come, a decision without a majority, PTP's dues. -/
theorem witness_RollCall_further : (datagramOk (dg (mkMsg 0 0 0x25 0 2 (mkBody [(0x18, 2, 2)]))) = true ∧ replaying.hytur.join ≠ .asked ∧ replaying.hytur.sponsor = 1) ∧
    (let h := decided.hytur; (h.decisions.map fun d => d.suspects) = [some [2]] ∧ decided.hytur.confirms.length = 1) ∧
    (let s := podH fun h => { h with call := some { r := 0, at_ := 1975000, suspects := [2], answers := [(0, [900])] } }; s.hytur.tables.view.length ≥ 2 * 1 ∧ 1975000 + 25000 ≤ s.clock.time) ∧
    (podded.clock.announceAt.length = 0 ∧ podded.clock.syncAt.length = 0 ∧ podded.ptpRole 3 = .master ∧ slaved.ptpRole 16 = .slave) ∧
    (podded.clock.masters.length = 0 ∧ slaved.clock.masters.length = 1) := by decide +kernel

/-- Queue 3 with an answer that waits for its bytes. -/
def answering : State := (wired [putCmd]).updQueue 3 fun x => { x with unsent := [(6, { emptyPacket with qpn := 0x105, psn := 19, data := [1, 2] })] }

/-- R339: the answer goes before the command. -/
theorem test_answer_first : after answering (.pacedPacketSend 3) (fun u => ((u.queue 3).unsent.length, (u.queue 3).spsn, u.outbox.length)) = some (0, 10, 1) := by decide +kernel

/-- Hypotheses of PorterQueues: a queue's turn, with an answer to send and without, forwarded commands, a PUT's plain source. -/
theorem witness_PorterQueues_turns : (answering.portTurn 3 = true ∧ (answering.nextAnswer 3).isSome = true) ∧ ((wired [putCmd]).portTurn 3 = true ∧ ((wired [putCmd]).nextAnswer 3).isNone = true) ∧
    ((wired []).admitted 3 = false) ∧ plainB (wired [putCmd]) = true ∧ oneRun ((wired [putCmd]).rangeOf 0 .read putCmd (va54 putCmd.local_) 8) 0x200000 8 = true ∧ ((wired []).queue 3).ackDue.isNone = true := by decide +kernel

/-- A joiner that waits for chip 1's snapshot, its queue pair 0x20 open to it, and the snapshot's packets. -/
def snapshotting : State := (podH fun h => { h with join := .asked, sponsor := 1, fenced := true }).updQueue (512 + 1) fun _ => { st := .ready, port := 2, chip := 1, rqpn := 0x20 }
def snapshotPacket : Packet := { emptyPacket with qpn := 0x20, src := snapshotting.fabricGid 1, dst := snapshotting.fabricGid 0, addr := BitVec.ofNat 64 snapshotBase, data := [5, 6] }

/-- R399: its WRITE is stored; R321: queue pair 1 refuses what it is asked. -/
theorem test_fixed_pairs : after snapshotting (.rdmaWrite snapshotPacket) (fun u => (u.readNum snapshotBase 2, (u.queue 513).epsn)) = some (0x605, 1) ∧
    after podded (.rdmaWrite { emptyPacket with qpn := 1 }) (fun u => u.outbox.length) = some 1 := by decide +kernel

/-- Hypotheses of PorterPackets: the fixed queue pairs, and a refusal of a later packet. -/
theorem witness_PorterPackets_fixed : ((podded.queue 2047).st = .unbound ∧ ({ emptyPacket with qpn := 1 } : Packet).qpn.toNat = 1 ∧ podded.platform.boot = .member) ∧
    (snapshotPacket.qpn.toNat = 0x20 ∧ (snapshotting.queue 513).st = .ready ∧ snapshotPacket.form = true ∧ psnSub snapshotPacket.psn.toNat (snapshotting.queue 513).epsn = 0 ∧ va54 snapshotPacket.addr = snapshotBase ∧
      snapshotBase + 2 ≤ 0xC000000000 ∧ plainB snapshotting = true ∧ snapshotting.hytur.join = .asked ∧ podded.hytur.join ≠ .asked) ∧
    (let s := (wired [{ getCmd with sent := 1 }, { putCmd with id := 6, sent := 1 }]).updQueue 3 fun x => { x with times := [1999000, 1999001], spsn := 12 }
     (s.queue 3).oldest = 10 ∧ psnSub 11 (s.queue 3).oldest < (s.queue 3).times.length ∧ (s.queue 3).retries < 7) ∧
    (let p := hostPacket 2 (control 1); p.dst = podded.platform.config.portGid ∧ p.src = podded.platform.config.hostGid ∧ (podded.queue 258).st = .ready) := by decide +kernel

end Sys2Proof.Tests
end

/-!
What the state right after reset reads as through the model's accessors. Every map of `State.reset` is empty, so an accessor of it gives the value
that an unlisted key reads as, whatever the key.
-/

namespace Sys2Proof

/-- The empty map reads as its default at every key. -/
@[simp] theorem Map.get_nil {α : Type} (d : α) (k : Nat) : Map.get d [] k = d := rfl

end Sys2Proof

namespace Sys2Proof.Machine
open Sys2Proof

/-! ## Reads of the reset state -/

@[simp] theorem State.core_reset (c : Nat) : State.reset.core c = {} := Map.get_nil (α := Core) {} c

@[simp] theorem State.queue_reset (q : Nat) : State.reset.queue q = {} := Map.get_nil (α := Queue) {} q

/-- Assumption 2: an unwritten byte. -/
@[simp] theorem State.readByte_reset (pa : Nat) : State.reset.readByte pa = memDefault := Map.get_nil memDefault pa

/-- R323: a queue is unbound and has incarnation 0. -/
theorem queue_unbound_reset (q : Nat) : (State.reset.queue q).st = .unbound ∧ (State.reset.queue q).inc = 0 := by
  rw [State.queue_reset]
  exact ⟨rfl, rfl⟩

/-- R297: a control core's count of commands. -/
theorem commands_reset (c : Nat) : (State.reset.controls.get ({} : Control) c).commands = 0 := by
  rw [show State.reset.controls = [] from rfl, Map.get_nil]

theorem coreCounter_reset (c i : Nat) : (State.reset.core c).counters.get 0 i = 0 := by
  rw [State.core_reset]
  exact Map.get_nil 0 i

theorem dieCounter_reset (i : Nat) : State.reset.dieCounters.get 0 i = 0 := Map.get_nil 0 i

/-- R393: no view lists the chip yet, so it is no member. -/
theorem isMember_reset : State.reset.isMember = false := by decide

/-! ## The statement -/

/-- Settles O60: the cycle count, the platform, the contexts and the residents are fields of `State.reset`; the rest is read through the accessors. -/
theorem resetState : Obligations.ResetState := by
  unfold Obligations.ResetState
  have hcycle : State.reset.cycle = 0 := rfl
  have hboot : State.reset.platform.boot = .rom := rfl
  have hfrozen : State.reset.platform.frozen = false := rfl
  have hctxs : State.reset.ctxs = [] := rfl
  have hblocks : State.reset.blocks = [] := rfl
  have hwarps : State.reset.warps = [] := rfl
  have himages : State.reset.images = [] := rfl
  have hroll : State.reset.hytur.r = 0 := rfl
  have hbudget : State.reset.platform.budget = 3000 := rfl
  exact ⟨hcycle, hboot, hfrozen, hctxs, hblocks, hwarps, himages, queue_unbound_reset, commands_reset, hroll, isMember_reset, hbudget,
    coreCounter_reset, dieCounter_reset, wf_reset, State.readByte_reset⟩

end Sys2Proof.Machine

/-!
What the codes of the signed floating-point formats decode to, and what encodes back to a code (R53, R54, R66, R73).
-/

namespace Sys2Proof

/-! ## Fields of a code (R54) -/

/-- The magnitude of a finite code with exponent field e and fraction field m (R54): an exponent field of 0 has the exponent of 1, and no leading bit. -/
def Fmt.codeVal (f : Fmt) (e m : Nat) : Mag :=
  { num := m + (if e = 0 then 0 else 2 ^ f.fbits), exp := (max e 1 : Nat) - f.bias - f.fbits }

/-- The code of a sign, an exponent field and a fraction field. -/
def Fmt.codeOf (f : Fmt) (neg : Bool) (e m : Nat) : Nat := f.signBit neg + (e * 2 ^ f.fbits + m)

theorem Fmt.bits_of_isFloat {f : Fmt} (h : f.isFloat = true) : f.bits = f.fbits + f.ebits + 1 := by
  revert h; cases f <;> decide

/-- The fields of a code are in range, and the code is theirs. -/
theorem Fmt.fields_spec {f : Fmt} (h : f.isFloat = true) {c : Nat} (hc : c < 2 ^ f.bits) :
    ∃ s e m, f.fields c = (s, e, m) ∧ e < 2 ^ f.ebits ∧ m < 2 ^ f.fbits ∧ c = f.codeOf s e m := by
  refine ⟨_, _, _, rfl, Nat.mod_lt _ (Nat.two_pow_pos _), Nat.mod_lt _ (Nat.two_pow_pos _), ?_⟩
  have hlow : c % 2 ^ f.fbits + 2 ^ f.fbits * (c / 2 ^ f.fbits) = c := Nat.mod_add_div ..
  have hmid : c / 2 ^ f.fbits % 2 ^ f.ebits + 2 ^ f.ebits * (c / 2 ^ (f.fbits + f.ebits)) = c / 2 ^ f.fbits := by
    rw [Nat.pow_add, ← Nat.div_div_eq_div_mul]
    exact Nat.mod_add_div ..
  have htop : c / 2 ^ (f.fbits + f.ebits) < 2 := by
    rw [Nat.div_lt_iff_lt_mul (Nat.two_pow_pos _), ← Nat.pow_succ']
    rwa [Fmt.bits_of_isFloat h] at hc
  have hsign : f.signBit (decide (c / 2 ^ (f.fbits + f.ebits) % 2 = 1)) = 2 ^ f.fbits * 2 ^ f.ebits * (c / 2 ^ (f.fbits + f.ebits)) := by
    rw [← Nat.pow_add]
    obtain h0 | h1 := Nat.le_one_iff_eq_zero_or_eq_one.1 (Nat.le_of_lt_succ htop)
    · simp [Fmt.signBit, h0]
    · simp [Fmt.signBit, h1]
  rw [Fmt.codeOf, hsign]
  calc c = c % 2 ^ f.fbits + 2 ^ f.fbits * (c / 2 ^ f.fbits % 2 ^ f.ebits + 2 ^ f.ebits * (c / 2 ^ (f.fbits + f.ebits))) := by rw [hmid, hlow]
    _ = 2 ^ f.fbits * 2 ^ f.ebits * (c / 2 ^ (f.fbits + f.ebits)) + (c / 2 ^ f.fbits % 2 ^ f.ebits * 2 ^ f.fbits + c % 2 ^ f.fbits) := by
      rw [Nat.mul_add, Nat.mul_assoc, Nat.mul_comm (c / 2 ^ f.fbits % 2 ^ f.ebits)]
      omega

/-- The value of a code by its fields (R53, R54). -/
theorem decodeVal_of_fields {f : Fmt} (h : f.isFloat = true) {c e m : Nat} {s : Bool} (hf : f.fields c = (s, e, m)) :
    (f.isNan e m = true ∧ (decodeVal f c).isNan = true) ∨
    (f.hasInf = true ∧ e = 2 ^ f.ebits - 1 ∧ m = 0 ∧ decodeVal f c = .inf s) ∨
    (e = 0 ∧ m = 0 ∧ decodeVal f c = .zero s) ∨
    (f.isNan e m = false ∧ (f.hasInf = true → e ≠ 2 ^ f.ebits - 1) ∧ (e ≠ 0 ∨ m ≠ 0) ∧ decodeVal f c = .fin s (f.codeVal e m)) := by
  unfold decodeVal
  simp only [h, if_true, hf]
  by_cases hn : f.isNan e m = true
  · rw [if_pos hn]
    refine .inl ⟨hn, ?_⟩
    split <;> rfl
  rw [if_neg hn]
  rw [Bool.not_eq_true] at hn
  by_cases hi : (f.hasInf && decide (e = 2 ^ f.ebits - 1)) = true
  · rw [if_pos hi]
    simp only [Bool.and_eq_true, decide_eq_true_eq] at hi
    obtain ⟨hinf, he⟩ := hi
    refine .inr (.inl ⟨hinf, he, ?_, rfl⟩)
    simpa [Fmt.isNan, hinf, he] using (Bool.or_eq_false_iff.1 hn).1
  rw [if_neg hi]
  have hfin : f.hasInf = true → e ≠ 2 ^ f.ebits - 1 := by simpa using hi
  by_cases he : e = 0
  · by_cases hm : m = 0
    · exact .inr (.inr (.inl ⟨he, hm, by simp [he, hm]⟩))
    · exact .inr (.inr (.inr ⟨hn, hfin, .inr hm, by simp [he, hm, Fmt.codeVal]⟩))
  · refine .inr (.inr (.inr ⟨hn, hfin, .inl he, ?_⟩))
    simp [he, Fmt.codeVal, Nat.max_eq_left (Nat.one_le_iff_ne_zero.2 he)]

/-! ## The magnitude of a code -/

section
variable {f : Fmt} {e m : Nat}

theorem Fmt.codeVal_num_ne_zero (h : e ≠ 0 ∨ m ≠ 0) : (f.codeVal e m).num ≠ 0 := by
  have : 0 < 2 ^ f.fbits := Nat.two_pow_pos _
  simp only [Fmt.codeVal]
  split <;> omega

/-- A normal code's magnitude has its exponent field's power of two. -/
theorem Fmt.log2_codeVal_normal (he : e ≠ 0) (hm : m < 2 ^ f.fbits) : ((f.codeVal e m).num.log2 : Int) = f.fbits := by
  have hnum : (f.codeVal e m).num = m + 2 ^ f.fbits := by simp [Fmt.codeVal, he]
  exact_mod_cast hnum ▸ (Nat.log2_eq_iff (by omega)).2 ⟨Nat.le_add_left .., by rw [Nat.pow_succ]; omega⟩

/-- A subnormal code's magnitude lies below the leading bit. -/
theorem Fmt.log2_codeVal_subnormal (hm : m ≠ 0) (hlt : m < 2 ^ f.fbits) : ((f.codeVal 0 m).num.log2 : Int) < f.fbits := by
  have : (f.codeVal 0 m).num = m := by simp [Fmt.codeVal]
  rw [this]
  exact_mod_cast (Nat.log2_lt hm).2 hlt

/-- The unit of `round` at a code's magnitude is the code's own (R66, R81). -/
theorem Fmt.unit_codeVal (hf : f.isFloat = true) (hm : m < 2 ^ f.fbits) (h : e ≠ 0 ∨ m ≠ 0) : f.unit (f.codeVal e m) = (f.codeVal e m).exp := by
  simp only [Fmt.unit, hf, if_true, Mag.log2]
  by_cases he : e = 0
  · subst he
    have := Fmt.log2_codeVal_subnormal (f := f) (h.resolve_left fun h => h rfl) hm
    simp only [Fmt.codeVal] at this ⊢
    omega
  · have := Fmt.log2_codeVal_normal he hm
    simp only [Fmt.codeVal] at this ⊢
    omega

/-- A magnitude packed from a code's fields gives them back. -/
theorem Fmt.pack_codeVal (hm : m < 2 ^ f.fbits) (h : e ≠ 0 ∨ m ≠ 0) : f.pack (f.codeVal e m).num (f.codeVal e m).exp = e * 2 ^ f.fbits + m := by
  rw [Fmt.pack, if_neg (Fmt.codeVal_num_ne_zero h)]
  by_cases he : e = 0
  · subst he
    have hlog := Fmt.log2_codeVal_subnormal (f := f) (h.resolve_left fun h => h rfl) hm
    simp only [Fmt.codeVal] at hlog ⊢
    rw [if_pos (by omega)]
    simp [shiftInt]
  · have hlog := Fmt.log2_codeVal_normal he hm
    simp only [hlog]
    simp only [Fmt.codeVal, he, if_false]
    rw [if_neg (by omega), show (f.fbits : Int) + ((max e 1 : Nat) - f.bias - f.fbits) + f.bias = (e : Nat) by omega]
    simp [shiftInt]

/-- Larger fields are no smaller a magnitude. -/
theorem Fmt.codeVal_not_lt {e' m' : Nat} (hm : m < 2 ^ f.fbits) (hm' : m' < 2 ^ f.fbits) (h : e * 2 ^ f.fbits + m ≤ e' * 2 ^ f.fbits + m') (h0 : e' ≠ 0) :
    (f.codeVal e' m').lt (f.codeVal e m) = false := by
  have hle : e ≤ e' := by
    refine Nat.le_of_not_lt fun hgt => ?_
    have : (e' + 1) * 2 ^ f.fbits ≤ e * 2 ^ f.fbits := Nat.mul_le_mul_right _ (by omega)
    rw [Nat.add_mul] at this
    omega
  have hexp : (f.codeVal e m).exp ≤ (f.codeVal e' m').exp := by simp only [Fmt.codeVal]; omega
  have hgap : ((f.codeVal e' m').exp - (f.codeVal e m).exp).toNat = e' - max e 1 := by simp only [Fmt.codeVal]; omega
  have hnum : (f.codeVal e m).num ≤ (f.codeVal e' m').num * 2 ^ (e' - max e 1) := by
    simp only [Fmt.codeVal, h0, if_false]
    by_cases hk : e' - max e 1 = 0
    · rw [hk]
      split
      · omega
      · obtain rfl : e = e' := by omega
        omega
    · calc _ ≤ 2 ^ f.fbits * 2 := by split <;> omega
        _ ≤ (m' + 2 ^ f.fbits) * 2 ^ (e' - max e 1) := Nat.mul_le_mul (Nat.le_add_left ..) (Nat.le_self_pow hk 2)
  have hsticky : (f.codeVal e' m').sticky = false ∧ (f.codeVal e m).sticky = false := ⟨rfl, rfl⟩
  simp only [Mag.lt, Int.min_eq_right hexp, shiftInt, Int.sub_nonneg.2 hexp, if_true, hgap, Int.sub_self, Int.le_refl, Int.toNat_zero, Nat.pow_zero, Nat.mul_one,
    hsticky.1, hsticky.2, Bool.and_false, Bool.or_false, decide_eq_false_iff_not]
  exact Nat.not_lt.2 hnum
end

/-- Rounding to a magnitude's own unit keeps it, in every mode. -/
theorem roundUnits_exp (mode : Rnd) (neg : Bool) (x : Mag) (r : Nat) : roundUnits mode neg x x.exp r = x.num := by
  simp [roundUnits]

/-! ## The largest finite code -/

/-- The largest finite code of a format is that of a normal magnitude. -/
theorem Fmt.decode_largest {f : Fmt} (h : f.isFloat = true) :
    decodeVal f f.largest = .fin false (f.codeVal (f.largest / 2 ^ f.fbits) (f.largest % 2 ^ f.fbits)) ∧ f.largest / 2 ^ f.fbits ≠ 0 := by
  revert h; cases f <;> decide +kernel

/-- No finite code is above it. -/
theorem Fmt.le_largest {f : Fmt} (h : f.isFloat = true) {e m : Nat} (he : e < 2 ^ f.ebits) (hm : m < 2 ^ f.fbits) (hn : f.isNan e m = false)
    (hi : f.hasInf = true → e ≠ 2 ^ f.ebits - 1) : e * 2 ^ f.fbits + m ≤ f.largest := by
  cases f <;> simp [Fmt.isFloat, Fmt.ebits, Fmt.fbits, Fmt.isNan, Fmt.hasInf, Fmt.largest] at * <;> omega

/-! ## Encoding what a format holds -/

/-- A finite value of a format encodes as its own code, in every mode and whatever the draw (R66, R67). -/
theorem encodeVal_codeVal {f : Fmt} (h : f.isFloat = true) (mode : Rnd) (sat : Bool) (r : Nat) (s : Bool) {e m : Nat} (he : e < 2 ^ f.ebits)
    (hm : m < 2 ^ f.fbits) (hn : f.isNan e m = false) (hi : f.hasInf = true → e ≠ 2 ^ f.ebits - 1) (h0 : e ≠ 0 ∨ m ≠ 0) :
    encodeVal f mode sat r (.fin s (f.codeVal e m)) = f.codeOf s e m := by
  obtain ⟨htop, hnormal⟩ := Fmt.decode_largest h
  have hin : (f.codeVal (f.largest / 2 ^ f.fbits) (f.largest % 2 ^ f.fbits)).lt (f.codeVal e m) = false :=
    Fmt.codeVal_not_lt hm (Nat.mod_lt _ (Nat.two_pow_pos _)) (by rw [Nat.div_add_mod']; exact Fmt.le_largest h he hm hn hi) hnormal
  have hy : ({ num := (f.codeVal e m).num, exp := (f.codeVal e m).exp } : Mag) = f.codeVal e m := rfl
  simp only [encodeVal, h, if_true, Fmt.unit_codeVal h hm h0, roundUnits_exp, Fmt.codeVal_num_ne_zero h0, if_false, htop, hy, hin, Fmt.pack_codeVal hm h0]
  rfl

/-- A value that a format holds encodes as its own code. -/
theorem encodeVal_decodeVal {f : Fmt} (h : f.isFloat = true) (mode : Rnd) (sat : Bool) (r : Nat) {c : Nat} (hc : c < 2 ^ f.bits)
    (hnan : (decodeVal f c).isNan = false) (hinf : ∀ n, decodeVal f c ≠ .inf n) : encodeVal f mode sat r (decodeVal f c) = c := by
  obtain ⟨s, e, m, hf, he, hm, rfl⟩ := Fmt.fields_spec h hc
  obtain ⟨-, hv⟩ | ⟨-, -, -, hv⟩ | ⟨rfl, rfl, hv⟩ | ⟨hn, hi, h0, hv⟩ := decodeVal_of_fields h hf
  · rw [hv] at hnan; cases hnan
  · exact absurd hv (hinf s)
  · rw [hv]
    simp [encodeVal, h, Fmt.codeOf]
  · rw [hv, encodeVal_codeVal h mode sat r s he hm hn hi h0]

/-- An infinity of a format encodes as its own code where the mode does not saturate (R67). -/
theorem encodeVal_decodeVal_inf {f : Fmt} (h : f.isFloat = true) (mode : Rnd) (r : Nat) {c : Nat} (hc : c < 2 ^ f.bits) {n : Bool}
    (hv : decodeVal f c = .inf n) : encodeVal f mode false r (decodeVal f c) = c := by
  obtain ⟨s, e, m, hf, -, -, rfl⟩ := Fmt.fields_spec h hc
  obtain ⟨-, hv'⟩ | ⟨hinf, rfl, rfl, hv'⟩ | ⟨-, -, hv'⟩ | ⟨-, -, -, hv'⟩ := decodeVal_of_fields h hf
  · rw [hv] at hv'; cases hv'
  · rw [hv']
    simp [encodeVal, h, hinf, Fmt.codeOf]
  · rw [hv] at hv'; cases hv'
  · rw [hv] at hv'; cases hv'

/-! ## NaNs (R73, R74) -/

/-- The quiet bit set in a fraction aligned as in FP32. -/
theorem or_quiet {x : Nat} (h : x < 2 ^ 23) : x ||| 0x400000 = if x / 2 ^ 22 = 1 then x else x + 0x400000 := by
  have hset : ∀ b < 2 ^ 22, 0x400000 ||| b = 0x400000 + b := fun b hb => (Nat.two_pow_add_eq_or_of_lt (i := 22) hb 1).symm
  split
  · obtain ⟨b, rfl⟩ : ∃ b, x = 0x400000 + b := ⟨x - 0x400000, by omega⟩
    rw [← hset b (by omega), Nat.or_comm, ← Nat.or_assoc, Nat.or_self]
  · rw [Nat.or_comm, hset x (by omega), Nat.add_comm]

/-- A quieted NaN encodes with its quiet bit. -/
theorem encodeVal_quiet (f : Fmt) (mode : Rnd) (sat : Bool) (r : Nat) (s : Bool) (x : Nat) :
    encodeVal f mode sat r (Val.nan s x).quiet = f.nanCode s (x ||| 0x400000) := by
  show f.nanCode s (if f = .fp32 then x ||| 0x400000 else x ||| 0x400000 ||| 0x400000) = _
  rw [Nat.or_assoc, Nat.or_self, ite_self]

/-- The formats that keep a NaN's payload (R73). -/
def Fmt.keepsPayload (f : Fmt) : Prop := f ∈ [Fmt.fp32, .bf16, .fp16]

section
variable {f : Fmt}

theorem Fmt.keepsPayload.isFloat (hf : f.keepsPayload) : f.isFloat = true := by
  revert hf; cases f <;> simp [Fmt.keepsPayload, Fmt.isFloat]

/-- A NaN's fraction field is aligned as in FP32. -/
theorem Fmt.keepsPayload.decode_nan (hf : f.keepsPayload) {c e m : Nat} {s : Bool} (hc : f.fields c = (s, e, m)) (hn : f.isNan e m = true) :
    decodeVal f c = .nan s (m * 2 ^ (23 - f.fbits)) := by
  unfold decodeVal
  simp only [hf.isFloat, hc, hn, if_true]
  simp only [Fmt.keepsPayload, List.mem_cons, List.not_mem_nil, or_false] at hf
  obtain rfl | rfl | rfl := hf <;> simp [Fmt.fbits]

/-- A NaN's code has the exponent field of ones and the top of the fraction. -/
theorem Fmt.keepsPayload.nanCode (hf : f.keepsPayload) (s : Bool) (x : Nat) :
    f.nanCode s x = f.codeOf s (2 ^ f.ebits - 1) (x / 2 ^ (23 - f.fbits) % 2 ^ f.fbits) := by
  simp only [Fmt.keepsPayload, List.mem_cons, List.not_mem_nil, or_false] at hf
  obtain rfl | rfl | rfl := hf <;> simp [Fmt.nanCode, Fmt.codeOf, Fmt.fbits, Fmt.ebits] <;> omega

theorem Fmt.keepsPayload.fbits_range (hf : f.keepsPayload) : 0 < f.fbits ∧ f.fbits ≤ 23 := by
  simp only [Fmt.keepsPayload, List.mem_cons, List.not_mem_nil, or_false] at hf
  obtain rfl | rfl | rfl := hf <;> decide

/-- The quiet bit is the highest bit of the fraction field. -/
theorem Fmt.keepsPayload.quiet_frac (hf : f.keepsPayload) {m : Nat} (hm : m < 2 ^ f.fbits) :
    (m * 2 ^ (23 - f.fbits) ||| 0x400000) / 2 ^ (23 - f.fbits) % 2 ^ f.fbits = if m / 2 ^ (f.fbits - 1) = 1 then m else m + 2 ^ (f.fbits - 1) := by
  obtain ⟨hpos, hle⟩ := hf.fbits_range
  have hk : 0 < 2 ^ (23 - f.fbits) := Nat.two_pow_pos _
  have htop : 2 ^ f.fbits = 2 ^ (f.fbits - 1) * 2 := by rw [← Nat.pow_succ, Nat.succ_eq_add_one, Nat.sub_add_cancel hpos]
  have hquiet : 2 ^ (f.fbits - 1) * 2 ^ (23 - f.fbits) = 2 ^ 22 := by rw [← Nat.pow_add]; congr 1; omega
  have hx : m * 2 ^ (23 - f.fbits) < 2 ^ 23 := by
    calc m * 2 ^ (23 - f.fbits) < 2 ^ f.fbits * 2 ^ (23 - f.fbits) := Nat.mul_lt_mul_of_pos_right hm hk
      _ = 2 ^ 23 := by rw [← Nat.pow_add, Nat.add_sub_cancel' hle]
  rw [or_quiet hx, ← hquiet, Nat.mul_div_mul_right _ _ hk]
  split
  · rw [Nat.mul_div_cancel _ hk, Nat.mod_eq_of_lt hm]
  · next hclear =>
    have hlow : m < 2 ^ (f.fbits - 1) := by
      have : m / 2 ^ (f.fbits - 1) < 2 := (Nat.div_lt_iff_lt_mul (Nat.two_pow_pos _)).2 (by omega)
      exact (Nat.div_eq_zero_iff_lt (Nat.two_pow_pos _)).1 ((Nat.le_one_iff_eq_zero_or_eq_one.1 (Nat.le_of_lt_succ this)).resolve_right hclear)
    rw [show 0x400000 = 2 ^ 22 from rfl, ← hquiet, ← Nat.add_mul, Nat.mul_div_cancel _ hk, Nat.mod_eq_of_lt (by omega)]

/-- The exponent field of a NaN is all ones. -/
theorem Fmt.keepsPayload.nan_exp (hf : f.keepsPayload) {e m : Nat} (hn : f.isNan e m = true) : e = 2 ^ f.ebits - 1 := by
  simp only [Fmt.keepsPayload, List.mem_cons, List.not_mem_nil, or_false] at hf
  obtain rfl | rfl | rfl := hf <;> simp only [Fmt.isNan, Fmt.hasInf, Bool.true_and, reduceCtorEq, decide_false, Bool.false_and, Bool.or_false, Bool.and_eq_true, decide_eq_true_eq] at hn <;>
    exact hn.1

open Machine in
/-- A NaN of a format that keeps payloads comes back quiet. -/
theorem Fmt.keepsPayload.encodeVal_nan (hf : f.keepsPayload) (mode : Rnd) (sat : Bool) (r : Nat) {c : Nat} (hc : c < 2 ^ f.bits)
    (hnan : (decodeVal f c).isNan = true) : encodeVal f mode sat r (decodeVal f c).quiet = codeQuiet f c := by
  obtain ⟨s, e, m, hfields, -, hm, hcode⟩ := Fmt.fields_spec hf.isFloat hc
  have hfrac : codeFrac f c = m := congrArg (·.2.2) hfields
  obtain ⟨hn, -⟩ | ⟨-, -, -, hv⟩ | ⟨-, -, hv⟩ | ⟨-, -, -, hv⟩ := decodeVal_of_fields hf.isFloat hfields
  · rw [hf.decode_nan hfields hn, encodeVal_quiet, hf.nanCode, hf.quiet_frac hm, codeQuiet, hfrac, ← hf.nan_exp hn]
    split
    · exact hcode.symm
    · rw [hcode]; simp only [Fmt.codeOf]; omega
  all_goals rw [hv] at hnan; cases hnan
end

end Sys2Proof

/-!
The special cases of the rounding instructions, on values (R72, R73, R75, R92).
-/

namespace Sys2Proof
open Machine

/-! ## NaN operands (R73) -/

section
variable {a b c n : Val} {mode : Rnd}

theorem firstNan_cons_nan (l : List Val) (h : a.isNan = true) : firstNan (a :: l) = some a.quiet := if_pos h

theorem firstNan_cons_of_not_nan (l : List Val) (h : a.isNan = false) : firstNan (a :: l) = firstNan l := by simp [firstNan, h]

theorem addVal_of_firstNan (h : firstNan [a, b] = some n) : addVal mode a b = some n := by simp only [addVal, h]

theorem subVal_of_firstNan (h : firstNan [a, b] = some n) : subVal mode a b = some n := by simp only [subVal, h]

theorem mulVal_of_firstNan (h : firstNan [a, b] = some n) : mulVal a b = some n := by simp only [mulVal, h]

theorem divVal_of_firstNan (h : firstNan [a, b] = some n) : divVal a b = some n := by simp only [divVal, h]

theorem fmaVal_of_firstNan (h : firstNan [a, b, c] = some n) : fmaVal mode a b c = some n := by simp only [fmaVal, h]

theorem sqrtVal_of_nan (h : a.isNan = true) : sqrtVal a = some a.quiet := by
  cases a with
  | nan => rfl
  | inf | zero | fin => cases h

/-- A NaN first operand is the result of every rounding instruction, quiet. -/
theorem arithmetic_nan_left (h : a.isNan = true) :
    addVal mode a b = some a.quiet ∧ subVal mode a b = some a.quiet ∧ mulVal a b = some a.quiet ∧ divVal a b = some a.quiet ∧
      sqrtVal a = some a.quiet ∧ fmaVal mode a b c = some a.quiet := by
  have h2 : firstNan [a, b] = some a.quiet := firstNan_cons_nan _ h
  exact ⟨addVal_of_firstNan h2, subVal_of_firstNan h2, mulVal_of_firstNan h2, divVal_of_firstNan h2, sqrtVal_of_nan h,
    fmaVal_of_firstNan (firstNan_cons_nan _ h)⟩

/-- A NaN second operand is the result where the first is none. -/
theorem arithmetic_nan_right (ha : a.isNan = false) (h : b.isNan = true) :
    addVal mode a b = some b.quiet ∧ subVal mode a b = some b.quiet ∧ mulVal a b = some b.quiet ∧ divVal a b = some b.quiet ∧
      fmaVal mode a b c = some b.quiet := by
  have h2 : firstNan [a, b] = some b.quiet := (firstNan_cons_of_not_nan _ ha).trans (firstNan_cons_nan _ h)
  have h3 : firstNan [a, b, c] = some b.quiet := (firstNan_cons_of_not_nan _ ha).trans (firstNan_cons_nan _ h)
  exact ⟨addVal_of_firstNan h2, subVal_of_firstNan h2, mulVal_of_firstNan h2, divVal_of_firstNan h2, fmaVal_of_firstNan h3⟩
end

/-! ## Invalid operations and zeros (R72, R75, R92) -/

theorem addVal_inf_opposite (mode : Rnd) (x : Bool) : addVal mode (.inf x) (.inf (!x)) = none := by cases x <;> rfl

theorem subVal_inf_same (mode : Rnd) (x : Bool) : subVal mode (.inf x) (.inf x) = none := by cases x <;> rfl

/-- The operations that have no value. -/
theorem arithmetic_invalid (mode : Rnd) (x y : Bool) :
    addVal mode (.inf x) (.inf (!x)) = none ∧ subVal mode (.inf x) (.inf x) = none ∧ mulVal (.zero x) (.inf y) = none ∧ mulVal (.inf x) (.zero y) = none ∧
      divVal (.zero x) (.zero y) = none ∧ divVal (.inf x) (.inf y) = none ∧ sqrtVal (.inf true) = none ∧ ∀ m, sqrtVal (.fin true m) = none :=
  ⟨addVal_inf_opposite mode x, subVal_inf_same mode x, rfl, rfl, rfl, rfl, rfl, fun _ => rfl⟩

/-- Zeros of both signs add to +0, and to −0 where the mode rounds down. -/
theorem addVal_zero_opposite (mode : Rnd) (x : Bool) : addVal mode (.zero x) (.zero (!x)) = some (.zero (mode = .rd)) := by
  cases x <;> cases mode <;> rfl

theorem addVal_zero_same (mode : Rnd) (x : Bool) : addVal mode (.zero x) (.zero x) = some (.zero x) := by
  cases x <;> cases mode <;> rfl

/-! ## Values that neither a rounding mode nor .ftz changes -/

/-- The magnitude of 1 with p bits behind the leading one. -/
theorem Mag.log2_one (p : Nat) : Mag.log2 { num := 2 ^ p, exp := -p } = 0 := by
  rw [Mag.log2, Nat.log2_two_pow]
  exact Int.add_right_neg p

/-- ±1. -/
def oneVal (neg : Bool) : Val := .fin neg { num := 1, exp := 0 }

/-- A value with one code, whatever the mode and the draw, and that code not a subnormal's. -/
def Fmt.Fixed (f : Fmt) (x : Val) : Prop :=
  ∃ s e m, e < 2 ^ f.ebits ∧ m < 2 ^ f.fbits ∧ (e ≠ 0 ∨ m = 0) ∧ ∀ mode r, encodeVal f mode false r x = f.codeOf s e m

/-- A magnitude encodes by its unit and its rounding alone. -/
theorem encodeVal_congr {f : Fmt} (mode : Rnd) (sat : Bool) (r : Nat) (s : Bool) {x y : Mag} (hu : f.unit x = f.unit y)
    (hr : roundUnits mode s x (f.unit y) r = roundUnits mode s y (f.unit y) r) : encodeVal f mode sat r (.fin s x) = encodeVal f mode sat r (.fin s y) := by
  simp only [encodeVal, hu, hr]

/-- .ftz keeps every code but a subnormal's (R71). -/
theorem ftzOut_codeOf (f : Fmt) (ftz s : Bool) {e m : Nat} (he : e < 2 ^ f.ebits) (hm : m < 2 ^ f.fbits) (h : e ≠ 0 ∨ m = 0) :
    ftzOut f ftz (f.codeOf s e m) = f.codeOf s e m := by
  unfold ftzOut
  split
  · next hsub =>
    simp only [Bool.and_eq_true, decide_eq_true_eq] at hsub
    obtain ⟨⟨-, rfl⟩, hexp⟩ := hsub
    cases s <;> simp only [Fmt.codeOf, Fmt.signBit, Fmt.ebits, Fmt.fbits, if_true, if_false, Bool.false_eq_true] at * <;> omega
  · rfl

section
variable {f : Fmt} (hf : f.keepsPayload)
include hf

theorem Fmt.Fixed.zero (n : Bool) : f.Fixed (.zero n) :=
  ⟨n, 0, 0, Nat.two_pow_pos _, Nat.two_pow_pos _, .inr rfl, fun _ _ => by simp [encodeVal, hf.isFloat, Fmt.codeOf]⟩

theorem Fmt.keepsPayload.hasInf : f.hasInf = true := by
  revert hf; cases f <;> simp [Fmt.keepsPayload, Fmt.hasInf]

theorem Fmt.keepsPayload.ones_ne_zero : 2 ^ f.ebits - 1 ≠ 0 := by
  revert hf; cases f <;> simp [Fmt.keepsPayload, Fmt.ebits]

theorem Fmt.Fixed.inf (n : Bool) : f.Fixed (.inf n) :=
  ⟨n, 2 ^ f.ebits - 1, 0, Nat.sub_lt (Nat.two_pow_pos _) Nat.one_pos, Nat.two_pow_pos _, .inl hf.ones_ne_zero, fun _ _ => by
    simp [encodeVal, hf.isFloat, hf.hasInf, Fmt.codeOf]⟩

theorem Fmt.Fixed.nan (n : Bool) (x : Nat) : f.Fixed (.nan n x) :=
  ⟨n, 2 ^ f.ebits - 1, _, Nat.sub_lt (Nat.two_pow_pos _) Nat.one_pos, Nat.mod_lt _ (Nat.two_pow_pos _), .inl hf.ones_ne_zero, fun _ _ => hf.nanCode n _⟩

theorem Fmt.keepsPayload.bias_range : 1 ≤ f.bias.toNat ∧ f.bias.toNat < 2 ^ f.ebits - 1 := by
  revert hf; cases f <;> simp [Fmt.keepsPayload, Fmt.bias, Fmt.ebits]

/-- The magnitude of 1's code: a leading bit and an exponent of 0. -/
theorem Fmt.keepsPayload.codeVal_bias : f.codeVal f.bias.toNat 0 = { num := 2 ^ f.fbits, exp := -f.fbits } := by
  have := hf.bias_range
  simp only [Fmt.codeVal, Mag.mk.injEq, and_true]
  refine ⟨?_, by omega⟩
  rw [if_neg (by omega), Nat.zero_add]

/-- ±1 is the normal code whose exponent field is the bias. -/
theorem encodeVal_one (mode : Rnd) (sat : Bool) (r : Nat) (n : Bool) : encodeVal f mode sat r (oneVal n) = f.codeOf n f.bias.toNat 0 := by
  obtain ⟨hpos, hlt⟩ := hf.bias_range
  have hnan : f.isNan f.bias.toNat 0 = false := by
    revert hf; cases f <;> simp [Fmt.keepsPayload, Fmt.isNan]
  have hunit : f.unit { num := 2 ^ f.fbits, exp := -f.fbits } = -f.fbits := by
    have := Fmt.unit_codeVal (e := f.bias.toNat) (m := 0) hf.isFloat (Nat.two_pow_pos _) (.inl (by omega))
    rwa [hf.codeVal_bias] at this
  rw [← encodeVal_codeVal (e := f.bias.toNat) (m := 0) hf.isFloat mode sat r n (by omega) (Nat.two_pow_pos _) hnan (fun _ => by omega) (.inl (by omega)), hf.codeVal_bias]
  refine encodeVal_congr mode sat r n ?_ ?_
  · rw [hunit]
    simp only [Fmt.unit, hf.isFloat, if_true, Mag.log2, show Nat.log2 1 = 0 from by decide]
    omega
  · rw [hunit]
    simp [roundUnits]

theorem Fmt.Fixed.one (n : Bool) : f.Fixed (oneVal n) :=
  ⟨n, f.bias.toNat, 0, by have := hf.bias_range; omega, Nat.two_pow_pos _, .inl (by have := hf.bias_range; omega), fun mode r => encodeVal_one hf mode false r n⟩

/-- The origin NaN is quiet. -/
theorem Fmt.Fixed.nanpay (lane : Nat) (pc : Addr54) : f.Fixed (Sys2Proof.nanpay f lane pc) := by
  obtain ⟨x, hx⟩ : ∃ x, Sys2Proof.nanpay f lane pc = .nan false x := by cases f <;> exact ⟨_, rfl⟩
  exact hx ▸ Fmt.Fixed.nan hf false x
end

end Sys2Proof

namespace Sys2Proof.Machine
open Sys2Proof

/-!
The special inputs of the seven special functions (R99): what is read, what the function fixes there, what is written.
-/

/-! ## Reading and writing -/

/-- The code that a value has in an environment's format, nearest-even. -/
def FpEnv.out (v : FpEnv) (x : Val) : Nat := encodeVal v.fmt .rn false 0 x

/-- The code of an invalid operation (R72). -/
def FpEnv.invalid (v : FpEnv) : Nat := v.out (nanpay v.fmt v.lane v.pc)

theorem FpEnv.wr_fixed {v : FpEnv} {x : Val} (h : v.fmt.Fixed x) : v.wr (some x) = v.out x := by
  obtain ⟨s, e, m, he, hm, h0, hx⟩ := h
  rw [FpEnv.wr, Option.getD_some, hx, ftzOut_codeOf _ _ _ he hm h0, FpEnv.out, hx]

section
variable {v : FpEnv} (hv : v.fmt.keepsPayload)
include hv

theorem FpEnv.wr_none : v.wr none = v.invalid := FpEnv.wr_fixed (Fmt.Fixed.nanpay hv v.lane v.pc)

/-- What the codes of zeros, infinities and ±1 decode to. -/
theorem FpEnv.decodeVal_out (n : Bool) :
    decodeVal v.fmt (v.out (.zero n)) = .zero n ∧ decodeVal v.fmt (v.out (.inf n)) = .inf n ∧
      decodeVal v.fmt (v.out (oneVal n)) = .fin n { num := 2 ^ v.fmt.fbits, exp := -v.fmt.fbits } := by
  simp only [Fmt.keepsPayload, List.mem_cons, List.not_mem_nil, or_false] at hv
  obtain h | h | h := hv <;> cases n <;> simp only [FpEnv.out, h] <;> decide +kernel

theorem FpEnv.rd_out_zero (n : Bool) : v.rd (v.out (.zero n)) = .zero n := by
  rw [FpEnv.rd, (FpEnv.decodeVal_out hv n).1]; rfl

theorem FpEnv.rd_out_inf (n : Bool) : v.rd (v.out (.inf n)) = .inf n := by
  rw [FpEnv.rd, (FpEnv.decodeVal_out hv n).2.1]; rfl

theorem FpEnv.rd_out_one (n : Bool) : v.rd (v.out (oneVal n)) = .fin n { num := 2 ^ v.fmt.fbits, exp := -v.fmt.fbits } := by
  rw [FpEnv.rd, (FpEnv.decodeVal_out hv n).2.2]
  simp only [ftzIn, Mag.log2_one, show ¬ (0 : Int) < -126 by decide, decide_false, Bool.and_false, Bool.false_eq_true, if_false]
end

/-! ## The functions (R99) -/

section
variable {fn ty c : Nat} {v : FpEnv} {x y : Val}

theorem specialCode_exact (hx : v.rd c = x) (hfn : specialFn fn x = .exact y) (hy : v.fmt.Fixed y) (hq : y.quiet = y := by rfl) : specialCode fn ty v c = v.out y := by
  simp only [specialCode, hx, hfn, hq, FpEnv.wr_fixed hy]

theorem specialCode_invalid (hv : v.fmt.keepsPayload) (hx : v.rd c = x) (hfn : specialFn fn x = .invalid) : specialCode fn ty v c = v.invalid := by
  simp only [specialCode, hx, hfn, FpEnv.wr_none hv]
end

/-- The logarithm of 1 is +0. -/
theorem flog2Fn_one (p : Nat) : flog2Fn (.fin false { num := 2 ^ p, exp := -p }) = .exact (.zero false) := by
  simp only [flog2Fn, magPow2, Nat.log2_two_pow, if_true, Mag.log2_one]
  rfl

theorem magMultiple_one (p : Nat) : magMultiple { num := 2 ^ p, exp := -p } 0 = true := by simp [magMultiple]

/-- The sine of ±π is a zero of the operand's sign. -/
theorem fsinFn_one (n : Bool) (p : Nat) : fsinFn (.fin n { num := 2 ^ p, exp := -p }) = .exact (.zero n) := by
  simp [fsinFn, magMultiple_one]

/-- 1 in fixed point. -/
theorem magFx_one {p : Nat} (hp : p ≤ fxBits) : magFx { num := 2 ^ p, exp := -p } = fxOne := by
  have h : -(p : Int) + fxBits = (fxBits - p : Nat) := by omega
  simp only [magFx, h, shiftInt, Int.natCast_nonneg, if_true, Int.toNat_natCast]
  rw [← Nat.pow_add, Nat.add_sub_cancel' hp, fxOne]

/-- The cosine of ±π is −1. -/
theorem fcosFn_one (n : Bool) {p : Nat} (hp : p ≤ fxBits) : fcosFn (.fin n { num := 2 ^ p, exp := -p }) = .exact (oneVal true) := by
  have hpos : 0 < fxOne := Nat.two_pow_pos _
  have ht : fxOne % (2 * fxOne) = fxOne := Nat.mod_eq_of_lt (by omega)
  simp only [fcosFn, magFx_one hp, ht, magMultiple_one, if_true, bne_iff_ne.2 (Nat.ne_of_gt hpos)]
  rfl

/-! ## The statement -/

section
variable (ty : Nat) {v : FpEnv} (hv : v.fmt.keepsPayload) (n : Bool)
include hv

theorem specialCode_zero :
    specialCode 0 ty v (v.out (.zero n)) = v.out (.inf n) ∧ specialCode 1 ty v (v.out (.zero n)) = v.out (.inf n) ∧ specialCode 2 ty v (v.out (.zero n)) = v.out (oneVal false) ∧
      specialCode 3 ty v (v.out (.zero n)) = v.out (.inf true) ∧ specialCode 4 ty v (v.out (.zero n)) = v.out (.zero n) ∧
      specialCode 5 ty v (v.out (.zero n)) = v.out (oneVal false) ∧ specialCode 6 ty v (v.out (.zero n)) = v.out (.zero n) := by
  have hr := FpEnv.rd_out_zero hv n
  exact ⟨specialCode_exact hr rfl (.inf hv n), specialCode_exact hr rfl (.inf hv n), specialCode_exact hr rfl (.one hv false), specialCode_exact hr rfl (.inf hv true),
    specialCode_exact hr rfl (.zero hv n), specialCode_exact hr rfl (.one hv false), specialCode_exact hr rfl (.zero hv n)⟩

theorem specialCode_inf :
    specialCode 0 ty v (v.out (.inf n)) = v.out (.zero n) ∧ specialCode 1 ty v (v.out (.inf false)) = v.out (.zero false) ∧ specialCode 1 ty v (v.out (.inf true)) = v.invalid ∧
      specialCode 2 ty v (v.out (.inf false)) = v.out (.inf false) ∧ specialCode 2 ty v (v.out (.inf true)) = v.out (.zero false) ∧
      specialCode 3 ty v (v.out (.inf false)) = v.out (.inf false) ∧ specialCode 3 ty v (v.out (.inf true)) = v.invalid ∧ specialCode 4 ty v (v.out (.inf n)) = v.invalid ∧
      specialCode 5 ty v (v.out (.inf n)) = v.invalid ∧ specialCode 6 ty v (v.out (.inf n)) = v.out (oneVal n) := by
  have hr := FpEnv.rd_out_inf hv
  exact ⟨specialCode_exact (hr n) rfl (.zero hv n), specialCode_exact (hr false) rfl (.zero hv false), specialCode_invalid hv (hr true) rfl,
    specialCode_exact (hr false) rfl (.inf hv false), specialCode_exact (hr true) rfl (.zero hv false), specialCode_exact (hr false) rfl (.inf hv false),
    specialCode_invalid hv (hr true) rfl, specialCode_invalid hv (hr n) rfl, specialCode_invalid hv (hr n) rfl, specialCode_exact (hr n) rfl (.one hv n)⟩

/-- A negative operand of FRSQ and of FLOG2. -/
theorem specialCode_negative {c : Nat} {m : Mag} (h : v.rd c = .fin true m) : specialCode 1 ty v c = v.invalid ∧ specialCode 3 ty v c = v.invalid :=
  ⟨specialCode_invalid hv h rfl, specialCode_invalid hv h rfl⟩

theorem specialCode_one :
    specialCode 3 ty v (v.out (oneVal false)) = v.out (.zero false) ∧ specialCode 4 ty v (v.out (oneVal n)) = v.out (.zero n) ∧
      specialCode 5 ty v (v.out (oneVal n)) = v.out (oneVal true) := by
  have hr := FpEnv.rd_out_one hv
  have hp : v.fmt.fbits ≤ fxBits := Nat.le_trans hv.fbits_range.2 (by decide)
  exact ⟨specialCode_exact (hr false) (flog2Fn_one _) (.zero hv false), specialCode_exact (hr n) (fsinFn_one n _) (.zero hv n),
    specialCode_exact (hr n) (fcosFn_one n hp) (.one hv true)⟩
end

/-- Settles O7: the codes by their fields, the arithmetic by the first NaN and by the constructors of its operands, the special functions by what
they fix at a value that is read and written unchanged. -/
theorem specialValues : Obligations.SpecialValues := by
  unfold Obligations.SpecialValues
  refine ⟨fun f mode sat r c hf hc => ⟨encodeVal_decodeVal hf mode sat r hc, fun n => encodeVal_decodeVal_inf hf mode r hc,
      fun h => Fmt.keepsPayload.encodeVal_nan h mode sat r hc⟩, fun mode a b c x y => ?_, fun ty v n hfmt => ?_⟩
  · exact ⟨arithmetic_invalid mode x y, arithmetic_nan_left, arithmetic_nan_right, fun _ => rfl, rfl, addVal_zero_opposite mode x, addVal_zero_same mode x⟩
  · have hv : v.fmt.keepsPayload := by
      simp only [Fmt.keepsPayload, List.mem_cons, List.not_mem_nil, or_false] at hfmt ⊢
      obtain h | h | h := hfmt
      · exact .inl h
      · exact .inr (.inr h)
      · exact .inr (.inl h)
    exact ⟨specialCode_zero ty hv n, specialCode_inf ty hv n, fun c _ ⟨_, h⟩ => specialCode_negative ty hv h, specialCode_one ty hv n⟩

end Sys2Proof.Machine

/-!
MRED .fadd.exact where the list of cores names a core twice. `State.plainMem` reads the cores through `State.core`, which finds the first entry of a
number; a word that is settled takes up the exact sums of every listed entry (`State.exactParts`). `plainMem` therefore does not see the sums of a
later entry of the same number. Such a list is not in canonical form; nothing in the statement excludes it, and a premise that every listed core
holds no sum would.
-/

namespace Sys2Proof

theorem Map.find_eq_none_of_ne {α : Type} {m : Map α} {k : Nat} (h : ∀ e ∈ m, e.1 ≠ k) : Map.find m k = none := by
  induction m with
  | nil => rfl
  | cons e m ih => rw [Map.find_cons, if_neg (h e (List.mem_cons_self ..)), ih fun x hx => h x (List.mem_cons_of_mem _ hx)]

end Sys2Proof

namespace Sys2Proof.Machine
open Sys2Proof

/-! ## The state and its issue -/

/-- MRED .fadd.exact .glb of v10 at the addresses of v8 and v9. -/
def addOne : Enc := { scope := .lane, sel := 0, look := 0, modi := 7, dst := 0, a := 8, b := 10, c := 0, lit := none }

/-- The warp of `State.placeFresh` with lane 0 alone live, which adds 1 at 0x200000. -/
def oneAdder (w : Warp) : Warp := ({ w with live := 1 }.vset 8 0 0x200000).vset 10 0 0x3F800000

/-- A word that holds 2^24 and whose sum of 1 stands in a second entry of core 0. -/
def coreTwice : State :=
  let s := State.reset.placeFresh []
  { s with
    cur := some 0
    mem := writeMem s.mem 0x200000 (bytesOf 4 0x4B800000)
    warps := [(0, oneAdder (s.warpD 0))]
    cores := [(0, {}), (0, { exact := [(0x200000, ExactSum.empty.add (decodeVal .fp32 0x3F800000))] })] }

/-- What an issue of MRED accesses. -/
abbrev Cx.mredOp (cx : Cx) (t : State) : MemOp :=
  cx.memOp t (.mred (cx.m % 8)) cx.space 4 (cx.laneAccs t cx.space 4 cx.e.a.toNat (vecWords cx.e.b.toNat 1) noWords)

/-- Its one lane there. -/
def adder : LaneAcc := { wid := 0, lane := 0, e := 0, addr := 0x200000, data := [0x3F800000] }

/-- The place of the word. -/
abbrev sumPlace : Option Loc := some (.glb 0x200000)

/-- What makes the hypotheses of the statement hold at an issue: one lane, at a word of global memory; no core but 0 is listed, and core 0 as it is
read holds no sum. The word reads as 2^24: the 1 of the second entry is lost in the rounding. -/
abbrev AddsAlone (cx : Cx) (t : State) : Prop :=
  (cx.m % 8 = 7 ∧ cx.space = 0 ∧ (cx.mredOp t).lanes = [adder] ∧ t.placeOf (cx.mredOp t) adder = sumPlace ∧ t.bytesAt 4 sumPlace = 0x4B800000) ∧
  (t.aliasQ = [] ∧ t.homes = [] ∧ t.platform.errors = [] ∧ (∀ e ∈ t.cores, e.1 = 0) ∧ (t.core 0).exact = [] ∧ (t.core 0).l1 = []) ∧
  (∀ c ∈ t.ctxs, c.2.watches = []) ∧ (t.ctx (t.block cx.blk).ctx).dmode = false ∧ (t.ctx (t.block cx.blk).ctx).detect = false ∧
  (t.block cx.blk).kind ≠ .shadow

/-- The instruction issues, and so. -/
theorem coreTwice_issues : ∃ cx t, IssuesAs coreTwice (.mred addOne) cx t ∧ AddsAlone cx t := by
  have h : (match coreTwice.beginOf (.mred addOne) with | .go cx t _ => cx.some_ && decide (AddsAlone cx t) | _ => false) = true := by decide +kernel
  split at h
  · next cx t back hb =>
    simp only [Bool.and_eq_true, decide_eq_true_eq] at h
    obtain ⟨hsome, halone⟩ := h
    exact ⟨cx, t, ⟨back, hb, hsome⟩, halone⟩
  · cases h

/-- Both sums of 1 have joined the word when it is read again: 2^24 + 2. -/
theorem coreTwice_sum {u : State} (h : exec (.mred addOne) coreTwice = .next u) : u.bytesAt 4 sumPlace = 0x4B800001 := by
  have hsum : (match exec (.mred addOne) coreTwice with | .next u => decide (u.bytesAt 4 sumPlace = 0x4B800001) | _ => true) = true := by decide +kernel
  rw [h] at hsum
  exact of_decide_eq_true hsum

/-! ## The hypotheses of the statement, and its value -/

/-- The value of the statement: 2^24 + 1, rounded to even. -/
theorem exactSum_two_pow_24_add_one : ((ExactSum.empty.add (decodeVal .fp32 0x4B800000)).add (decodeVal .fp32 0x3F800000)).read.toNat = 0x4B800000 := by
  decide +kernel

/-- A core reads as core 0 or as an untouched one where the list names no other. -/
theorem core_of_zero_listed {t : State} (h : ∀ e ∈ t.cores, e.1 = 0) (c : Nat) : t.core c = t.core 0 ∨ t.core c = {} := by
  by_cases hc : c = 0
  · exact .inl (hc ▸ rfl)
  · refine .inr ?_
    rw [State.core, Map.get, Map.find_eq_none_of_ne fun e he h0 => hc (h0.symm.trans (h e he))]
    rfl

/-- `State.plainMem` sees nothing of the second entry. -/
theorem AddsAlone.plainMem {cx : Cx} {t : State} (h : AddsAlone cx t) : t.plainMem := by
  obtain ⟨-, ⟨halias, hhomes, herrors, hlisted, hexact, hl1⟩, -⟩ := h
  refine ⟨halias, fun n => ?_, fun c => ?_, herrors⟩
  · simp [State.home, hhomes, Map.get]
  · obtain hc | hc := core_of_zero_listed hlisted c
    · rw [hc, hexact, hl1]
      exact ⟨rfl, by simp⟩
    · rw [hc]
      exact ⟨rfl, by simp⟩

/-- Refutes O29: `State.plainMem` does not see an exact sum in a second list entry of a core, and the word takes it up when it is read after the issue.
One MRED .fadd.exact of 1 at a word that reads as 2^24 leaves 2^24 + 2, where the statement gives 2^24. -/
theorem not_reductions : ¬ Obligations.Reductions := by
  unfold Obligations.Reductions
  intro h
  obtain ⟨cx, t, hissue, halone⟩ := coreTwice_issues
  have hmem := halone.plainMem
  obtain ⟨⟨hcode, hspace, hlanes, hplace, hword⟩, -, hwatch, hdmode, hdetect, hreal⟩ := halone
  have hreach : Reaches t (cx.mredOp t) := by
    intro a ha
    rw [hlanes, List.mem_singleton] at ha
    exact ⟨_, ha ▸ hplace, rfl⟩
  have hhomes : ∀ n, ((cx.mredOp t).lanes.filter fun a => match t.placeOf (cx.mredOp t) a with | some (.glb pa) => homeOf pa = n | _ => false).length ≤ 1024 := by
    intro n
    refine Nat.le_trans (List.length_filter_le ..) ?_
    rw [hlanes]
    decide
  have hmarks : ∀ a ∈ (cx.mredOp t).lanes, ∀ c ws, t.placeOf (cx.mredOp t) a = some (.spad c ws) → ∀ w ∈ ws, w / 8 * 8 ∉ (t.core c).marks := by
    intro a ha c ws hspad
    rw [hlanes, List.mem_singleton] at ha
    cases hplace.symm.trans (ha ▸ hspad)
  have hapart : ∀ a ∈ (cx.mredOp t).lanes, ∀ x ∈ (cx.mredOp t).lanes,
      t.placeOf (cx.mredOp t) a = t.placeOf (cx.mredOp t) x ∨ Apart 4 (t.placeOf (cx.mredOp t) a) (t.placeOf (cx.mredOp t) x) := by
    intro a ha x hx
    rw [hlanes, List.mem_singleton] at ha hx
    exact .inl (by rw [ha, hx])
  obtain ⟨u, hexec, -, -, hvalue⟩ := h addOne coreTwice t cx hissue (fun _ => ⟨hspace, hhomes⟩) hmem ⟨hwatch, hdmode, hdetect⟩ hreal hreach hmarks hapart
  have hone := hvalue adder (hlanes ▸ List.mem_singleton.2 rfl)
  rw [if_pos hcode, hlanes, hplace, coreTwice_sum hexec, hword] at hone
  simp only [hplace, List.filter_cons, decide_true, if_true, List.filter_nil, List.foldl_cons, List.foldl_nil] at hone
  exact absurd (hone.trans exactSum_two_pow_24_add_one) (by decide)

end Sys2Proof.Machine
